-- ==== Sys2Proof/Word.lean ====
section
/-! DEFINITION. The word and byte types of the MD9X (R3, R4): a W register holds 64 bits, memory is byte-addressed. -/

namespace Sys2Proof

/-- A 64-bit register or memory word (R33). -/
abbrev Word := BitVec 64

/-- One byte of memory (R3). -/
abbrev Byte := BitVec 8

end Sys2Proof
end

