-- ==== Sys2Proof/Syntax.lean ====
section
/-! DEFINITION. The instructions of the Thabex ISA and the events of the module: one constructor of `Instr` for every row of the opcode table. A program form holds its decoded operand fields (R110-R115); an event holds the parties it concerns. -/

namespace Sys2Proof

/-- A W-class register field (R111). -/
abbrev WReg := Fin 32
/-- A K-class register field (R111). -/
abbrev KReg := Fin 4
/-- A segment number, X0-X3, Y0-Y3, Z0-Z3 (R113). -/
abbrev Seg := Fin 12

/-- Access sizes (R112). -/
inductive Size | b | h | s | d | q
  deriving DecidableEq, Repr

/-- Bytes of an access size (R4). -/
def Size.bytes : Size → Nat
  | .b => 1 | .h => 2 | .s => 4 | .d => 8 | .q => 16

/-- The floating-point formats (R68) that a scalar form may name. -/
inductive FFmt | f64 | f32 | f16 | bf16 | f8
  deriving DecidableEq, Repr

/-- Element types (R62, R112); `raw` has no MOD code. -/
inductive ETy | fl (f : FFmt) | np | i64 | i32 | raw
  deriving DecidableEq, Repr

/-- Slot types of a sweep (R233). -/
inductive STy | f64 | f32 | i64 | i32
  deriving DecidableEq, Repr

/-- Rounding modes (R72). -/
inductive RMode | rne | rtz | rup | rdn | rna
  deriving DecidableEq, Repr

/-- Condition codes (R112). -/
inductive Cond | eq | ne | hs | lo | mi | pl | vs | vc | hi | ls | ge | lt | gt | le | al
  deriving DecidableEq, Repr

/-- Scopes of sharing (R4). -/
inductive Scope | thr | core | clu | stk | pkg | dom
  deriving DecidableEq, Repr

/-- The ORD field (R110). -/
inductive MemOrd | none | acq | rel | acqRel
  deriving DecidableEq, Repr

/-- Whether an ORD carries an acquire. -/
def MemOrd.hasAcq : MemOrd → Bool
  | .acq | .acqRel => true
  | _ => false

/-- Whether an ORD carries a release. -/
def MemOrd.hasRel : MemOrd → Bool
  | .rel | .acqRel => true
  | _ => false

/-- ORD with its SCOPE (R110, R155). -/
structure OrdScope where
  ord : MemOrd
  scope : Scope
  deriving DecidableEq, Repr

/-- An immediate of a 64-bit form (IMM23) or of a 96-bit form (IMM32). -/
inductive Imm | i23 (v : BitVec 23) | i32 (v : BitVec 32)
  deriving DecidableEq, Repr

/-- The immediate sign-extended to 64 bits (R110, R130). -/
def Imm.sext : Imm → Word
  | .i23 v => v.signExtend 64
  | .i32 v => v.signExtend 64

/-- Bytes of the form that carries the immediate (R107). -/
def Imm.formBytes : Imm → Nat
  | .i23 _ => 8
  | .i32 _ => 12

/-- The user control registers of RDCTL and WRCTL (R142). -/
inductive CtlReg
  | flags | vl | rmode | iflags | pend | repcnt | tagrel | taglnd | coreid | slotid | modid | nregs
  deriving DecidableEq, Repr

/-- The system registers of MFS and MTS (R279, R356). -/
inductive SysReg
  | wp | trapvec | trapcause | trappc | trapinfo | trapstat | traprpt | savebase | partcfg | tenant | ovfptr
  | fmt (x : Seg) | time | mprog | actl | arbase | arhead | artail | adrop | flttid | fltdrop
  deriving DecidableEq, Repr

/-- An operand of a vector form (R113). -/
inductive VOpnd | d | a | b
  deriving DecidableEq, Repr

/-- Parcel 2 of a vector form (R113). -/
structure VExt where
  /-- SOVE, SOVOP and SOV: the operand overridden and the segment whose format it uses -/
  sov : Option (VOpnd × Seg)
  /-- VLSRC and IMMVL: none for the length from VL -/
  immvl : Option (BitVec 13)
  bcb : Bool
  bca : Bool
  pib : Bool
  pia : Bool
  pid : Bool
  deriving DecidableEq, Repr

/-- The operand fields and the extension of a vector form. -/
structure VOps where
  d : WReg
  a : WReg
  b : WReg
  x : VExt
  deriving DecidableEq, Repr

/-- The operand fields of MMA and MMAS (R219). -/
structure MOps where
  d : WReg
  a : WReg
  b : WReg
  e : WReg
  f : WReg
  /-- K − 1 -/
  km1 : BitVec 16
  t : Fin 4
  ta : BitVec 4
  tb : BitVec 4
  acc : Bool
  deriving DecidableEq, Repr

/-- The party that makes a store to a device register, or a host access (R314, R318, R346). -/
inductive Party
  | core (c : Nat)
  | comptroller
  | teller
  | func (f : Nat)
  | remote (mod : Nat) (tenant : Nat)
  deriving DecidableEq, Repr

/-- The rows of the opcode table. Program forms first, by major; then the events. -/
inductive Instr
  -- MAJ 0x00 (R128)
  | add (d a b : WReg) | sub (d a b : WReg) | adc (d a b : WReg) | sbc (d a b : WReg)
  | and (d a b : WReg) | or (d a b : WReg) | xor (d a b : WReg) | andn (d a b : WReg)
  | shl (d a b : WReg) | shr (d a b : WReg) | sar (d a b : WReg) | ror (d a b : WReg)
  | mul (d a b : WReg) | mulhu (d a b : WReg) | mulhs (d a b : WReg)
  | divu (d a b : WReg) | divs (d a b : WReg) | remu (d a b : WReg) | rems (d a b : WReg)
  | minu (d a b : WReg) | mins (d a b : WReg) | maxu (d a b : WReg) | maxs (d a b : WReg)
  | cmp (a b : WReg) | tst (a b : WReg) | neg (d a : WReg)
  -- MAJ 0x01 (R130)
  | addi (d a : WReg) (i : Imm) | subi (d a : WReg) (i : Imm) | adci (d a : WReg) (i : Imm) | sbci (d a : WReg) (i : Imm)
  | andi (d a : WReg) (i : Imm) | ori (d a : WReg) (i : Imm) | xori (d a : WReg) (i : Imm) | andni (d a : WReg) (i : Imm)
  | shli (d a : WReg) (i : Imm) | shri (d a : WReg) (i : Imm) | sari (d a : WReg) (i : Imm) | rori (d a : WReg) (i : Imm)
  | muli (d a : WReg) (i : Imm) | mulhui (d a : WReg) (i : Imm) | mulhsi (d a : WReg) (i : Imm)
  | divui (d a : WReg) (i : Imm) | divsi (d a : WReg) (i : Imm) | remui (d a : WReg) (i : Imm) | remsi (d a : WReg) (i : Imm)
  | minui (d a : WReg) (i : Imm) | minsi (d a : WReg) (i : Imm) | maxui (d a : WReg) (i : Imm) | maxsi (d a : WReg) (i : Imm)
  | cmpi (a : WReg) (i : Imm) | tsti (a : WReg) (i : Imm)
  -- MAJ 0x02, 0x03 (R131, R132)
  | mov (d a : WReg) | movi (d : WReg) (i : Imm) | movhi (d : WReg) (v : BitVec 32) | lea (d a : WReg) (i : Imm)
  | leax (d a b : WReg) (sh : Fin 5) | adr (d : WReg) (i : Imm)
  | sext (sz : Size) (d a : WReg) | zext (sz : Size) (d a : WReg) | clz (d a : WReg) | ctz (d a : WReg) | popc (d a : WReg)
  | bswap (d a : WReg) | brev (d a : WReg)
  | bfx (d a : WReg) (pos len : BitVec 6) | bfxs (d a : WReg) (pos len : BitVec 6) | bfi (d a : WReg) (pos len : BitVec 6)
  -- MAJ 0x04 (R133)
  | csel (c : Cond) (d a b : WReg) | cset (c : Cond) (d : WReg)
  -- MAJ 0x05 (R134-R136)
  | fadd (t : FFmt) (d a b : WReg) | fsub (t : FFmt) (d a b : WReg) | fmul (t : FFmt) (d a b : WReg) | fdiv (t : FFmt) (d a b : WReg)
  | fsqrt (t : FFmt) (d a : WReg) | fma (t : FFmt) (d a b : WReg) | fmin (t : FFmt) (d a b : WReg) | fmax (t : FFmt) (d a b : WReg)
  | fcmp (t : FFmt) (a b : WReg) | fabs (t : FFmt) (d a : WReg) | fneg (t : FFmt) (d a : WReg) | fcvt (dst src : ETy) (d a : WReg)
  -- MAJ 0x08-0x0B (R119, R138-R141, R120)
  | nop64 | nop96 | b (disp : BitVec 23) | bc (c : Cond) (disp : BitVec 23) | bl (d : WReg) (disp : BitVec 23)
  | cbz (a : WReg) (disp : BitVec 23) | cbnz (a : WReg) (disp : BitVec 23) | dbnz (d : WReg) (disp : BitVec 23)
  | jr (a : WReg) | jlr (d a : WReg) | jmpa (t : Word) | bla (d : WReg) (t : Word) | exit
  | rep (stepM1 : BitVec 2) (md ma mb : Bool) (cntM1 : BitVec 6)
  | hintAlign (m : BitVec 5) (t : BitVec 16)
  -- MAJ 0x1C-0x1E (R142-R147)
  | rdctl (d : WReg) (c : CtlReg) | wrctl (c : CtlReg) (a : WReg) | rmset (m : RMode)
  | flgrd (d : WReg) | flgrdClu (d : WReg) | flgclr (m : BitVec 5) | flgclrClu (m : BitVec 5) | flgftClu (d : WReg) (f : Fin 5)
  | tsrd (d : WReg) | evmark (a b : WReg) (code : BitVec 16)
  -- MAJ 0x0C, 0x0D (R150)
  | ld (sz : Size) (d a : WReg) (o : Imm) | lds (sz : Size) (d a : WReg) (o : Imm)
  | ldPostinc (sz : Size) (d a : WReg) | ldsPostinc (sz : Size) (d a : WReg)
  | st (sz : Size) (a : WReg) (o : Imm) (b : WReg) | stPostinc (sz : Size) (a b : WReg)
  -- MAJ 0x10-0x13 (R156-R159)
  | ald (sz : Size) (d a : WReg) (o : Imm) (r : OrdScope) | ast (sz : Size) (a : WReg) (o : Imm) (b : WReg) (r : OrdScope)
  | aswp (sz : Size) (d a : WReg) (o : Imm) (b : WReg) (r : OrdScope) | aadd (sz : Size) (d a : WReg) (o : Imm) (b : WReg) (r : OrdScope)
  | aand (sz : Size) (d a : WReg) (o : Imm) (b : WReg) (r : OrdScope) | aor (sz : Size) (d a : WReg) (o : Imm) (b : WReg) (r : OrdScope)
  | axor (sz : Size) (d a : WReg) (o : Imm) (b : WReg) (r : OrdScope) | aminu (sz : Size) (d a : WReg) (o : Imm) (b : WReg) (r : OrdScope)
  | amins (sz : Size) (d a : WReg) (o : Imm) (b : WReg) (r : OrdScope) | amaxu (sz : Size) (d a : WReg) (o : Imm) (b : WReg) (r : OrdScope)
  | amaxs (sz : Size) (d a : WReg) (o : Imm) (b : WReg) (r : OrdScope) | acas (sz : Size) (d a : WReg) (o : Imm) (b : WReg) (r : OrdScope)
  | afadd (t : FFmt) (d a : WReg) (o : Imm) (b : WReg) (r : OrdScope)
  -- MAJ 0x14 (R160)
  | phaseRel (s : Scope) | phaseAcq (s : Scope) | phase (s : Scope) | fenceRel (s : Scope) | fenceAcq (s : Scope) | fenceAcqRel (s : Scope)
  -- MAJ 0x15 (R162)
  | binit (byt : Bool) (s : Scope) (a b : WReg) | barr (a b : WReg) (r : OrdScope) | bardrop (a b : WReg) (r : OrdScope)
  | bwait (a b : WReg) (r : OrdScope) | bsync (a b : WReg) (r : OrdScope) | bexpect (a b : WReg) | barrb (a b : WReg) (r : OrdScope)
  -- MAJ 0x18 (R167-R172)
  | send (d a b : WReg) (code : BitVec 16) | mytid (d : WReg) | mret | mmask | munmask | mwait
  -- MAJ 0x20-0x24 (R186-R190)
  | vmov (o : VOps) | vadd (o : VOps) | vsub (o : VOps) | vmul (o : VOps) | vdiv (o : VOps) | vmin (o : VOps) | vmax (o : VOps)
  | vfma (o : VOps) | vand (o : VOps) | vor (o : VOps) | vxor (o : VOps) | vshl (o : VOps) | vshr (o : VOps) | vsar (o : VOps)
  | vabs (o : VOps) | vneg (o : VOps) | vsqrt (o : VOps) | vrcp (o : VOps) | vrsqrt (o : VOps) | vexp (o : VOps) | vlog (o : VOps)
  | vtanh (o : VOps) | vsigm (o : VOps) | vcmp (c : Cond) (o : VOps) | vsel (o : VOps)
  | vred (arr msk : Bool) (o : VOps) | vredmax (arr msk : Bool) (o : VOps) | vredmin (arr msk : Bool) (o : VOps) | vdot (arr : Bool) (o : VOps)
  | vsmax (dvM1 : BitVec 12) (o : VOps) | vsmaxf (dvM1 : BitVec 12) (o : VOps)
  -- MAJ 0x30-0x32 (R194-R204)
  | mtc (c : Fin 8) (a : WReg) | mfc (d : WReg) (c : Fin 9) | claunch (d : WReg) | cstat (d a : WReg)
  | halo (d a b : WReg) (gxM1 gyM1 : BitVec 4) (wrap : Bool)
  | twaitany (d a : WReg) | twaitall (d a : WReg) | tffr (d a : WReg)
  | twaitanySrc (d a : WReg) | twaitallSrc (d a : WReg) | tffrSrc (d a : WReg)
  | cseal | cwaitn (n : BitVec 4) | cwaitnSrc (n : BitVec 4)
  -- MAJ 0x3E (R208-R211)
  | ftest (d a : WReg) | fpass (d a : WReg) | fpassMem (a : WReg) (o : BitVec 23) (b : WReg) | fcancel (a : WReg) | ftime (d a : WReg) | fwait (a : WReg)
  -- MAJ 0x34 (R215)
  | mcfg (keep : Bool) (t : Fin 4) (a : WReg) (r : OrdScope) | mzero (t : Fin 4) (r : OrdScope)
  | mma (sc pp : Bool) (o : MOps) (r : OrdScope) | mmas (pat8 : Bool) (o : MOps) (r : OrdScope)
  | mcomp (pat8 : Bool) (d a e : WReg) (km1 : BitVec 16) (rowsM1 : BitVec 7)
  | mstat (d : WReg) (t : Fin 4) | mprog (d : WReg)
  -- MAJ 0x38, 0x39 (R233, R243, R246)
  | sweep (t : STy) (arr res : Bool) (d a : WReg) (k : KReg) (e f : WReg) (seg : Seg) (cl0 nclM1 : BitVec 7) (r : OrdScope)
  | swstat (d a : WReg) | swcancel (a : WReg) | swmerge (t : STy) (arr : Bool) (d a b : WReg) | swmergeSsa (d a : WReg)
  -- MAJ 0x3B-0x3D (R252-R269)
  | capt (k : KReg) (a : WReg) (cmask : BitVec 14) (cbase : BitVec 5)
  | captr (k : KReg) (a : WReg) (cmask rmask : BitVec 14) (cbase : BitVec 5)
  | apply (k : KReg) | ret | applyA (d : WReg) (k : KReg) (named : Option WReg) (r : OrdScope)
  | kdup (d b : KReg) | kdrop (b : KReg) | kst (a : WReg) (o : BitVec 23) (b : KReg) | kld (d : KReg) (a : WReg) (o : BitVec 23)
  | krelm (a : WReg) (o : BitVec 23)
  | migr (a : WReg) | migrto (a : WReg)
  | park (d a : WReg) (k : KReg) (e : WReg) (npM1 : BitVec 6) (cls : Fin 8) (r : OrdScope)
  | wakew (a b : WReg) (r : OrdScope) | estat (d a : WReg)
  -- MAJ 0x3F (R290-R297)
  | trap (code : BitVec 16) | syscall (code : BitVec 16) | eret | eretEnd | mfs (d : WReg) (r : SysReg) | mts (r : SysReg) (a : WReg)
  | repart (d a : WReg) | spillslot (d a b : WReg) | fillslot (d a b : WReg) | fillslotEnd (d a b : WReg)
  | tlbinv (kind : Fin 3) (a b : WReg) | launch (d a b e : WReg) (pri : Fin 8) | sleep (a : WReg)
  | assaytrig (tag : BitVec 16)
  -- events of threads, pipes, copies, futures, the array, sweeps, migration and park (R40-R47, R170, R180-R183, R195-R269, R287-R297)
  | alignPointRelease (core slot : Nat) | messageArrival (n : Nat) | messageDelivery (core slot : Nat)
  | messageMaskOverrun (core slot : Nat) | vectorStart (core : Nat) | vectorCompletion (core : Nat) | copyStart (id : Nat)
  | copyReleased (id : Nat) | copyLanded (id : Nat) | haloCopy (id : Nat) | futureCompletion (n : Nat)
  | arrayCommandStart (clu : Nat) | rowBlockWrite (clu : Nat) | arrayCommandEnd (clu : Nat) | sweepAcceptance (core slot : Nat)
  | tileDelivery (sw tile core : Nat) | tileAgePriority (sw tile : Nat) | swsuspGo (tslot : Nat) | migrationFlit (n : Nat)
  | parkAcceptance (n : Nat) | wakeWrite (cell : Nat) (v : Word) | hbmDwellExpiry (cell : Nat) | cxlDwellExpiry (cell : Nat)
  | pageMoveComplete (cell page : Nat) (err : Bool) | promotionStageComplete (cell page : Nat) (err : Bool)
  | ecellclr (p : Party) (v : Word) | spill (core slot : Nat) | sleepExpiry (core slot : Nat)
  -- memory events (R35, R91, R24) and translation events (R303, R307)
  | memoryReply (core slot : Nat) | bufferedWritePerformed (core n : Nat) | pinFreeResume (core slot : Nat)
  | pageWalk (n : Nat) | efrespResolve (p : Party) (token : Nat) | efrespUnresolvable (p : Party) (token : Nat) | efheadWrite (p : Party) (v : Word)
  -- creation and placement (R36, R323, R37, R300)
  | threadCreation (n : Nat) | taskPlacement (l die core : Nat) | dieSteal (l die : Nat)
  | ctenWrite (p : Party) (core : Nat) (v : Word) | covfWrite (p : Party) (core : Nat) (v : Word)
  -- queue page stores and queue events (R314-R334)
  | qdoor (p : Party) (q : Nat) (v : Word) | qcfgWrite (p : Party) (q : Nat) (v : Word)
  | suspend (p : Party) (q : Nat) | resume (p : Party) (q : Nat) | skip (p : Party) (q : Nat) | destroy (p : Party) (q : Nat) (kill : Bool)
  | queueDestruction (q : Nat) | wsat (p : Party) (q : Nat) (v : Word)
  | packetFetch (q : Nat) | nop (q : Nat) | launchPacket (q : Nat) | applyPacket (q : Nat) | copyPacket (q : Nat) | signal (q : Nat)
  | wait (q : Nat) | andbar (q : Nat) | timestamp (q : Nat) | config (q : Nat) | packetCompletion (n : Nat)
  | queueAgeing (q : Nat) | waitSlotSpill | deadlockReport (qs : List Nat) | tevheadWrite (p : Party) (v : Word)
  -- memory fabric and links (R339-R348)
  | patrolScrub (line : Nat) | ccsctlWrite (p : Party) (v : Word) | ccsWindowWrite (p : Party) (block : Nat) (data : List Byte) (chunks : Nat)
  | eyeMarginLow (n ew eh lane : Nat) | repair (p : Party) (n : Nat) | rtrn (p : Party) (n : Nat)
  | flitReceive (n : Nat) (crcOk : Bool) | linkFailure (m : Nat) (down : Bool) | timeMessageSend (port : Nat) | timeMessageReceive (port : Nat) (sent rtt : Word)
  | cxlLinkDown (port : Nat) | flashCommandCompletion (cell page status : Nat)
  -- time (R350-R353)
  | ppsEdge | todMessage (lo hi : Word) | timeSourceLoss | timeWrap | tstep (p : Party) (v : Word)
  -- Assay (R356-R360)
  | actlWrite (clu : Nat) (v : Word) | arheadWrite (clu : Nat) (v : Word) | traceRecordWrite (clu : Nat)
  | snapshotTrigger (src : Nat) (tag : Nat) (tid : Word) | snapin | fire (p : Party) | arm (p : Party)
  -- SPDM (R363)
  | getVersion | getCapabilities | negotiateAlgorithms (asym hash aead : Nat) | getDigests | getCertificate (slot off len : Nat)
  | challenge (slot nonce : Nat) | getMeasurements (index nonce : Nat) | keyExchange (share : Nat) | finish (mac : Nat) | endSession
  -- live update (R364, R370, R371) and bring-up (R365)
  | fwverify (p : Party) (v : Word) | fwverifyDone | fwswitch (p : Party) (v : Word) | fwswitchDone | fwhb (p : Party) (v : Word) | fwRollback
  | fwdig (p : Party) (v : Word) | fwdigDone | powerOn (badGroup : Option Nat)
  -- islands and power (R368, R369)
  | islWrite (p : Party) (n : Nat) (v : Word) | thermalThrottle (n tj : Nat) | throttleStep (n : Nat) | powerLimitWindow (draw : Nat)
  -- registers with no row of their own, host writes, ends of holds
  | registerWrite (p : Party) (pa : Nat) (bytes : Nat) (v : Word) | hostBar2Write (func : Nat) (va : Word) (data : List Byte)
  | holdoverLockExpiry | retrainHoldEnd (n : Nat) | islandChangeHoldEnd (n : Nat)
  deriving DecidableEq, Repr

end Sys2Proof
end

