-- ==== Sys2Proof/WellFormed.lean ====
section
/-! DEFINITION. Which terms of `Instr` are instructions an encoding can hold: the range checks of R127 and R149-R308 that the operand types do not already make. -/

namespace Sys2Proof

/-- Whether the register field of a pair of size Q is even (R149). -/
def pairOk (sz : Size) (r : WReg) : Bool :=
  match sz with
  | .q => r.val % 2 == 0
  | _ => true

/-- A post-increment load may not load its own address register (R151). -/
def postOk (sz : Size) (d a : WReg) : Bool :=
  match sz with
  | .q => d.val % 2 == 0 && a != d && a.val != d.val + 1
  | _ => a != d

/-- The pairing of ORD and SCOPE (R155). -/
def OrdScope.ok (r : OrdScope) : Bool :=
  match r.ord, r.scope with
  | .none, .thr => true
  | .none, _ => false
  | _, .thr => false
  | _, _ => true

/-- The barrier forms' pairing: ORD 0 requires SCOPE 0 (R162). -/
def OrdScope.okBar (r : OrdScope) : Bool := r.ord != .none || r.scope == .thr

/-- A shift immediate lies in 0 to 63 (R130). -/
def shiftOk (i : Imm) : Bool := i.sext.toNat < 64

/-- The sizes an atomic read-modify-write takes (R157). -/
def Size.rmw : Size → Bool
  | .s | .d => true
  | _ => false

/-- The sizes an atomic load, store or compare takes (R156, R158). -/
def Size.atom : Size → Bool
  | .s | .d | .q => true
  | _ => false

/-- The sizes a sign-extending load takes (R150), and SEXT and ZEXT (R131). -/
def Size.narrow : Size → Bool
  | .b | .h | .s => true
  | _ => false

/-- A bit field lies within its word; a length of 0 stands for 64 (R132). -/
def fieldOk (pos len : BitVec 6) : Bool := pos.toNat + (if len.toNat = 0 then 64 else len.toNat) ≤ 64

/-- The types FCVT converts (R136). -/
def ETy.scalar : ETy → Bool
  | .np | .raw => false
  | _ => true

/-- The conditions VCMP takes (R188). -/
def Cond.vec : Cond → Bool
  | .eq | .ne | .vs | .vc | .ge | .lt | .gt | .le => true
  | _ => false

/-- Which operand fields a vector form uses, and which may be broadcast (R173, R185). -/
structure VUse where
  a : Bool
  b : Bool
  bca : Bool
  bcb : Bool
  vl : Bool
  deriving DecidableEq, Repr

/-- A two-source form with broadcast (R186). -/
def VUse.two : VUse := ⟨true, true, true, true, true⟩
/-- VMOV (R186). -/
def VUse.mov : VUse := ⟨true, false, true, false, true⟩
/-- A one-source form (R187), and a reduction without mask (R189). -/
def VUse.one : VUse := ⟨true, false, false, false, true⟩
/-- Two sources without broadcast (R189, R190). -/
def VUse.plain : VUse := ⟨true, true, false, false, true⟩
/-- VSMAXF (R190). -/
def VUse.final : VUse := ⟨false, false, false, false, false⟩

/-- A vector form's operand fields and parcel 2 are in range (R113, R173). -/
def VOps.ok (u : VUse) (o : VOps) : Bool :=
  (u.a || o.a.val == 0) && (u.b || o.b.val == 0)
  && (!o.x.pia || (u.a && !o.x.bca)) && (!o.x.pib || (u.b && !o.x.bcb))
  && (!o.x.bca || u.bca) && (!o.x.bcb || u.bcb)
  && (match o.x.immvl with
      | none => true
      | some n => u.vl && decide (1 ≤ n.toNat ∧ n.toNat ≤ 4096))
  && (match o.x.sov with
      | none => true
      | some (.d, _) => true
      | some (.a, _) => u.a
      | some (.b, _) => u.b)

/-- Whether a system register may be the target of MTS (R279). -/
def SysReg.writable : SysReg → Bool
  | .wp | .partcfg | .time | .mprog | .artail | .adrop => false
  | _ => true

/-- Whether a control register may be written (R142). -/
def CtlReg.writable : CtlReg → Bool
  | .flags | .vl | .rmode => true
  | _ => false

/-- Every operand of the instruction is in range. An event carries no encoding and is in range. -/
def Instr.wf : Instr → Bool
  | .shli _ _ i | .shri _ _ i | .sari _ _ i | .rori _ _ i => shiftOk i
  | .sext sz _ _ | .zext sz _ _ => sz.narrow
  | .bfx _ _ p l | .bfxs _ _ p l | .bfi _ _ p l => fieldOk p l
  | .fcvt x y _ _ => x.scalar && y.scalar
  | .wrctl c _ => c.writable
  | .ld sz d _ _ => pairOk sz d
  | .lds sz _ _ _ => sz.narrow
  | .ldPostinc sz d a => postOk sz d a
  | .ldsPostinc sz d a => sz.narrow && postOk sz d a
  | .st sz _ _ wb | .stPostinc sz _ wb => pairOk sz wb
  | .ald sz d _ _ r => sz.atom && pairOk sz d && r.ok
  | .ast sz _ _ wb r => sz.atom && pairOk sz wb && r.ok
  | .aswp sz _ _ _ _ r | .aadd sz _ _ _ _ r | .aand sz _ _ _ _ r | .aor sz _ _ _ _ r | .axor sz _ _ _ _ r
  | .aminu sz _ _ _ _ r | .amins sz _ _ _ _ r | .amaxu sz _ _ _ _ r | .amaxs sz _ _ _ _ r => sz.rmw && r.ok
  | .acas sz d _ _ wb r => sz.atom && pairOk sz d && pairOk sz wb && r.ok
  | .afadd t _ _ _ _ r => (t == .f64 || t == .f32) && r.ok
  | .phaseRel s | .phaseAcq s | .phase s | .fenceRel s | .fenceAcq s | .fenceAcqRel s => s != .thr
  | .binit byt s _ wb => s != .thr && (!byt || wb.val == 0)
  | .barr _ _ r | .bardrop _ _ r | .barrb _ _ r => r.okBar && (r.ord == .none || r.ord == .rel)
  | .bwait _ _ r => r.okBar && (r.ord == .none || r.ord == .acq)
  | .bsync _ _ r => r.okBar
  | .vmov o => o.ok .mov
  | .vadd o | .vsub o | .vmul o | .vdiv o | .vmin o | .vmax o | .vfma o | .vand o | .vor o | .vxor o
  | .vshl o | .vshr o | .vsar o | .vsel o => o.ok .two
  | .vcmp c o => c.vec && o.ok .two
  | .vabs o | .vneg o | .vsqrt o | .vrcp o | .vrsqrt o | .vexp o | .vlog o | .vtanh o | .vsigm o => o.ok .one
  | .vred _ m o | .vredmax _ m o | .vredmin _ m o => o.ok (if m then .plain else .one)
  | .vdot _ o | .vsmax _ o => o.ok .plain
  | .vsmaxf _ o => o.ok .final
  | .halo _ _ _ gx gy _ => (gx.toNat + 1) * (gy.toNat + 1) ≤ 16
  | .mcfg _ _ _ r | .mzero _ r => r.ok
  | .mma sc _ o r => r.ok && (sc || o.f.val == 0)
  | .mmas _ _ r => r.ok
  | .mcomp _ _ _ _ k _ => (k.toNat + 1) % 8 == 0 && decide (k.toNat < 4096)
  | .sweep _ _ _ _ _ _ _ _ _ cl n r => r.ok && decide (cl.toNat + n.toNat < 96)
  | .captr _ _ c r _ => r &&& c == r
  | .applyA _ _ _ r | .wakew _ _ r => r.ok
  | .park _ _ _ _ _ _ r => (r.ord == .acq || r.ord == .acqRel) && (r.scope == .pkg || r.scope == .dom)
  | .mts r _ => r.writable
  | .tlbinv k wa wb => (k.val == 0 || wa.val == 0) && (k.val != 2 || wb.val == 0)
  | _ => true

end Sys2Proof
end

