-- ==== Sys2Proof/Decode.lean ====
section
/-! DEFINITION. From the bytes of an instruction to its meaning as a term (R106-R118), and back: the decoder names the check of R117 that refuses an encoding, with the subcode and bit of R118. -/

namespace Sys2Proof

/-- What the checks of R117 ask of the issuing thread: its mode, its core's profile (R1), and ACTL.UTRIG (R374). -/
structure DecCtx where
  kernel : Bool
  hub : Bool
  utrig : Bool
  deriving DecidableEq, Repr

/-- A decoded instruction with its length in bytes, or the illegal-instruction subcode and bit of R118. -/
inductive Dec
  | ok (i : Instr) (len : Nat)
  | bad (sub bit : Nat)
  deriving DecidableEq, Repr

/-- The fields of parcels 0 and 1 (R110), with the extension parcels as one number (R113, R114). -/
structure Head where
  len : Nat
  maj : Nat
  fn : Nat
  d : Nat
  a : Nat
  b : Nat
  md : Nat
  sc : Nat
  ord : Nat
  imm : Nat
  ext : Nat
  deriving DecidableEq, Repr

/-- The lowest `n` bits of `w` from bit `lo`. -/
def bitsAt (w lo n : Nat) : Nat := w / 2 ^ lo % 2 ^ n

/-- Bits of the extension parcels of a length code (R107). -/
def extSpan (len : Nat) : Nat :=
  match len with
  | 2 => 2 ^ 32
  | 3 => 2 ^ 64
  | _ => 1

/-- The fields of an instruction's bits (R106, R110). -/
def Head.ofNat (w : Nat) : Head :=
  let w1 := w / 4
  let w2 := w1 / 64
  let w3 := w2 / 256
  let w4 := w3 / 32
  let w5 := w4 / 32
  let w6 := w5 / 32
  let w7 := w6 / 32
  let w8 := w7 / 8
  let w9 := w8 / 4
  let w10 := w9 / 8388608
  ⟨w % 4, w1 % 64, w2 % 256, w3 % 32, w4 % 32, w5 % 32, w6 % 32, w7 % 8, w8 % 4, w9 % 8388608, w10 % extSpan (w % 4)⟩

/-- The instruction's bits from its fields. -/
def Head.toNat (h : Head) : Nat :=
  h.len + 4 * (h.maj + 64 * (h.fn + 256 * (h.d + 32 * (h.a + 32 * (h.b + 32 * (h.md + 32 * (h.sc + 8 * (h.ord
    + 4 * (h.imm + 8388608 * h.ext)))))))))

/-- Every field fits its place. -/
def Head.fits (h : Head) : Prop :=
  h.len < 4 ∧ h.maj < 64 ∧ h.fn < 256 ∧ h.d < 32 ∧ h.a < 32 ∧ h.b < 32 ∧ h.md < 32 ∧ h.sc < 8 ∧ h.ord < 4
  ∧ h.imm < 8388608 ∧ h.ext < extSpan h.len

/-- The fields of the engine layout (R114). -/
structure Eng where
  e : Nat
  f : Nat
  seg : Nat
  im : Nat
  deriving DecidableEq, Repr

/-- The engine layout read from the extension parcels. -/
def Eng.ofNat (x : Nat) : Eng := ⟨x % 32, x / 32 % 32, x / 1024 % 16, x / 16384⟩

/-- The extension parcels of an engine layout. -/
def Eng.toNat (g : Eng) : Nat := g.e + 32 * (g.f + 32 * (g.seg + 16 * g.im))

/-- The fields of the vector layout (R113). -/
structure VPar where
  pid : Nat
  pia : Nat
  pib : Nat
  bca : Nat
  bcb : Nat
  vls : Nat
  ivl : Nat
  sov : Nat
  sove : Nat
  op : Nat
  res : Nat
  deriving DecidableEq, Repr

/-- The vector layout read from parcel 2. -/
def VPar.ofNat (x : Nat) : VPar :=
  ⟨x % 2, x / 2 % 2, x / 4 % 2, x / 8 % 2, x / 16 % 2, x / 32 % 4, x / 128 % 8192, x / 1048576 % 16,
   x / 16777216 % 2, x / 33554432 % 4, x / 134217728⟩

/-- Parcel 2 of a vector layout. -/
def VPar.toNat (v : VPar) : Nat :=
  v.pid + 2 * (v.pia + 2 * (v.pib + 2 * (v.bca + 2 * (v.bcb + 2 * (v.vls + 4 * (v.ivl + 8192 * (v.sov
    + 16 * (v.sove + 2 * (v.op + 4 * v.res)))))))))

/-! Codes of the operand sets. -/

/-- Size codes (R112). -/
def Size.code : Size → Nat
  | .b => 0 | .h => 1 | .s => 2 | .d => 3 | .q => 4
/-- The size of a code. -/
def Size.ofCode : Nat → Size
  | 1 => .h | 2 => .s | 3 => .d | 4 => .q | _ => .b
/-- Condition codes (R112). -/
def Cond.code : Cond → Nat
  | .eq => 0 | .ne => 1 | .hs => 2 | .lo => 3 | .mi => 4 | .pl => 5 | .vs => 6 | .vc => 7
  | .hi => 8 | .ls => 9 | .ge => 10 | .lt => 11 | .gt => 12 | .le => 13 | .al => 14
/-- The condition of a code. -/
def Cond.ofCode : Nat → Cond
  | 0 => .eq | 1 => .ne | 2 => .hs | 3 => .lo | 4 => .mi | 5 => .pl | 6 => .vs | 7 => .vc
  | 8 => .hi | 9 => .ls | 10 => .ge | 11 => .lt | 12 => .gt | 13 => .le | _ => .al
/-- Codes of the float types (R112). -/
def FFmt.code : FFmt → Nat
  | .f64 => 0 | .f32 => 1 | .f16 => 2 | .bf16 => 3 | .f8 => 4
/-- The float type of a code. -/
def FFmt.ofCode : Nat → FFmt
  | 0 => .f64 | 1 => .f32 | 2 => .f16 | 3 => .bf16 | _ => .f8
/-- Type codes (R62, R112). -/
def ETy.code : ETy → Nat
  | .fl f => f.code | .np => 5 | .i64 => 6 | .i32 => 7 | .raw => 8
/-- The type of a code; codes 9 to 15, which R62 does not list and names no fault for, are read as RAW. (DESIGN CHOICE, log 121.) -/
def ETy.ofCode : Nat → ETy
  | 0 => .fl .f64 | 1 => .fl .f32 | 2 => .fl .f16 | 3 => .fl .bf16 | 4 => .fl .f8 | 5 => .np | 6 => .i64 | 7 => .i32 | _ => .raw
/-- Slot type codes (R233). -/
def STy.code : STy → Nat
  | .f64 => 0 | .f32 => 1 | .i64 => 6 | .i32 => 7
/-- The slot type of a code. -/
def STy.ofCode : Nat → STy
  | 0 => .f64 | 1 => .f32 | 6 => .i64 | _ => .i32
/-- Rounding mode codes (R77). -/
def RMode.code : RMode → Nat
  | .rne => 0 | .rtz => 1 | .rup => 2 | .rdn => 3 | .rna => 4
/-- The rounding mode of a code. -/
def RMode.ofCode : Nat → RMode
  | 0 => .rne | 1 => .rtz | 2 => .rup | 3 => .rdn | _ => .rna
/-- Scope codes (R110). -/
def Scope.code : Scope → Nat
  | .thr => 0 | .core => 1 | .clu => 2 | .stk => 3 | .pkg => 4 | .dom => 5
/-- The scope of a code. -/
def Scope.ofCode : Nat → Scope
  | 0 => .thr | 1 => .core | 2 => .clu | 3 => .stk | 4 => .pkg | _ => .dom
/-- ORD codes (R110). -/
def MemOrd.code : MemOrd → Nat
  | .none => 0 | .acq => 1 | .rel => 2 | .acqRel => 3
/-- The ordering of a code. -/
def MemOrd.ofCode : Nat → MemOrd
  | 0 => .none | 1 => .acq | 2 => .rel | _ => .acqRel
/-- Control register codes (R142). -/
def CtlReg.code : CtlReg → Nat
  | .flags => 0 | .vl => 1 | .rmode => 2 | .iflags => 3 | .pend => 4 | .repcnt => 5 | .tagrel => 6 | .taglnd => 7
  | .coreid => 8 | .slotid => 9 | .modid => 10 | .nregs => 11
/-- The control register of a code. -/
def CtlReg.ofCode : Nat → CtlReg
  | 0 => .flags | 1 => .vl | 2 => .rmode | 3 => .iflags | 4 => .pend | 5 => .repcnt | 6 => .tagrel | 7 => .taglnd
  | 8 => .coreid | 9 => .slotid | 10 => .modid | _ => .nregs
/-- System register codes (R279, R356). -/
def SysReg.code : SysReg → Nat
  | .wp => 0x000 | .trapvec => 0x001 | .trapcause => 0x002 | .trappc => 0x003 | .trapinfo => 0x004 | .trapstat => 0x005
  | .traprpt => 0x006 | .savebase => 0x007 | .partcfg => 0x008 | .tenant => 0x009 | .ovfptr => 0x00A
  | .fmt x => 0x010 + x.val | .time => 0x020 | .mprog => 0x021
  | .actl => 0x030 | .arbase => 0x031 | .arhead => 0x032 | .artail => 0x033 | .adrop => 0x034
  | .flttid => 0x040 | .fltdrop => 0x041
/-- The system register of a code, if the code is in the table. -/
def SysReg.ofCode (n : Nat) : Option SysReg :=
  match n with
  | 0x000 => some .wp | 0x001 => some .trapvec | 0x002 => some .trapcause | 0x003 => some .trappc
  | 0x004 => some .trapinfo | 0x005 => some .trapstat | 0x006 => some .traprpt | 0x007 => some .savebase
  | 0x008 => some .partcfg | 0x009 => some .tenant | 0x00A => some .ovfptr
  | 0x010 => some (.fmt 0) | 0x011 => some (.fmt 1) | 0x012 => some (.fmt 2) | 0x013 => some (.fmt 3)
  | 0x014 => some (.fmt 4) | 0x015 => some (.fmt 5) | 0x016 => some (.fmt 6) | 0x017 => some (.fmt 7)
  | 0x018 => some (.fmt 8) | 0x019 => some (.fmt 9) | 0x01A => some (.fmt 10) | 0x01B => some (.fmt 11)
  | 0x020 => some .time | 0x021 => some .mprog
  | 0x030 => some .actl | 0x031 => some .arbase | 0x032 => some .arhead | 0x033 => some .artail | 0x034 => some .adrop
  | 0x040 => some .flttid | 0x041 => some .fltdrop
  | _ => none
/-- The registers MFS reaches in user mode (R374). -/
def SysReg.user : SysReg → Bool
  | .partcfg | .ovfptr | .fmt _ | .time | .mprog => true
  | _ => false
/-- SOVOP codes (R113). -/
def VOpnd.code : VOpnd → Nat
  | .d => 0 | .a => 1 | .b => 2
/-- The operand of a SOVOP code. -/
def VOpnd.ofCode : Nat → VOpnd
  | 0 => .d | 1 => .a | _ => .b

/-! The checks of a form. -/

/-- The position of the lowest one bit; 0 for 0. -/
def lowBit : Nat → Nat → Nat
  | 0, _ => 0
  | n + 1, x => if x % 2 = 1 then 0 else 1 + lowBit n (x / 2)

/-- A reserved field at bit `lo`: the lowest nonzero bit offends (R118). -/
def resv (x lo : Nat) : Option Nat := if x = 0 then none else some (lo + lowBit 128 x)

/-- A field at bit `lo` must satisfy `ok` (R127). -/
def rng (ok : Bool) (lo : Nat) : Option Nat := if ok then none else some lo

/-- The first offending bit of checks in ascending order. -/
def firstBad : List (Option Nat) → Option Nat
  | [] => none
  | some x :: _ => some x
  | none :: l => firstBad l

/-- A form's reading of its fields: the instruction, the checks of order 7 of R117 in ascending bit order, and
whether the form is privileged (order 6). -/
structure Row where
  i : Instr
  chk : List (Option Nat)
  priv : Bool
  deriving Repr

namespace Head

/-- Field D as a workspace register. -/
def wd (h : Head) : WReg := Fin.ofNat 32 h.d
/-- Field A as a workspace register. -/
def wa (h : Head) : WReg := Fin.ofNat 32 h.a
/-- Field B as a workspace register. -/
def wb (h : Head) : WReg := Fin.ofNat 32 h.b
/-- Field D as a closure register. -/
def kd (h : Head) : KReg := Fin.ofNat 4 h.d
/-- Field B as a closure register. -/
def kb (h : Head) : KReg := Fin.ofNat 4 h.b
/-- D unused. -/
def rD (h : Head) : Option Nat := resv h.d 16
/-- A unused. -/
def rA (h : Head) : Option Nat := resv h.a 21
/-- B unused. -/
def rB (h : Head) : Option Nat := resv h.b 26
/-- MOD unused. -/
def rM (h : Head) : Option Nat := resv h.md 31
/-- SCOPE unused. -/
def rS (h : Head) : Option Nat := resv h.sc 36
/-- ORD unused. -/
def rO (h : Head) : Option Nat := resv h.ord 39
/-- IMM23 unused from its bit `k` upward. -/
def rI (h : Head) (k : Nat) : Option Nat := resv (h.imm / 2 ^ k) (41 + k)
/-- D is K-class (R111). -/
def cKD (h : Head) : Option Nat := rng (h.d < 4) 16
/-- B is K-class (R111). -/
def cKB (h : Head) : Option Nat := rng (h.b < 4) 26
/-- ORD and SCOPE paired (R155). -/
def cOS (h : Head) : Option Nat := rng (if h.ord = 0 then h.sc = 0 else 1 ≤ h.sc && h.sc ≤ 5) 36
/-- The barrier forms' pairing: ORD 0 requires SCOPE 0 (R162); a SCOPE that differs from the record's is a fault of the access. -/
def cOB (h : Head) : Option Nat := rng (if h.ord = 0 then h.sc = 0 else h.sc ≤ 5) 36
/-- ORD with SCOPE as the form holds them. -/
def os (h : Head) : OrdScope := ⟨MemOrd.ofCode h.ord, Scope.ofCode h.sc⟩
/-- IMM23 as the form holds it. -/
def i23 (h : Head) : BitVec 23 := BitVec.ofNat 23 h.imm
/-- The immediate of a form of 64 or 96 bits (R113, R130, R148). -/
def im (h : Head) : Imm := if h.len = 1 then .i23 (BitVec.ofNat 23 h.imm) else .i32 (BitVec.ofNat 32 h.ext)
/-- IMM23 is reserved in the 96-bit length (R148). -/
def cIm (h : Head) : Option Nat := if h.len = 1 then none else h.rI 0
/-- The engine layout. -/
def eng (h : Head) : Eng := Eng.ofNat h.ext

end Head

/-- Field E of an engine layout as a workspace register. -/
def Eng.we (g : Eng) : WReg := Fin.ofNat 32 g.e
/-- Field F of an engine layout as a workspace register. -/
def Eng.wf (g : Eng) : WReg := Fin.ofNat 32 g.f

/-- A form of 64 bits. -/
def row64 (h : Head) (i : Instr) (chk : List (Option Nat)) (priv : Bool := false) : Option Row :=
  if h.len = 1 then some ⟨i, chk, priv⟩ else none

/-- A form of 96 bits. -/
def row96 (h : Head) (i : Instr) (chk : List (Option Nat)) : Option Row :=
  if h.len = 2 then some ⟨i, chk, false⟩ else none

/-- A form of 64 or 96 bits. -/
def rowBoth (h : Head) (i : Instr) (chk : List (Option Nat)) : Option Row :=
  if h.len = 1 ∨ h.len = 2 then some ⟨i, chk, false⟩ else none

/-- A form of 128 bits. -/
def row128 (h : Head) (i : Instr) (chk : List (Option Nat)) : Option Row :=
  if h.len = 3 then some ⟨i, chk, false⟩ else none

/-- A form of three registers (R128). -/
def row3 (h : Head) (c : WReg → WReg → WReg → Instr) : Option Row :=
  row64 h (c h.wd h.wa h.wb) [h.rM, h.rS, h.rO, h.rI 0]

/-- A form of two registers, D and A. -/
def row2 (h : Head) (c : WReg → WReg → Instr) : Option Row :=
  row64 h (c h.wd h.wa) [h.rB, h.rM, h.rS, h.rO, h.rI 0]

/-- A form that uses D alone. -/
def rowD (h : Head) (i : Instr) : Option Row := row64 h i [h.rA, h.rB, h.rM, h.rS, h.rO, h.rI 0]

/-- A form that uses A alone. -/
def rowA (h : Head) (i : Instr) (priv : Bool := false) : Option Row := row64 h i [h.rD, h.rB, h.rM, h.rS, h.rO, h.rI 0] priv

/-- A form that uses no field. -/
def row0 (h : Head) (i : Instr) : Option Row := row64 h i [h.rD, h.rA, h.rB, h.rM, h.rS, h.rO, h.rI 0]

/-- MAJ 0x00 (R128). -/
def dec00 (h : Head) : Option Row :=
  match h.fn with
  | 0x00 => row3 h .add | 0x01 => row3 h .sub | 0x02 => row3 h .adc | 0x03 => row3 h .sbc
  | 0x04 => row3 h .and | 0x05 => row3 h .or | 0x06 => row3 h .xor | 0x07 => row3 h .andn
  | 0x08 => row3 h .shl | 0x09 => row3 h .shr | 0x0A => row3 h .sar | 0x0B => row3 h .ror
  | 0x0C => row3 h .mul | 0x0D => row3 h .mulhu | 0x0E => row3 h .mulhs
  | 0x0F => row3 h .divu | 0x10 => row3 h .divs | 0x11 => row3 h .remu | 0x12 => row3 h .rems
  | 0x13 => row3 h .minu | 0x14 => row3 h .mins | 0x15 => row3 h .maxu | 0x16 => row3 h .maxs
  | 0x17 => row64 h (.cmp h.wa h.wb) [h.rD, h.rM, h.rS, h.rO, h.rI 0]
  | 0x18 => row64 h (.tst h.wa h.wb) [h.rD, h.rM, h.rS, h.rO, h.rI 0]
  | 0x19 => row2 h .neg
  | _ => none

/-- An immediate form (R130). -/
def rowI (h : Head) (c : WReg → WReg → Imm → Instr) : Option Row :=
  rowBoth h (c h.wd h.wa h.im) [h.rB, h.rM, h.rS, h.rO, h.cIm]

/-- A shift by an immediate (R130): the offending bit is the lowest of the immediate field. -/
def rowSh (h : Head) (c : WReg → WReg → Imm → Instr) : Option Row :=
  rowBoth h (c h.wd h.wa h.im) [h.rB, h.rM, h.rS, h.rO, h.cIm, rng (shiftOk h.im) (if h.len = 1 then 41 else 64)]

/-- MAJ 0x01 (R130). -/
def dec01 (h : Head) : Option Row :=
  match h.fn with
  | 0x00 => rowI h .addi | 0x01 => rowI h .subi | 0x02 => rowI h .adci | 0x03 => rowI h .sbci
  | 0x04 => rowI h .andi | 0x05 => rowI h .ori | 0x06 => rowI h .xori | 0x07 => rowI h .andni
  | 0x08 => rowSh h .shli | 0x09 => rowSh h .shri | 0x0A => rowSh h .sari | 0x0B => rowSh h .rori
  | 0x0C => rowI h .muli | 0x0D => rowI h .mulhui | 0x0E => rowI h .mulhsi
  | 0x0F => rowI h .divui | 0x10 => rowI h .divsi | 0x11 => rowI h .remui | 0x12 => rowI h .remsi
  | 0x13 => rowI h .minui | 0x14 => rowI h .minsi | 0x15 => rowI h .maxui | 0x16 => rowI h .maxsi
  | 0x17 => rowBoth h (.cmpi h.wa h.im) [h.rD, h.rB, h.rM, h.rS, h.rO, h.cIm]
  | 0x18 => rowBoth h (.tsti h.wa h.im) [h.rD, h.rB, h.rM, h.rS, h.rO, h.cIm]
  | _ => none

/-- MAJ 0x02 (R131). -/
def dec02 (h : Head) : Option Row :=
  match h.fn with
  | 0x00 => row2 h .mov
  | 0x01 => rowBoth h (.movi h.wd h.im) [h.rA, h.rB, h.rM, h.rS, h.rO, h.cIm]
  | 0x02 => row96 h (.movhi h.wd (BitVec.ofNat 32 h.ext)) [h.rA, h.rB, h.rM, h.rS, h.rO, h.rI 0]
  | 0x03 => rowI h .lea
  | 0x04 => row64 h (.leax h.wd h.wa h.wb (Fin.ofNat 5 h.md)) [rng (h.md < 5) 31, h.rS, h.rO, h.rI 0]
  | 0x05 => rowBoth h (.adr h.wd h.im) [h.rA, h.rB, h.rM, h.rS, h.rO, h.cIm]
  | _ => none

/-- A bit-field form (R132): pos in bits 0-5 of IMM32, len in bits 8-13. -/
def rowBf (h : Head) (c : WReg → WReg → BitVec 6 → BitVec 6 → Instr) : Option Row :=
  let p := BitVec.ofNat 6 (h.ext % 64)
  let l := BitVec.ofNat 6 (h.ext / 256 % 64)
  row96 h (c h.wd h.wa p l) [h.rB, h.rM, h.rS, h.rO, h.rI 0, rng (fieldOk p l) 64, resv (h.ext / 64 % 4) 70, resv (h.ext / 16384) 78]

/-- MAJ 0x03 (R131, R132). -/
def dec03 (h : Head) : Option Row :=
  match h.fn with
  | 0x00 => row64 h (.sext (Size.ofCode h.md) h.wd h.wa) [h.rB, rng (h.md < 3) 31, h.rS, h.rO, h.rI 0]
  | 0x01 => row64 h (.zext (Size.ofCode h.md) h.wd h.wa) [h.rB, rng (h.md < 3) 31, h.rS, h.rO, h.rI 0]
  | 0x02 => row2 h .clz | 0x03 => row2 h .ctz | 0x04 => row2 h .popc | 0x05 => row2 h .bswap | 0x06 => row2 h .brev
  | 0x07 => rowBf h .bfx | 0x08 => rowBf h .bfxs | 0x09 => rowBf h .bfi
  | _ => none

/-- MAJ 0x04 (R133). -/
def dec04 (h : Head) : Option Row :=
  match h.fn with
  | 0x00 => row64 h (.csel (Cond.ofCode h.md) h.wd h.wa h.wb) [rng (h.md < 15) 31, h.rS, h.rO, h.rI 0]
  | 0x01 => row64 h (.cset (Cond.ofCode h.md) h.wd) [h.rA, h.rB, rng (h.md < 15) 31, h.rS, h.rO, h.rI 0]
  | _ => none

/-- A float form of three registers (R134). -/
def rowF3 (h : Head) (c : FFmt → WReg → WReg → WReg → Instr) : Option Row :=
  row64 h (c (FFmt.ofCode h.md) h.wd h.wa h.wb) [rng (h.md < 5) 31, h.rS, h.rO, h.rI 0]

/-- A float form of two registers (R134). -/
def rowF2 (h : Head) (c : FFmt → WReg → WReg → Instr) : Option Row :=
  row64 h (c (FFmt.ofCode h.md) h.wd h.wa) [h.rB, rng (h.md < 5) 31, h.rS, h.rO, h.rI 0]

/-- MAJ 0x05 (R134, R136). -/
def dec05 (h : Head) : Option Row :=
  match h.fn with
  | 0x00 => rowF3 h .fadd | 0x01 => rowF3 h .fsub | 0x02 => rowF3 h .fmul | 0x03 => rowF3 h .fdiv
  | 0x04 => rowF2 h .fsqrt | 0x05 => rowF3 h .fma | 0x06 => rowF3 h .fmin | 0x07 => rowF3 h .fmax
  | 0x08 => row64 h (.fcmp (FFmt.ofCode h.md) h.wa h.wb) [h.rD, rng (h.md < 5) 31, h.rS, h.rO, h.rI 0]
  | 0x09 => rowF2 h .fabs | 0x0A => rowF2 h .fneg
  | 0x0B => row64 h (.fcvt (ETy.ofCode h.md) (ETy.ofCode (h.imm % 8)) h.wd h.wa)
      [h.rB, rng (h.md < 8 && h.md != 5) 31, h.rS, h.rO, rng (h.imm % 8 != 5) 41, h.rI 3]
  | _ => none

/-- MAJ 0x08 (R119, R138). -/
def dec08 (h : Head) : Option Row :=
  match h.fn with
  | 0x00 => if h.len = 2 then some ⟨.nop96, [h.rD, h.rA, h.rB, h.rM, h.rS, h.rO, h.rI 0, resv h.ext 64], false⟩ else row0 h .nop64
  | 0x01 => row64 h (.b h.i23) [h.rD, h.rA, h.rB, h.rM, h.rS, h.rO]
  | 0x02 => row64 h (.bc (Cond.ofCode h.md) h.i23) [h.rD, h.rA, h.rB, rng (h.md < 15) 31, h.rS, h.rO]
  | 0x03 => row64 h (.bl h.wd h.i23) [h.rA, h.rB, h.rM, h.rS, h.rO]
  | 0x04 => row64 h (.cbz h.wa h.i23) [h.rD, h.rB, h.rM, h.rS, h.rO]
  | 0x05 => row64 h (.cbnz h.wa h.i23) [h.rD, h.rB, h.rM, h.rS, h.rO]
  | 0x06 => row64 h (.dbnz h.wd h.i23) [h.rA, h.rB, h.rM, h.rS, h.rO]
  | 0x07 => rowA h (.jr h.wa)
  | 0x08 => row2 h .jlr
  | _ => none

/-- MAJ 0x09 (R138). -/
def dec09 (h : Head) : Option Row :=
  match h.fn with
  | 0x00 => row128 h (.jmpa (BitVec.ofNat 64 h.ext)) [h.rD, h.rA, h.rB, h.rM, h.rS, h.rO, h.rI 0]
  | 0x01 => row128 h (.bla h.wd (BitVec.ofNat 64 h.ext)) [h.rA, h.rB, h.rM, h.rS, h.rO, h.rI 0]
  | _ => none

/-- MAJ 0x0A (R138). -/
def dec0A (h : Head) : Option Row :=
  match h.fn with
  | 0x00 => row0 h .exit
  | _ => none

/-- MAJ 0x0B (R120, R141). -/
def dec0B (h : Head) : Option Row :=
  match h.fn with
  | 0x00 => row64 h (.rep (BitVec.ofNat 2 (h.imm / 512 % 4)) (h.imm / 256 % 2 == 1) (h.imm / 128 % 2 == 1) (h.imm / 64 % 2 == 1)
      (BitVec.ofNat 6 (h.imm % 64))) [h.rD, h.rA, h.rB, h.rM, h.rS, h.rO, h.rI 11]
  | 0x01 => row64 h (.hintAlign (BitVec.ofNat 5 h.md) (BitVec.ofNat 16 (h.imm % 65536))) [h.rD, h.rA, h.rB, h.rS, h.rO, h.rI 16]
  | _ => none

/-- MAJ 0x0C (R150, R151). -/
def dec0C (h : Head) : Option Row :=
  let sz := Size.ofCode h.md
  match h.fn with
  | 0x00 => rowBoth h (.ld sz h.wd h.wa h.im) [rng (pairOk sz h.wd) 16, h.rB, rng (h.md < 5) 31, h.rS, h.rO, h.cIm]
  | 0x01 => rowBoth h (.lds sz h.wd h.wa h.im) [h.rB, rng (h.md < 3) 31, h.rS, h.rO, h.cIm]
  | 0x02 => row64 h (.ldPostinc sz h.wd h.wa)
      [rng (pairOk sz h.wd) 16, rng (postOk sz h.wd h.wa) 21, h.rB, rng (h.md < 5) 31, h.rS, h.rO, h.rI 0]
  | 0x03 => row64 h (.ldsPostinc sz h.wd h.wa) [rng (h.wd != h.wa) 21, h.rB, rng (h.md < 3) 31, h.rS, h.rO, h.rI 0]
  | _ => none

/-- MAJ 0x0D (R150). -/
def dec0D (h : Head) : Option Row :=
  let sz := Size.ofCode h.md
  match h.fn with
  | 0x00 => rowBoth h (.st sz h.wa h.im h.wb) [h.rD, rng (pairOk sz h.wb) 26, rng (h.md < 5) 31, h.rS, h.rO, h.cIm]
  | 0x01 => row64 h (.stPostinc sz h.wa h.wb) [h.rD, rng (pairOk sz h.wb) 26, rng (h.md < 5) 31, h.rS, h.rO, h.rI 0]
  | _ => none

/-- MAJ 0x10 (R156). -/
def dec10 (h : Head) : Option Row :=
  let sz := Size.ofCode h.md
  match h.fn with
  | 0x00 => rowBoth h (.ald sz h.wd h.wa h.im h.os) [rng (pairOk sz h.wd) 16, h.rB, rng (2 ≤ h.md && h.md < 5) 31, h.cOS, h.cIm]
  | 0x01 => rowBoth h (.ast sz h.wa h.im h.wb h.os) [h.rD, rng (pairOk sz h.wb) 26, rng (2 ≤ h.md && h.md < 5) 31, h.cOS, h.cIm]
  | _ => none

/-- A read-modify-write form (R157). -/
def rowRmw (h : Head) (c : Size → WReg → WReg → Imm → WReg → OrdScope → Instr) : Option Row :=
  rowBoth h (c (Size.ofCode h.md) h.wd h.wa h.im h.wb h.os) [rng (h.md == 2 || h.md == 3) 31, h.cOS, h.cIm]

/-- MAJ 0x11 (R157). -/
def dec11 (h : Head) : Option Row :=
  match h.fn with
  | 0x00 => rowRmw h .aswp | 0x01 => rowRmw h .aadd | 0x02 => rowRmw h .aand | 0x03 => rowRmw h .aor | 0x04 => rowRmw h .axor
  | 0x05 => rowRmw h .aminu | 0x06 => rowRmw h .amins | 0x07 => rowRmw h .amaxu | 0x08 => rowRmw h .amaxs
  | _ => none

/-- MAJ 0x12 (R158). -/
def dec12 (h : Head) : Option Row :=
  let sz := Size.ofCode h.md
  match h.fn with
  | 0x00 => rowBoth h (.acas sz h.wd h.wa h.im h.wb h.os)
      [rng (pairOk sz h.wd) 16, rng (pairOk sz h.wb) 26, rng (2 ≤ h.md && h.md < 5) 31, h.cOS, h.cIm]
  | _ => none

/-- MAJ 0x13 (R159). -/
def dec13 (h : Head) : Option Row :=
  match h.fn with
  | 0x00 => rowBoth h (.afadd (FFmt.ofCode h.md) h.wd h.wa h.im h.wb h.os) [rng (h.md < 2) 31, h.cOS, h.cIm]
  | _ => none

/-- A phase or fence form (R160). -/
def rowPh (h : Head) (i : Instr) : Option Row :=
  row64 h i [h.rD, h.rA, h.rB, h.rM, rng (1 ≤ h.sc && h.sc ≤ 5) 36, rng (h.ord != 0) 39, h.rI 0]

/-- MAJ 0x14 (R160). -/
def dec14 (h : Head) : Option Row :=
  let s := Scope.ofCode h.sc
  match h.fn with
  | 0x00 => rowPh h (if h.ord = 1 then .phaseAcq s else if h.ord = 2 then .phaseRel s else .phase s)
  | 0x01 => rowPh h (if h.ord = 1 then .fenceAcq s else if h.ord = 2 then .fenceRel s else .fenceAcqRel s)
  | _ => none

/-- MAJ 0x15 (R162). -/
def dec15 (h : Head) : Option Row :=
  match h.fn with
  | 0x00 => row64 h (.binit (h.md == 1) (Scope.ofCode h.sc) h.wa h.wb)
      [h.rD, rng (h.md != 1 || h.b == 0) (26 + lowBit 5 h.b), rng (h.md < 2) 31, rng (1 ≤ h.sc && h.sc ≤ 5) 36, rng (h.ord == 0) 39, h.rI 0]
  | 0x01 => row64 h (.barr h.wa h.wb h.os) [h.rD, h.rM, h.cOB, rng (h.ord == 0 || h.ord == 2) 39, h.rI 0]
  | 0x02 => row64 h (.bardrop h.wa h.wb h.os) [h.rD, h.rM, h.cOB, rng (h.ord == 0 || h.ord == 2) 39, h.rI 0]
  | 0x03 => row64 h (.bwait h.wa h.wb h.os) [h.rD, h.rM, h.cOB, rng (h.ord == 0 || h.ord == 1) 39, h.rI 0]
  | 0x04 => row64 h (.bsync h.wa h.wb h.os) [h.rD, h.rM, h.cOB, h.rI 0]
  | 0x05 => row64 h (.bexpect h.wa h.wb) [h.rD, h.rM, h.cOB, rng (h.ord == 0) 39, h.rI 0]
  | 0x06 => row64 h (.barrb h.wa h.wb h.os) [h.rD, h.rM, h.cOB, rng (h.ord == 0 || h.ord == 2) 39, h.rI 0]
  | _ => none

/-- MAJ 0x18 (R167, R168, R171, R172). -/
def dec18 (h : Head) : Option Row :=
  match h.fn with
  | 0x00 => row64 h (.send h.wd h.wa h.wb (BitVec.ofNat 16 (h.imm % 65536))) [h.rM, h.rS, h.rO, h.rI 16]
  | 0x01 => rowD h (.mytid h.wd)
  | 0x02 => row0 h .mret | 0x03 => row0 h .mmask | 0x04 => row0 h .munmask | 0x05 => row0 h .mwait
  | _ => none

/-- MAJ 0x1C (R142). -/
def dec1C (h : Head) : Option Row :=
  match h.fn with
  | 0x00 => row64 h (.rdctl h.wd (CtlReg.ofCode h.imm)) [h.rA, h.rB, h.rM, h.rS, h.rO, rng (h.imm < 12) 41]
  | 0x01 => row64 h (.wrctl (CtlReg.ofCode h.imm) h.wa) [h.rD, h.rB, h.rM, h.rS, h.rO, rng (h.imm < 3) 41]
  | _ => none

/-- MAJ 0x1D (R144); `clu` says whether the profile accepts SCOPE 2 (R1). -/
def dec1D (clu : Bool) (h : Head) : Option Row :=
  match h.fn with
  | 0x00 => row64 h (.rmset (RMode.ofCode h.imm)) [h.rD, h.rA, h.rB, h.rM, rng (h.sc == 0) 36, h.rO, rng (h.imm < 5) 41]
  | 0x01 => row64 h (if h.sc = 2 then .flgrdClu h.wd else .flgrd h.wd)
      [h.rA, h.rB, h.rM, rng (h.sc == 0 || (clu && h.sc == 2)) 36, h.rO, h.rI 0]
  | 0x02 => row64 h (if h.sc = 2 then .flgclrClu (BitVec.ofNat 5 (h.imm % 32)) else .flgclr (BitVec.ofNat 5 (h.imm % 32)))
      [h.rD, h.rA, h.rB, h.rM, rng (h.sc == 0 || (clu && h.sc == 2)) 36, h.rO, h.rI 5]
  | 0x03 => row64 h (.flgftClu h.wd (Fin.ofNat 5 h.imm)) [h.rA, h.rB, h.rM, rng (clu && h.sc == 2) 36, h.rO, rng (h.imm < 5) 41]
  | _ => none

/-- MAJ 0x1E (R146, R147). -/
def dec1E (h : Head) : Option Row :=
  match h.fn with
  | 0x00 => rowD h (.tsrd h.wd)
  | 0x01 => row64 h (.evmark h.wa h.wb (BitVec.ofNat 16 (h.imm % 65536))) [h.rD, h.rM, h.rS, h.rO, h.rI 16]
  | _ => none

/-! The vector majors. -/

/-- Parcel 2 as the form holds it (R113). -/
def VPar.ext (v : VPar) : VExt where
  sov := if v.sove = 1 then some (VOpnd.ofCode v.op, Fin.ofNat 12 v.sov) else none
  immvl := if v.vls = 1 then some (BitVec.ofNat 13 v.ivl) else none
  bcb := v.bcb == 1
  bca := v.bca == 1
  pib := v.pib == 1
  pia := v.pia == 1
  pid := v.pid == 1

/-- The checks of parcel 2 for a form that uses `u` (R113, R173). The offending bit of an unused operand's override is
SOVE, and that of a broadcast with post-increment is PIA or PIB (log 12). -/
def VPar.chk (v : VPar) (u : VUse) : List (Option Nat) :=
  [rng (v.pia == 0 || (u.a && v.bca == 0)) 65, rng (v.pib == 0 || (u.b && v.bcb == 0)) 66,
   rng (v.bca == 0 || u.bca) 67, rng (v.bcb == 0 || u.bcb) 68,
   rng (v.vls == 0 || (v.vls == 1 && u.vl)) 69,
   if v.vls = 1 then rng (1 ≤ v.ivl && v.ivl ≤ 4096) 71 else resv v.ivl 71,
   rng (if v.sove = 1 then v.sov < 12 else v.sov = 0) 84,
   rng (v.sove == 0 || (v.op == 1 && u.a) || (v.op == 2 && u.b) || v.op == 0 || v.op == 3) 88,
   rng (if v.sove = 1 then v.op < 3 else v.op = 0) 89,
   resv v.res 91]

/-- The operands of a vector form. -/
def Head.vops (h : Head) : VOps := ⟨h.wd, h.wa, h.wb, (VPar.ofNat h.ext).ext⟩

/-- A vector form: `md` and `im` check MOD and IMM23. -/
def rowV (h : Head) (u : VUse) (i : Instr) (md im : Option Nat) : Option Row :=
  row96 h i ([if u.a then none else h.rA, if u.b then none else h.rB, md, h.rS, h.rO, im] ++ (VPar.ofNat h.ext).chk u)

/-- A vector form that uses neither MOD nor IMM23. -/
def rowVP (h : Head) (u : VUse) (c : VOps → Instr) : Option Row := rowV h u (c h.vops) h.rM (h.rI 0)

/-- MAJ 0x20 (R186). -/
def dec20 (h : Head) : Option Row :=
  match h.fn with
  | 0x00 => rowVP h .mov .vmov | 0x01 => rowVP h .two .vadd | 0x02 => rowVP h .two .vsub | 0x03 => rowVP h .two .vmul
  | 0x04 => rowVP h .two .vdiv | 0x05 => rowVP h .two .vmin | 0x06 => rowVP h .two .vmax | 0x07 => rowVP h .two .vfma
  | 0x08 => rowVP h .two .vand | 0x09 => rowVP h .two .vor | 0x0A => rowVP h .two .vxor
  | 0x0B => rowVP h .two .vshl | 0x0C => rowVP h .two .vshr | 0x0D => rowVP h .two .vsar
  | _ => none

/-- MAJ 0x21 (R187). -/
def dec21 (h : Head) : Option Row :=
  match h.fn with
  | 0x00 => rowVP h .one .vabs | 0x01 => rowVP h .one .vneg | 0x02 => rowVP h .one .vsqrt | 0x03 => rowVP h .one .vrcp
  | 0x04 => rowVP h .one .vrsqrt | 0x05 => rowVP h .one .vexp | 0x06 => rowVP h .one .vlog
  | 0x07 => rowVP h .one .vtanh | 0x08 => rowVP h .one .vsigm
  | _ => none

/-- MAJ 0x22 (R188). -/
def dec22 (h : Head) : Option Row :=
  match h.fn with
  | 0x00 => rowV h .two (.vcmp (Cond.ofCode h.md) h.vops) (rng (h.md < 15 && (Cond.ofCode h.md).vec) 31) (h.rI 0)
  | 0x01 => rowVP h .two .vsel
  | _ => none

/-- A reduction with a mask (R189). -/
def rowRed (h : Head) (c : Bool → Bool → VOps → Instr) : Option Row :=
  let m := h.imm / 2 % 2 == 1
  rowV h (if m then .plain else .one) (c (h.imm % 2 == 1) m h.vops) h.rM (h.rI 2)

/-- MAJ 0x23 (R189). -/
def dec23 (h : Head) : Option Row :=
  match h.fn with
  | 0x00 => rowRed h .vred | 0x01 => rowRed h .vredmax | 0x02 => rowRed h .vredmin
  | 0x03 => rowV h .plain (.vdot (h.imm % 2 == 1) h.vops) h.rM (h.rI 1)
  | _ => none

/-- MAJ 0x24 (R190). -/
def dec24 (h : Head) : Option Row :=
  match h.fn with
  | 0x00 => rowV h .plain (.vsmax (BitVec.ofNat 12 (h.imm % 4096)) h.vops) h.rM (h.rI 12)
  | 0x01 => rowV h .final (.vsmaxf (BitVec.ofNat 12 (h.imm % 4096)) h.vops) h.rM (h.rI 12)
  | _ => none

/-! The engine majors. -/

/-- MAJ 0x30 (R194, R195, R203, R204). -/
def dec30 (h : Head) : Option Row :=
  match h.fn with
  | 0x00 => row64 h (.mtc (Fin.ofNat 8 h.imm) h.wa) [h.rD, h.rB, h.rM, h.rS, h.rO, rng (h.imm < 8) 41]
  | 0x01 => row64 h (.mfc h.wd (Fin.ofNat 9 h.imm)) [h.rA, h.rB, h.rM, h.rS, h.rO, rng (h.imm < 9) 41]
  | 0x02 => rowD h (.claunch h.wd)
  | 0x03 => row2 h .cstat
  | 0x04 =>
    let g := h.eng
    row128 h (.halo h.wd h.wa h.wb (BitVec.ofNat 4 (g.im % 16)) (BitVec.ofNat 4 (g.im / 16 % 16)) (g.im / 256 % 2 == 1))
      [h.rM, h.rS, h.rO, h.rI 0, resv g.e 64, resv g.f 69, resv g.seg 74,
       rng ((g.im % 16 + 1) * (g.im / 16 % 16 + 1) ≤ 16) 78, resv (g.im / 512) 87]
  | _ => none

/-- MAJ 0x31 (R199). -/
def dec31 (h : Head) : Option Row :=
  match h.fn with
  | 0x00 => row2 h .twaitany | 0x01 => row2 h .twaitall | 0x02 => row2 h .tffr
  | 0x03 => row2 h .twaitanySrc | 0x04 => row2 h .twaitallSrc | 0x05 => row2 h .tffrSrc
  | _ => none

/-- MAJ 0x32 (R200). -/
def dec32 (h : Head) : Option Row :=
  match h.fn with
  | 0x00 => row0 h .cseal
  | 0x01 => row64 h (.cwaitn (BitVec.ofNat 4 (h.imm % 16))) [h.rD, h.rA, h.rB, h.rM, h.rS, h.rO, rng (h.imm < 16) 41]
  | 0x02 => row64 h (.cwaitnSrc (BitVec.ofNat 4 (h.imm % 16))) [h.rD, h.rA, h.rB, h.rM, h.rS, h.rO, rng (h.imm < 16) 41]
  | _ => none

/-- The operands of MMA and MMAS (R219). -/
def Head.mops (h : Head) : MOps :=
  let g := h.eng
  ⟨h.wd, h.wa, h.wb, g.we, g.wf, BitVec.ofNat 16 (g.im % 65536), Fin.ofNat 4 (g.im / 65536 % 4), BitVec.ofNat 4 (g.im / 262144 % 16),
   BitVec.ofNat 4 (g.im / 4194304 % 16), g.im / 67108864 % 2 == 1⟩

/-- MAJ 0x34 (R215, R219, R227). -/
def dec34 (h : Head) : Option Row :=
  let g := h.eng
  match h.fn with
  | 0x00 => row64 h (.mcfg (h.imm / 4 % 2 == 1) (Fin.ofNat 4 (h.imm % 4)) h.wa h.os) [h.rD, h.rB, h.rM, h.cOS, h.rI 3]
  | 0x01 => row64 h (.mzero (Fin.ofNat 4 (h.imm % 4)) h.os) [h.rD, h.rA, h.rB, h.rM, h.cOS, h.rI 2]
  | 0x02 => row128 h (.mma (g.im / 134217728 % 2 == 1) (g.im / 268435456 % 2 == 1) h.mops h.os)
      [h.rM, h.cOS, h.rI 0, if g.im / 134217728 % 2 = 1 then none else resv g.f 69, resv g.seg 74, resv (g.im / 536870912) 107]
  | 0x03 => row128 h (.mmas (g.im / 536870912 % 2 == 1) h.mops h.os)
      [h.rM, h.cOS, h.rI 0, resv g.seg 74, resv (g.im / 134217728 % 4) 105, resv (g.im / 1073741824) 108]
  | 0x04 => row128 h (.mcomp (g.im / 8388608 % 2 == 1) h.wd h.wa g.we (BitVec.ofNat 16 (g.im % 65536)) (BitVec.ofNat 7 (g.im / 65536 % 128)))
      [h.rB, h.rM, h.rS, h.rO, h.rI 0, resv g.f 69, resv g.seg 74, rng ((g.im % 65536 + 1) % 8 == 0 && g.im % 65536 < 4096) 78,
       resv (g.im / 16777216) 102]
  | 0x05 => row64 h (.mstat h.wd (Fin.ofNat 4 (h.imm % 4))) [h.rA, h.rB, h.rM, h.rS, h.rO, h.rI 2]
  | 0x06 => rowD h (.mprog h.wd)
  | _ => none

/-- MAJ 0x38 (R233, R243). -/
def dec38 (h : Head) : Option Row :=
  let g := h.eng
  match h.fn with
  | 0x00 => row128 h (.sweep (STy.ofCode h.md) (g.im / 16384 % 2 == 1) (g.im / 32768 % 2 == 1) h.wd h.wa h.kb g.we g.wf (Fin.ofNat 12 g.seg)
      (BitVec.ofNat 7 (g.im % 128)) (BitVec.ofNat 7 (g.im / 128 % 128)) h.os)
      [h.cKB, rng (h.md == 0 || h.md == 1 || h.md == 6 || h.md == 7) 31, h.cOS, h.rI 0, rng (g.seg < 12) 74,
       rng (g.im % 128 + g.im / 128 % 128 < 96) 78, resv (g.im / 65536) 94]
  | 0x01 => row2 h .swstat
  | 0x02 => rowA h (.swcancel h.wa)
  | _ => none

/-- MAJ 0x39 (R246). -/
def dec39 (h : Head) : Option Row :=
  match h.fn with
  | 0x00 => row64 h (.swmerge (STy.ofCode h.md) (h.imm % 2 == 1) h.wd h.wa h.wb)
      [rng (h.md == 0 || h.md == 1 || h.md == 6 || h.md == 7) 31, h.rS, h.rO, h.rI 1]
  | 0x01 => row2 h .swmergeSsa
  | _ => none

/-- MAJ 0x3B (R252, R255-R258). -/
def dec3B (h : Head) : Option Row :=
  match h.fn with
  | 0x00 => row64 h (.capt h.kd h.wa (BitVec.ofNat 14 (h.imm % 16384)) (BitVec.ofNat 5 (h.imm / 16384 % 32)))
      [h.cKD, h.rB, h.rM, h.rS, h.rO, h.rI 19]
  | 0x01 =>
    let c := BitVec.ofNat 14 (h.ext % 16384)
    let r := BitVec.ofNat 14 (h.ext / 16384 % 16384)
    row96 h (.captr h.kd h.wa c r (BitVec.ofNat 5 (h.imm % 32)))
      [h.cKD, h.rB, h.rM, h.rS, h.rO, h.rI 5, rng (r &&& c == r) 78, resv (h.ext / 268435456) 92]
  | 0x02 => row64 h (.apply h.kb) [h.rD, h.rA, h.cKB, h.rM, h.rS, h.rO, h.rI 0]
  | 0x03 => row0 h .ret
  | 0x04 => row64 h (.applyA h.wd h.kb (if h.imm % 2 = 1 then some h.wa else none) h.os)
      [if h.imm % 2 = 1 then none else h.rA, h.cKB, h.rM, h.cOS, h.rI 1]
  | 0x05 => row64 h (.kdup h.kd h.kb) [h.cKD, h.rA, h.cKB, h.rM, h.rS, h.rO, h.rI 0]
  | 0x06 => row64 h (.kdrop h.kb) [h.rD, h.rA, h.cKB, h.rM, h.rS, h.rO, h.rI 0]
  | 0x07 => row64 h (.kst h.wa h.i23 h.kb) [h.rD, h.cKB, h.rM, h.rS, h.rO]
  | 0x08 => row64 h (.kld h.kd h.wa h.i23) [h.cKD, h.rB, h.rM, h.rS, h.rO]
  | 0x09 => row64 h (.krelm h.wa h.i23) [h.rD, h.rB, h.rM, h.rS, h.rO]
  | _ => none

/-- MAJ 0x3C (R260). -/
def dec3C (h : Head) : Option Row :=
  match h.fn with
  | 0x00 => rowA h (.migr h.wa)
  | 0x01 => rowA h (.migrto h.wa)
  | _ => none

/-- MAJ 0x3D (R264, R266, R269). -/
def dec3D (h : Head) : Option Row :=
  let g := h.eng
  match h.fn with
  | 0x00 => row128 h (.park h.wd h.wa h.kb g.we (BitVec.ofNat 6 (g.im % 64)) (Fin.ofNat 8 (g.im / 64 % 16)) h.os)
      [h.cKB, h.rM, rng (h.sc == 4 || h.sc == 5) 36, rng (h.ord == 1 || h.ord == 3) 39, h.rI 0, resv g.f 69, resv g.seg 74,
       rng (g.im / 64 % 16 < 8) 84, resv (g.im / 1024) 88]
  | 0x01 => row64 h (.wakew h.wa h.wb h.os) [h.rD, h.rM, h.cOS, h.rI 0]
  | 0x02 => row2 h .estat
  | _ => none

/-- MAJ 0x3E (R208). -/
def dec3E (h : Head) : Option Row :=
  match h.fn with
  | 0x00 => row2 h .ftest
  | 0x01 => row2 h .fpass
  | 0x02 => row64 h (.fpassMem h.wa h.i23 h.wb) [h.rD, h.rM, h.rS, h.rO]
  | 0x03 => rowA h (.fcancel h.wa)
  | 0x04 => row2 h .ftime
  | 0x05 => rowA h (.fwait h.wa)
  | _ => none

/-- MAJ 0x3F (R279, R290-R297, R308, R374); `trig` says whether user mode may issue ASSAYTRIG. Under the reserved kind 3 of TLBINV, A and B
count as reserved too, as under kind 2, so the lowest set bit of them is the one reported (DESIGN CHOICE, log 122). -/
def dec3F (trig : Bool) (h : Head) : Option Row :=
  let g := h.eng
  let code := h.imm % 4096
  match h.fn with
  | 0x00 => row64 h (.trap (BitVec.ofNat 16 (h.imm % 65536))) [h.rD, h.rA, h.rB, h.rM, h.rS, h.rO, h.rI 16]
  | 0x01 => row64 h (.syscall (BitVec.ofNat 16 (h.imm % 65536))) [h.rD, h.rA, h.rB, h.rM, h.rS, h.rO, h.rI 16]
  | 0x02 => row64 h (if h.imm % 2 = 1 then .eretEnd else .eret) [h.rD, h.rA, h.rB, h.rM, h.rS, h.rO, h.rI 1] true
  | 0x03 =>
    match SysReg.ofCode code with
    | some r => row64 h (.mfs h.wd r) [h.rA, h.rB, h.rM, h.rS, h.rO, h.rI 12] (!r.user)
    | none => row64 h (.mfs h.wd .wp) [h.rA, h.rB, h.rM, h.rS, h.rO, some 41] true
  | 0x04 =>
    match SysReg.ofCode code with
    | some r => row64 h (.mts r h.wa) [h.rD, h.rB, h.rM, h.rS, h.rO, rng r.writable 41, h.rI 12] true
    | none => row64 h (.mts .trapvec h.wa) [h.rD, h.rB, h.rM, h.rS, h.rO, some 41] true
  | 0x05 => row64 h (.repart h.wd h.wa) [h.rB, h.rM, h.rS, h.rO, h.rI 0] true
  | 0x06 => row64 h (.spillslot h.wd h.wa h.wb) [h.rM, h.rS, h.rO, h.rI 0] true
  | 0x07 => row64 h (if h.imm % 2 = 1 then .fillslotEnd h.wd h.wa h.wb else .fillslot h.wd h.wa h.wb) [h.rM, h.rS, h.rO, h.rI 1] true
  | 0x08 => row64 h (.tlbinv (Fin.ofNat 3 (h.imm % 4)) h.wa h.wb)
      [h.rD, if h.imm % 4 = 0 then none else h.rA, if h.imm % 4 < 2 then none else h.rB, h.rM, h.rS, h.rO, rng (h.imm % 4 < 3) 41, h.rI 2] true
  | 0x09 => row128 h (.launch h.wd h.wa h.wb g.we (Fin.ofNat 8 (g.im % 8)))
      [h.rM, h.rS, h.rO, h.rI 0, resv g.f 69, resv g.seg 74, resv (g.im / 8) 81]
  | 0x0A => rowA h (.sleep h.wa)
  | 0x0B => row64 h (.assaytrig (BitVec.ofNat 16 (h.imm % 65536))) [h.rD, h.rA, h.rB, h.rM, h.rS, h.rO, h.rI 16] (!trig)
  | _ => none

/-- Whether a major allows a length code (R116). -/
def lenLegal (maj len : Nat) : Bool :=
  if maj < 0x08 then len == 1 || len == 2
  else if maj < 0x0B then true
  else if maj < 0x0C then len == 1
  else if maj < 0x14 then len == 1 || len == 2
  else if maj < 0x18 then len == 1
  else if maj < 0x20 then len == 1 || len == 2
  else if maj < 0x30 then len == 2
  else if maj < 0x3B then len == 1 || len == 3
  else if maj < 0x3E then true
  else if maj < 0x3F then len == 1
  else len == 1 || len == 3

/-- Whether a form exists in the system profile (R1): not the majors 0x20 to 0x3D and not HINT.ALIGN. -/
def hubHas (h : Head) : Bool := (h.maj < 0x20 || 0x3E ≤ h.maj) && !(h.maj == 0x0B && h.fn == 1)

/-- The form of a (MAJ, FN, LEN) triple with its checks, if one is assigned (R116). -/
def decRow (c : DecCtx) (h : Head) : Option Row :=
  match h.maj with
  | 0x00 => dec00 h | 0x01 => dec01 h | 0x02 => dec02 h | 0x03 => dec03 h | 0x04 => dec04 h | 0x05 => dec05 h
  | 0x08 => dec08 h | 0x09 => dec09 h | 0x0A => dec0A h | 0x0B => dec0B h | 0x0C => dec0C h | 0x0D => dec0D h
  | 0x10 => dec10 h | 0x11 => dec11 h | 0x12 => dec12 h | 0x13 => dec13 h | 0x14 => dec14 h | 0x15 => dec15 h
  | 0x18 => dec18 h | 0x1C => dec1C h | 0x1D => dec1D (!c.hub) h | 0x1E => dec1E h
  | 0x20 => dec20 h | 0x21 => dec21 h | 0x22 => dec22 h | 0x23 => dec23 h | 0x24 => dec24 h
  | 0x30 => dec30 h | 0x31 => dec31 h | 0x32 => dec32 h | 0x34 => dec34 h | 0x38 => dec38 h | 0x39 => dec39 h
  | 0x3B => dec3B h | 0x3C => dec3C h | 0x3D => dec3D h | 0x3E => dec3E h | 0x3F => dec3F c.utrig h
  | _ => none

/-- Bytes of a length code (R107). -/
def lenBytes (len : Nat) : Nat :=
  match len with
  | 1 => 8
  | 2 => 12
  | 3 => 16
  | _ => 0

/-- Checks 4 to 7 of R117 on the fields. -/
def decodeHead (c : DecCtx) (h : Head) : Dec :=
  if h.len = 0 then .bad 1 0
  else if !lenLegal h.maj h.len then .bad 2 0
  else
    match decRow c h with
    | none => .bad 3 0
    | some r =>
      if c.hub && !hubHas h then .bad 3 0
      else if r.priv && !c.kernel then .bad 5 0
      else
        match firstBad r.chk with
        | some k => .bad 4 k
        | none => .ok r.i (lenBytes h.len)

/-- The decoder: the instruction at the start of the little-endian bits `w` (R106, R117). -/
def decode (c : DecCtx) (w : Nat) : Dec := decodeHead c (Head.ofNat w)

/-- The numbers of parcels of an instruction, as bytes from the lowest address. -/
def leNat : List Byte → Nat
  | [] => 0
  | b :: l => b.toNat + 256 * leNat l

/-- The bytes of a number, from the lowest address (R3). -/
def leBytes : Nat → Nat → List Byte
  | 0, _ => []
  | n + 1, w => BitVec.ofNat 8 w :: leBytes n (w / 256)

/-- The decoder on bytes as they stand in memory; the context permits every form (R374). -/
def decodeBytes (bs : List Byte) : Dec := decode ⟨true, false, true⟩ (leNat bs)

/-- The instruction of a row of the opcode table, its bits above `nbits` being 0. -/
def decodeTableWord (nbits w : Nat) : Option Instr :=
  match decodeBytes (leBytes 16 (w % 2 ^ nbits)) with
  | .ok i _ => some i
  | .bad _ _ => none

/-! The encoder, from the same tables. -/

/-- A form's fixed fields: its length code, MAJ and FN, every other field 0. -/
def enc (len maj fn : Nat) : Head := ⟨len, maj, fn, 0, 0, 0, 0, 0, 0, 0, 0⟩

/-- Fields D, A and B. -/
def encR (len maj fn : Nat) (d a b : Nat) : Head := ⟨len, maj, fn, d, a, b, 0, 0, 0, 0, 0⟩

/-- Fields D, A, B and MOD. -/
def encM (len maj fn : Nat) (d a b md : Nat) : Head := ⟨len, maj, fn, d, a, b, md, 0, 0, 0, 0⟩

/-- A 64-bit form with fields D, A, B and IMM23. -/
def encJ (maj fn : Nat) (d a b imm : Nat) : Head := ⟨1, maj, fn, d, a, b, 0, 0, 0, imm, 0⟩

/-- A 64-bit form with fields D, A, B, ORD, SCOPE and IMM23. -/
def encO (maj fn : Nat) (d a b : Nat) (r : OrdScope) (imm : Nat) : Head := ⟨1, maj, fn, d, a, b, 0, r.scope.code, r.ord.code, imm, 0⟩

/-- A form of 64 or 96 bits with an immediate (R113). -/
def encI (maj fn : Nat) (d a b md : Nat) (r : OrdScope) (i : Imm) : Head :=
  match i with
  | .i23 v => ⟨1, maj, fn, d, a, b, md, r.scope.code, r.ord.code, v.toNat, 0⟩
  | .i32 v => ⟨2, maj, fn, d, a, b, md, r.scope.code, r.ord.code, 0, v.toNat⟩

/-- No ordering. -/
def OrdScope.none : OrdScope := ⟨.none, .thr⟩

/-- A bit as a number. -/
def bitNat (x : Bool) : Nat := if x then 1 else 0

/-- A 96-bit bit-field form (R132). -/
def encBf (fn : Nat) (d a : WReg) (p l : BitVec 6) : Head := ⟨2, 0x03, fn, d.val, a.val, 0, 0, 0, 0, 0, p.toNat + 256 * l.toNat⟩

/-- Parcel 2 of a vector form (R113). -/
def VExt.par (x : VExt) : VPar where
  pid := bitNat x.pid
  pia := bitNat x.pia
  pib := bitNat x.pib
  bca := bitNat x.bca
  bcb := bitNat x.bcb
  vls := match x.immvl with | Option.none => 0 | some _ => 1
  ivl := match x.immvl with | Option.none => 0 | some n => n.toNat
  sov := match x.sov with | Option.none => 0 | some (_, g) => g.val
  sove := match x.sov with | Option.none => 0 | some _ => 1
  op := match x.sov with | Option.none => 0 | some (p, _) => p.code
  res := 0

/-- A vector form with MOD and IMM23. -/
def encV (maj fn : Nat) (o : VOps) (md imm : Nat) : Head := ⟨2, maj, fn, o.d.val, o.a.val, o.b.val, md, 0, 0, imm, o.x.par.toNat⟩

/-- A 128-bit form in the engine layout (R114). -/
def encE (maj fn : Nat) (d a b md : Nat) (r : OrdScope) (g : Eng) : Head := ⟨3, maj, fn, d, a, b, md, r.scope.code, r.ord.code, 0, g.toNat⟩

/-- EIMM of MMA and MMAS (R219), with the four flags from bit 27. -/
def MOps.eimm (o : MOps) (fl : Nat) : Nat :=
  o.km1.toNat + 65536 * (o.t.val + 4 * (o.ta.toNat + 16 * (o.tb.toNat + 16 * (bitNat o.acc + 2 * fl))))

/-- The fields of a program form; none for an event, which no instruction bits name. -/
def encodeHead : Instr → Option Head
  | .add d a b => some (encR 1 0x00 0x00 d.val a.val b.val)
  | .sub d a b => some (encR 1 0x00 0x01 d.val a.val b.val)
  | .adc d a b => some (encR 1 0x00 0x02 d.val a.val b.val)
  | .sbc d a b => some (encR 1 0x00 0x03 d.val a.val b.val)
  | .and d a b => some (encR 1 0x00 0x04 d.val a.val b.val)
  | .or d a b => some (encR 1 0x00 0x05 d.val a.val b.val)
  | .xor d a b => some (encR 1 0x00 0x06 d.val a.val b.val)
  | .andn d a b => some (encR 1 0x00 0x07 d.val a.val b.val)
  | .shl d a b => some (encR 1 0x00 0x08 d.val a.val b.val)
  | .shr d a b => some (encR 1 0x00 0x09 d.val a.val b.val)
  | .sar d a b => some (encR 1 0x00 0x0A d.val a.val b.val)
  | .ror d a b => some (encR 1 0x00 0x0B d.val a.val b.val)
  | .mul d a b => some (encR 1 0x00 0x0C d.val a.val b.val)
  | .mulhu d a b => some (encR 1 0x00 0x0D d.val a.val b.val)
  | .mulhs d a b => some (encR 1 0x00 0x0E d.val a.val b.val)
  | .divu d a b => some (encR 1 0x00 0x0F d.val a.val b.val)
  | .divs d a b => some (encR 1 0x00 0x10 d.val a.val b.val)
  | .remu d a b => some (encR 1 0x00 0x11 d.val a.val b.val)
  | .rems d a b => some (encR 1 0x00 0x12 d.val a.val b.val)
  | .minu d a b => some (encR 1 0x00 0x13 d.val a.val b.val)
  | .mins d a b => some (encR 1 0x00 0x14 d.val a.val b.val)
  | .maxu d a b => some (encR 1 0x00 0x15 d.val a.val b.val)
  | .maxs d a b => some (encR 1 0x00 0x16 d.val a.val b.val)
  | .cmp a b => some (encR 1 0x00 0x17 0 a.val b.val)
  | .tst a b => some (encR 1 0x00 0x18 0 a.val b.val)
  | .neg d a => some (encR 1 0x00 0x19 d.val a.val 0)
  | .addi d a i => some (encI 0x01 0x00 d.val a.val 0 0 .none i)
  | .subi d a i => some (encI 0x01 0x01 d.val a.val 0 0 .none i)
  | .adci d a i => some (encI 0x01 0x02 d.val a.val 0 0 .none i)
  | .sbci d a i => some (encI 0x01 0x03 d.val a.val 0 0 .none i)
  | .andi d a i => some (encI 0x01 0x04 d.val a.val 0 0 .none i)
  | .ori d a i => some (encI 0x01 0x05 d.val a.val 0 0 .none i)
  | .xori d a i => some (encI 0x01 0x06 d.val a.val 0 0 .none i)
  | .andni d a i => some (encI 0x01 0x07 d.val a.val 0 0 .none i)
  | .shli d a i => some (encI 0x01 0x08 d.val a.val 0 0 .none i)
  | .shri d a i => some (encI 0x01 0x09 d.val a.val 0 0 .none i)
  | .sari d a i => some (encI 0x01 0x0A d.val a.val 0 0 .none i)
  | .rori d a i => some (encI 0x01 0x0B d.val a.val 0 0 .none i)
  | .muli d a i => some (encI 0x01 0x0C d.val a.val 0 0 .none i)
  | .mulhui d a i => some (encI 0x01 0x0D d.val a.val 0 0 .none i)
  | .mulhsi d a i => some (encI 0x01 0x0E d.val a.val 0 0 .none i)
  | .divui d a i => some (encI 0x01 0x0F d.val a.val 0 0 .none i)
  | .divsi d a i => some (encI 0x01 0x10 d.val a.val 0 0 .none i)
  | .remui d a i => some (encI 0x01 0x11 d.val a.val 0 0 .none i)
  | .remsi d a i => some (encI 0x01 0x12 d.val a.val 0 0 .none i)
  | .minui d a i => some (encI 0x01 0x13 d.val a.val 0 0 .none i)
  | .minsi d a i => some (encI 0x01 0x14 d.val a.val 0 0 .none i)
  | .maxui d a i => some (encI 0x01 0x15 d.val a.val 0 0 .none i)
  | .maxsi d a i => some (encI 0x01 0x16 d.val a.val 0 0 .none i)
  | .cmpi a i => some (encI 0x01 0x17 0 a.val 0 0 .none i)
  | .tsti a i => some (encI 0x01 0x18 0 a.val 0 0 .none i)
  | .mov d a => some (encR 1 0x02 0x00 d.val a.val 0)
  | .movi d i => some (encI 0x02 0x01 d.val 0 0 0 .none i)
  | .movhi d v => some (⟨2, 0x02, 0x02, d.val, 0, 0, 0, 0, 0, 0, v.toNat⟩)
  | .lea d a i => some (encI 0x02 0x03 d.val a.val 0 0 .none i)
  | .leax d a b sh => some (encM 1 0x02 0x04 d.val a.val b.val sh.val)
  | .adr d i => some (encI 0x02 0x05 d.val 0 0 0 .none i)
  | .sext sz d a => some (encM 1 0x03 0x00 d.val a.val 0 sz.code)
  | .zext sz d a => some (encM 1 0x03 0x01 d.val a.val 0 sz.code)
  | .clz d a => some (encR 1 0x03 0x02 d.val a.val 0)
  | .ctz d a => some (encR 1 0x03 0x03 d.val a.val 0)
  | .popc d a => some (encR 1 0x03 0x04 d.val a.val 0)
  | .bswap d a => some (encR 1 0x03 0x05 d.val a.val 0)
  | .brev d a => some (encR 1 0x03 0x06 d.val a.val 0)
  | .bfx d a p l => some (encBf 0x07 d a p l)
  | .bfxs d a p l => some (encBf 0x08 d a p l)
  | .bfi d a p l => some (encBf 0x09 d a p l)
  | .csel c d a b => some (encM 1 0x04 0x00 d.val a.val b.val c.code)
  | .cset c d => some (encM 1 0x04 0x01 d.val 0 0 c.code)
  | .fadd t d a b => some (encM 1 0x05 0x00 d.val a.val b.val t.code)
  | .fsub t d a b => some (encM 1 0x05 0x01 d.val a.val b.val t.code)
  | .fmul t d a b => some (encM 1 0x05 0x02 d.val a.val b.val t.code)
  | .fdiv t d a b => some (encM 1 0x05 0x03 d.val a.val b.val t.code)
  | .fma t d a b => some (encM 1 0x05 0x05 d.val a.val b.val t.code)
  | .fmin t d a b => some (encM 1 0x05 0x06 d.val a.val b.val t.code)
  | .fmax t d a b => some (encM 1 0x05 0x07 d.val a.val b.val t.code)
  | .fsqrt t d a => some (encM 1 0x05 0x04 d.val a.val 0 t.code)
  | .fcmp t a b => some (encM 1 0x05 0x08 0 a.val b.val t.code)
  | .fabs t d a => some (encM 1 0x05 0x09 d.val a.val 0 t.code)
  | .fneg t d a => some (encM 1 0x05 0x0A d.val a.val 0 t.code)
  | .fcvt x y d a => some (⟨1, 0x05, 0x0B, d.val, a.val, 0, x.code, 0, 0, y.code, 0⟩)
  | .nop64 => some (enc 1 0x08 0x00)
  | .nop96 => some (enc 2 0x08 0x00)
  | .b v => some (encJ 0x08 0x01 0 0 0 v.toNat)
  | .bc c v => some (⟨1, 0x08, 0x02, 0, 0, 0, c.code, 0, 0, v.toNat, 0⟩)
  | .bl d v => some (encJ 0x08 0x03 d.val 0 0 v.toNat)
  | .cbz a v => some (encJ 0x08 0x04 0 a.val 0 v.toNat)
  | .cbnz a v => some (encJ 0x08 0x05 0 a.val 0 v.toNat)
  | .dbnz d v => some (encJ 0x08 0x06 d.val 0 0 v.toNat)
  | .jr a => some (encR 1 0x08 0x07 0 a.val 0)
  | .jlr d a => some (encR 1 0x08 0x08 d.val a.val 0)
  | .jmpa t => some (⟨3, 0x09, 0x00, 0, 0, 0, 0, 0, 0, 0, t.toNat⟩)
  | .bla d t => some (⟨3, 0x09, 0x01, d.val, 0, 0, 0, 0, 0, 0, t.toNat⟩)
  | .exit => some (enc 1 0x0A 0x00)
  | .rep s x y z n => some (encJ 0x0B 0x00 0 0 0 (n.toNat + 64 * (bitNat z + 2 * (bitNat y + 2 * (bitNat x + 2 * s.toNat)))))
  | .hintAlign m t => some (⟨1, 0x0B, 0x01, 0, 0, 0, m.toNat, 0, 0, t.toNat, 0⟩)
  | .rdctl d c => some (encJ 0x1C 0x00 d.val 0 0 c.code)
  | .wrctl c a => some (encJ 0x1C 0x01 0 a.val 0 c.code)
  | .rmset m => some (encJ 0x1D 0x00 0 0 0 m.code)
  | .flgrd d => some (encJ 0x1D 0x01 d.val 0 0 0)
  | .flgrdClu d => some (⟨1, 0x1D, 0x01, d.val, 0, 0, 0, 2, 0, 0, 0⟩)
  | .flgclr m => some (encJ 0x1D 0x02 0 0 0 m.toNat)
  | .flgclrClu m => some (⟨1, 0x1D, 0x02, 0, 0, 0, 0, 2, 0, m.toNat, 0⟩)
  | .flgftClu d f => some (⟨1, 0x1D, 0x03, d.val, 0, 0, 0, 2, 0, f.val, 0⟩)
  | .tsrd d => some (encR 1 0x1E 0x00 d.val 0 0)
  | .evmark a b c => some (encJ 0x1E 0x01 0 a.val b.val c.toNat)
  | .ld sz d a i => some (encI 0x0C 0x00 d.val a.val 0 sz.code .none i)
  | .lds sz d a i => some (encI 0x0C 0x01 d.val a.val 0 sz.code .none i)
  | .ldPostinc sz d a => some (encM 1 0x0C 0x02 d.val a.val 0 sz.code)
  | .ldsPostinc sz d a => some (encM 1 0x0C 0x03 d.val a.val 0 sz.code)
  | .st sz a i b => some (encI 0x0D 0x00 0 a.val b.val sz.code .none i)
  | .stPostinc sz a b => some (encM 1 0x0D 0x01 0 a.val b.val sz.code)
  | .ald sz d a i r => some (encI 0x10 0x00 d.val a.val 0 sz.code r i)
  | .ast sz a i b r => some (encI 0x10 0x01 0 a.val b.val sz.code r i)
  | .aswp sz d a i b r => some (encI 0x11 0x00 d.val a.val b.val sz.code r i)
  | .aadd sz d a i b r => some (encI 0x11 0x01 d.val a.val b.val sz.code r i)
  | .aand sz d a i b r => some (encI 0x11 0x02 d.val a.val b.val sz.code r i)
  | .aor sz d a i b r => some (encI 0x11 0x03 d.val a.val b.val sz.code r i)
  | .axor sz d a i b r => some (encI 0x11 0x04 d.val a.val b.val sz.code r i)
  | .aminu sz d a i b r => some (encI 0x11 0x05 d.val a.val b.val sz.code r i)
  | .amins sz d a i b r => some (encI 0x11 0x06 d.val a.val b.val sz.code r i)
  | .amaxu sz d a i b r => some (encI 0x11 0x07 d.val a.val b.val sz.code r i)
  | .amaxs sz d a i b r => some (encI 0x11 0x08 d.val a.val b.val sz.code r i)
  | .acas sz d a i b r => some (encI 0x12 0x00 d.val a.val b.val sz.code r i)
  | .afadd t d a i b r => some (encI 0x13 0x00 d.val a.val b.val t.code r i)
  | .phaseRel s => some (encO 0x14 0x00 0 0 0 ⟨.rel, s⟩ 0)
  | .phaseAcq s => some (encO 0x14 0x00 0 0 0 ⟨.acq, s⟩ 0)
  | .phase s => some (encO 0x14 0x00 0 0 0 ⟨.acqRel, s⟩ 0)
  | .fenceRel s => some (encO 0x14 0x01 0 0 0 ⟨.rel, s⟩ 0)
  | .fenceAcq s => some (encO 0x14 0x01 0 0 0 ⟨.acq, s⟩ 0)
  | .fenceAcqRel s => some (encO 0x14 0x01 0 0 0 ⟨.acqRel, s⟩ 0)
  | .binit k s a b => some (⟨1, 0x15, 0x00, 0, a.val, b.val, bitNat k, s.code, 0, 0, 0⟩)
  | .barr a b r => some (encO 0x15 0x01 0 a.val b.val r 0)
  | .bardrop a b r => some (encO 0x15 0x02 0 a.val b.val r 0)
  | .bwait a b r => some (encO 0x15 0x03 0 a.val b.val r 0)
  | .bsync a b r => some (encO 0x15 0x04 0 a.val b.val r 0)
  | .barrb a b r => some (encO 0x15 0x06 0 a.val b.val r 0)
  | .bexpect a b => some (encR 1 0x15 0x05 0 a.val b.val)
  | .send d a b c => some (encJ 0x18 0x00 d.val a.val b.val c.toNat)
  | .mytid d => some (encR 1 0x18 0x01 d.val 0 0)
  | .mret => some (enc 1 0x18 0x02)
  | .mmask => some (enc 1 0x18 0x03)
  | .munmask => some (enc 1 0x18 0x04)
  | .mwait => some (enc 1 0x18 0x05)
  | .vmov o => some (encV 0x20 0x00 o 0 0)
  | .vadd o => some (encV 0x20 0x01 o 0 0)
  | .vsub o => some (encV 0x20 0x02 o 0 0)
  | .vmul o => some (encV 0x20 0x03 o 0 0)
  | .vdiv o => some (encV 0x20 0x04 o 0 0)
  | .vmin o => some (encV 0x20 0x05 o 0 0)
  | .vmax o => some (encV 0x20 0x06 o 0 0)
  | .vfma o => some (encV 0x20 0x07 o 0 0)
  | .vand o => some (encV 0x20 0x08 o 0 0)
  | .vor o => some (encV 0x20 0x09 o 0 0)
  | .vxor o => some (encV 0x20 0x0A o 0 0)
  | .vshl o => some (encV 0x20 0x0B o 0 0)
  | .vshr o => some (encV 0x20 0x0C o 0 0)
  | .vsar o => some (encV 0x20 0x0D o 0 0)
  | .vabs o => some (encV 0x21 0x00 o 0 0)
  | .vneg o => some (encV 0x21 0x01 o 0 0)
  | .vsqrt o => some (encV 0x21 0x02 o 0 0)
  | .vrcp o => some (encV 0x21 0x03 o 0 0)
  | .vrsqrt o => some (encV 0x21 0x04 o 0 0)
  | .vexp o => some (encV 0x21 0x05 o 0 0)
  | .vlog o => some (encV 0x21 0x06 o 0 0)
  | .vtanh o => some (encV 0x21 0x07 o 0 0)
  | .vsigm o => some (encV 0x21 0x08 o 0 0)
  | .vcmp c o => some (encV 0x22 0x00 o c.code 0)
  | .vsel o => some (encV 0x22 0x01 o 0 0)
  | .vred x m o => some (encV 0x23 0x00 o 0 (bitNat x + 2 * bitNat m))
  | .vredmax x m o => some (encV 0x23 0x01 o 0 (bitNat x + 2 * bitNat m))
  | .vredmin x m o => some (encV 0x23 0x02 o 0 (bitNat x + 2 * bitNat m))
  | .vdot x o => some (encV 0x23 0x03 o 0 (bitNat x))
  | .vsmax n o => some (encV 0x24 0x00 o 0 n.toNat)
  | .vsmaxf n o => some (encV 0x24 0x01 o 0 n.toNat)
  | .mtc c a => some (encJ 0x30 0x00 0 a.val 0 c.val)
  | .mfc d c => some (encJ 0x30 0x01 d.val 0 0 c.val)
  | .claunch d => some (encR 1 0x30 0x02 d.val 0 0)
  | .cstat d a => some (encR 1 0x30 0x03 d.val a.val 0)
  | .halo d a b gx gy w => some (encE 0x30 0x04 d.val a.val b.val 0 .none ⟨0, 0, 0, gx.toNat + 16 * (gy.toNat + 16 * bitNat w)⟩)
  | .twaitany d a => some (encR 1 0x31 0x00 d.val a.val 0)
  | .twaitall d a => some (encR 1 0x31 0x01 d.val a.val 0)
  | .tffr d a => some (encR 1 0x31 0x02 d.val a.val 0)
  | .twaitanySrc d a => some (encR 1 0x31 0x03 d.val a.val 0)
  | .twaitallSrc d a => some (encR 1 0x31 0x04 d.val a.val 0)
  | .tffrSrc d a => some (encR 1 0x31 0x05 d.val a.val 0)
  | .cseal => some (enc 1 0x32 0x00)
  | .cwaitn n => some (encJ 0x32 0x01 0 0 0 n.toNat)
  | .cwaitnSrc n => some (encJ 0x32 0x02 0 0 0 n.toNat)
  | .ftest d a => some (encR 1 0x3E 0x00 d.val a.val 0)
  | .fpass d a => some (encR 1 0x3E 0x01 d.val a.val 0)
  | .fpassMem a o b => some (encJ 0x3E 0x02 0 a.val b.val o.toNat)
  | .fcancel a => some (encR 1 0x3E 0x03 0 a.val 0)
  | .ftime d a => some (encR 1 0x3E 0x04 d.val a.val 0)
  | .fwait a => some (encR 1 0x3E 0x05 0 a.val 0)
  | .mcfg k t a r => some (encO 0x34 0x00 0 a.val 0 r (t.val + 4 * bitNat k))
  | .mzero t r => some (encO 0x34 0x01 0 0 0 r t.val)
  | .mma sc pp o r => some (encE 0x34 0x02 o.d.val o.a.val o.b.val 0 r ⟨o.e.val, o.f.val, 0, o.eimm (bitNat sc + 2 * bitNat pp)⟩)
  | .mmas p o r => some (encE 0x34 0x03 o.d.val o.a.val o.b.val 0 r ⟨o.e.val, o.f.val, 0, o.eimm (4 * bitNat p)⟩)
  | .mcomp p d a e k n => some (encE 0x34 0x04 d.val a.val 0 0 .none ⟨e.val, 0, 0, k.toNat + 65536 * (n.toNat + 128 * bitNat p)⟩)
  | .mstat d t => some (encJ 0x34 0x05 d.val 0 0 t.val)
  | .mprog d => some (encR 1 0x34 0x06 d.val 0 0)
  | .sweep t x y d a k e f g cl n r => some (encE 0x38 0x00 d.val a.val k.val t.code r ⟨e.val, f.val, g.val, cl.toNat + 128 * (n.toNat + 128 * (bitNat x + 2 * bitNat y))⟩)
  | .swstat d a => some (encR 1 0x38 0x01 d.val a.val 0)
  | .swcancel a => some (encR 1 0x38 0x02 0 a.val 0)
  | .swmerge t x d a b => some (⟨1, 0x39, 0x00, d.val, a.val, b.val, t.code, 0, 0, bitNat x, 0⟩)
  | .swmergeSsa d a => some (encR 1 0x39 0x01 d.val a.val 0)
  | .capt k a m c => some (encJ 0x3B 0x00 k.val a.val 0 (m.toNat + 16384 * c.toNat))
  | .captr k a m r c => some (⟨2, 0x3B, 0x01, k.val, a.val, 0, 0, 0, 0, c.toNat, m.toNat + 16384 * r.toNat⟩)
  | .apply k => some (encR 1 0x3B 0x02 0 0 k.val)
  | .ret => some (enc 1 0x3B 0x03)
  | .applyA d k n r =>
    some (encO 0x3B 0x04 d.val (match n with | Option.none => 0 | some w => w.val) k.val r (match n with | Option.none => 0 | some _ => 1))
  | .kdup d k => some (encR 1 0x3B 0x05 d.val 0 k.val)
  | .kdrop k => some (encR 1 0x3B 0x06 0 0 k.val)
  | .kst a o k => some (encJ 0x3B 0x07 0 a.val k.val o.toNat)
  | .kld d a o => some (encJ 0x3B 0x08 d.val a.val 0 o.toNat)
  | .krelm a o => some (encJ 0x3B 0x09 0 a.val 0 o.toNat)
  | .migr a => some (encR 1 0x3C 0x00 0 a.val 0)
  | .migrto a => some (encR 1 0x3C 0x01 0 a.val 0)
  | .park d a k e n c r => some (encE 0x3D 0x00 d.val a.val k.val 0 r ⟨e.val, 0, 0, n.toNat + 64 * c.val⟩)
  | .wakew a b r => some (encO 0x3D 0x01 0 a.val b.val r 0)
  | .estat d a => some (encR 1 0x3D 0x02 d.val a.val 0)
  | .trap c => some (encJ 0x3F 0x00 0 0 0 c.toNat)
  | .syscall c => some (encJ 0x3F 0x01 0 0 0 c.toNat)
  | .eret => some (enc 1 0x3F 0x02)
  | .eretEnd => some (encJ 0x3F 0x02 0 0 0 1)
  | .mfs d r => some (encJ 0x3F 0x03 d.val 0 0 r.code)
  | .mts r a => some (encJ 0x3F 0x04 0 a.val 0 r.code)
  | .repart d a => some (encR 1 0x3F 0x05 d.val a.val 0)
  | .spillslot d a b => some (encR 1 0x3F 0x06 d.val a.val b.val)
  | .fillslot d a b => some (encR 1 0x3F 0x07 d.val a.val b.val)
  | .fillslotEnd d a b => some (encJ 0x3F 0x07 d.val a.val b.val 1)
  | .tlbinv k a b => some (encJ 0x3F 0x08 0 a.val b.val k.val)
  | .launch d a b e p => some (encE 0x3F 0x09 d.val a.val b.val 0 .none ⟨e.val, 0, 0, p.val⟩)
  | .sleep a => some (encR 1 0x3F 0x0A 0 a.val 0)
  | .assaytrig t => some (encJ 0x3F 0x0B 0 0 0 t.toNat)
  | .alignPointRelease .. | .messageArrival .. | .messageDelivery .. | .messageMaskOverrun .. | .vectorStart ..
  | .vectorCompletion .. | .copyStart .. | .copyReleased .. | .copyLanded .. | .haloCopy .. | .futureCompletion ..
  | .arrayCommandStart .. | .rowBlockWrite .. | .arrayCommandEnd .. | .sweepAcceptance .. | .tileDelivery ..
  | .tileAgePriority .. | .swsuspGo .. | .migrationFlit .. | .parkAcceptance .. | .wakeWrite .. | .hbmDwellExpiry ..
  | .cxlDwellExpiry .. | .pageMoveComplete .. | .promotionStageComplete .. | .ecellclr .. | .spill ..
  | .sleepExpiry .. | .memoryReply .. | .bufferedWritePerformed .. | .pinFreeResume .. | .pageWalk ..
  | .efrespResolve .. | .efrespUnresolvable .. | .efheadWrite .. | .threadCreation .. | .taskPlacement ..
  | .dieSteal .. | .ctenWrite .. | .covfWrite .. | .qdoor .. | .qcfgWrite .. | .suspend .. | .resume .. | .skip ..
  | .destroy .. | .queueDestruction .. | .wsat .. | .packetFetch .. | .nop .. | .launchPacket .. | .applyPacket ..
  | .copyPacket .. | .signal .. | .wait .. | .andbar .. | .timestamp .. | .config .. | .packetCompletion ..
  | .queueAgeing .. | .waitSlotSpill .. | .deadlockReport .. | .tevheadWrite .. | .patrolScrub .. | .ccsctlWrite ..
  | .ccsWindowWrite .. | .eyeMarginLow .. | .repair .. | .rtrn .. | .flitReceive .. | .linkFailure ..
  | .timeMessageSend .. | .timeMessageReceive .. | .cxlLinkDown .. | .flashCommandCompletion .. | .ppsEdge ..
  | .todMessage .. | .timeSourceLoss .. | .timeWrap .. | .tstep .. | .actlWrite .. | .arheadWrite ..
  | .traceRecordWrite .. | .snapshotTrigger .. | .snapin .. | .fire .. | .arm .. | .getVersion ..
  | .getCapabilities .. | .negotiateAlgorithms .. | .getDigests .. | .getCertificate .. | .challenge ..
  | .getMeasurements .. | .keyExchange .. | .finish .. | .endSession .. | .fwverify .. | .fwverifyDone ..
  | .fwswitch .. | .fwswitchDone .. | .fwhb .. | .fwRollback .. | .fwdig .. | .fwdigDone .. | .powerOn ..
  | .islWrite .. | .thermalThrottle .. | .throttleStep .. | .powerLimitWindow .. | .registerWrite ..
  | .hostBar2Write .. | .holdoverLockExpiry .. | .retrainHoldEnd .. | .islandChangeHoldEnd .. => none

/-- The bits of a program form. -/
def encode (i : Instr) : Option Nat := (encodeHead i).map Head.toNat

end Sys2Proof
end

