-- ==== Sys2Proof/Config.lean ====
section
/-! DEFINITION. What the part fixes (R15) and the free values: the outcomes the manual leaves unspecified among a
stated set (R7), and the results of algorithms the manual names without defining. A free value has no body. -/

namespace Sys2Proof.Config

/-- Compute cores of a module (R15). -/
def nCores : Nat := 1536
/-- The model's number of the comptroller core (log 7). -/
def comptroller : Nat := 1536
/-- The model's numbers of the six teller cores run from 1537 to 1542 (log 7). -/
def nAllCores : Nat := 1543
/-- Clusters of a module (R15). -/
def nClusters : Nat := 96
/-- Bytes of one core's window (R18). -/
def windowBytes : Nat := 0x80000
/-- Physical base of the flat SRAM region (R53). -/
def sramBase : Nat := 0x010000000000
/-- Virtual base of the flat SRAM window (R51, R57). -/
def flatBase : Nat := 0xFF00000000000000
/-- Physical base of device register space (R53). -/
def devBase : Nat := 0x018000000000
/-- Physical base of the channel-direct view of HBM (R53). -/
def directBase : Nat := 0x020000000000
/-- Bytes of HBM (R53). -/
def hbmBytes : Nat := 0x00C000000000
/-- Bytes of one pseudo-channel (R55). -/
def channelBytes : Nat := 0x20000000
/-- Physical base of CXL memory (R53). -/
def cxlBase : Nat := 0x040000000000
/-- TIME units, of 2^-16 ns, in the 8 ck between two issues of a thread at 2.7 GHz (R2, R17, R350; log 1). -/
def issueTime : Nat := 194181
/-- Cycles between two issues of one thread (R17). -/
def issueCk : Nat := 8
/-- The age, in ck, at which a tile is served first (R239). -/
def agePriority : Nat := 4096

/-- A free number, the n-th open choice of a run (R7): it decides the arrival order of R86, the winner of a granule that two copies write
(R205), and whether an operand that its own command overwrites is read before or after that write (R205, R221). Log 6. -/
opaque freeNat : Nat → Nat

/-- How a copy fares against others in a granule of 32 B that they write: granule and copy (R205, log 6). -/
opaque granuleRank : Nat → Nat → Nat

/-- Whether an SM2 signature verifies (R361): key, digest, signature. The manual names SM2 and does not define it. Log 8. -/
opaque sm2Verify : Nat → Nat → Nat → Bool

/-- The SM2 signature the security block makes with its device key (R362, R363). Log 8. -/
opaque sm2Sign : Nat → Nat

/-- The device certificate chain of SPDM slot 0 (R362), as bytes. Log 8. -/
opaque certChain : Unit → List Byte

/-- The one-time-programmable digest of the vendor key (0) and owner key (1) (R361). Log 8. -/
opaque fusedKeyDigest : Nat → Nat

/-- The fused minimum security version (R361). Log 8. -/
opaque fusedSvn : Unit → Nat

/-- The SM3 measurement of the fuse configuration and the boot ROM version (R363 indices 6 and 1). Log 8. -/
opaque fusedMeasure : Nat → Nat

/-- The shared secret of an SPDM key exchange (R363). Log 8. -/
opaque spdmSecret : Nat → Nat

/-- The CRC-16 of a time-of-day message's bytes 0 to 13 (R353): the manual names no polynomial. Log 8. -/
opaque todCrc : Nat → Nat

/-- The lowest frequency of an island in MHz, to which it is clamped (R369). Log 8. -/
opaque minFreq : Nat → Nat

/-- The physical address at which the loader places the image of a slot (R364). Log 8. -/
opaque fwBase : Nat → Nat

/-- Links from the neighbour at a port to the nearest module that has a grandmaster; 6 or more where none is reached over it (R345, R353). Log 8. -/
opaque hopsOf : Nat → Nat

/-- Byte `j` of the compressed form of a block of the capacity-compressed store, and byte `i` of the block that a compressed form gives:
R340 states no format. (DESIGN CHOICE, log 114.) -/
opaque ccsByte : List Byte → Nat → Byte
opaque ccsExpand : List Byte → Nat → Byte

end Sys2Proof.Config
end

