-- ==== Sys2Proof/Machine/State.lean ====
section
/-! DEFINITION. The state of one MD9X module as plain data (INVENTORY.md, State), the reasons a step can stop, and the state after reset. Sparse tables hold only entries that differ from the value an unlisted key has. -/

namespace Sys2Proof.Machine

/-- A sparse table by number: keys strictly rising, no entry equal to the table's default. -/
abbrev Tab (α : Type) := List (Nat × α)

/-- FLAGS (R33, R143). -/
structure Flags where
  z : Bool
  n : Bool
  c : Bool
  v : Bool
  deriving DecidableEq, Repr

/-- A message at a core (R168, R169). -/
structure Msg where
  src : Word
  pay : Word
  code : Nat
  stime : Word
  deriving DecidableEq, Repr

/-- A message on its way to its target (R168, R285). `status` names the sender's register that waits for the reply;
a fault report has none. -/
structure NetMsg where
  dst : Word
  msg : Msg
  status : Option (Word × Nat)
  deriving DecidableEq, Repr

/-- Why a thread is out of the rotation (R35). -/
inductive Wait
  /-- in the rotation -/
  | none
  /-- a reply or acknowledgement is outstanding (R35) -/
  | reply
  /-- a vector instruction is queued or running (R180) -/
  | vector
  /-- a pending register is read (R41) -/
  | pendReg (n : Nat)
  /-- a pending register is written (R41) -/
  | pendWrite (n : Nat)
  /-- a registered barrier waiter: record, its address, phase, acquire scope (R164) -/
  | barrier (key : Nat) (va : Word) (q : Nat) (acq : Option Scope)
  /-- a tag or batch wait (R199, R200) -/
  | tags
  /-- MWAIT (R172) -/
  | msg
  /-- SEND waits for its status (R168) -/
  | send
  /-- SLEEP until a TIME (R297) -/
  | sleep (t : Word)
  /-- FWAIT on a register (R208) -/
  | fwait (n : Nat)
  /-- an align point: key, count, limit and arrival ck (R47) -/
  | align (pc : Word) (tenant : Nat) (m t since : Nat)
  /-- LAUNCH waits for a place (R334) -/
  | launchPlace (pri : Nat)
  /-- a pin (R24) -/
  | pin
  /-- SWEEP acceptance (R234) -/
  | sweep
  /-- the array queue is full (R216) -/
  | arrayFull
  /-- MCFG or MZERO until its last write (R216) -/
  | array
  /-- SPILLSLOT or FILLSLOT until Wd is written (R290, R293) -/
  | spillReq
  /-- PEND must clear (R257, R260, R294) -/
  | allPend
  /-- MIGR waits for copies (R260) -/
  | migr
  /-- a store by address waits for a completion in its register word (R41) -/
  | store (key n : Nat)
  /-- a release waits for a store that waits so (R41, R95) -/
  | flush
  deriving DecidableEq, Repr

/-- Who awaits a thread's retirement (R36, R240, R258, R322). -/
inductive Origin
  | none
  | applyA (h : Word)
  | task (launch : Nat)
  | tile (sweep tile : Nat)
  | packet (id : Nat)
  deriving DecidableEq, Repr

/-- The stamps of a thread's last acquire at each scope (R92). -/
structure Floors where
  core : Nat
  clu : Nat
  stk : Nat
  pkg : Nat
  dom : Nat
  /-- acquires at instances that hold another core: scope, a core of the instance, stamp (R39, R102) -/
  abroad : List (Scope × Nat × Nat) := []
  deriving DecidableEq, Repr

/-- A thread's context (R33) with what the core keeps under its identifier (R206, R44, R24). -/
structure Thread where
  inc : Nat
  pc : Word
  flags : Flags
  vl : Nat
  rmode : RMode
  iflags : BitVec 5
  pend : BitVec 32
  repcnt : Nat
  k : Vector Word 4
  /-- bank offset of the current frame (R33); the kernel frame's in kernel mode (R278) -/
  wp : Nat
  base : Nat
  size : Nat
  kernel : Bool
  halted : Bool
  wait : Wait
  held : List Msg
  bn : Nat
  openBatch : List Nat
  sealed : List (List Nat)
  /-- pinned lines with their data, the stamp of the fetch that gave it, and the poison bit of the stored line (R24, R92, R338) -/
  pins : List (Nat × BitVec 512 × Nat × Bool)
  /-- words of device register space it has read in its phase (R92) -/
  views : List (Nat × Word)
  /-- cores it has left by MIGR, with its identifier there, whose write buffers may hold stores that its next release publishes (R91,
  R97) -/
  left : List (Nat × Word)
  floors : Floors
  /-- open frames, the first included (R253) -/
  depth : Nat
  /-- `depth` of the frame that message delivery opened; 0 for none (R170) -/
  mdepth : Nat
  /-- frames moved to the overflow area, oldest first: WP and offset in the slot's area (R61) -/
  moved : List (Nat × Nat)
  /-- ck at which the open masked section began (R45) -/
  maskAt : Nat
  /-- the open section's overrun fault has been taken (R45) -/
  overran : Bool
  /-- the first ck at which it may issue again (R17) -/
  nextCk : Nat
  /-- the ck of the last event that touched it, and that event's place in the order of one ck (R50) -/
  evCk : Nat
  evPlace : Nat
  /-- Purse records that captures of the thread have reserved: the instruction's PC and the record (R255) -/
  reserved : List (Word × Nat)
  /-- registers that the reply it waits for writes, with their values (R35) -/
  late : List (Nat × Word)
  /-- lines it has read, each with the newest stamp of a copy that served it (R89) -/
  seen : List (Nat × Nat)
  /-- lines it has stored to by the core's write buffer, and those it stored to before it migrated and has not read since (R92) -/
  wrote : List Nat
  stale : List Nat
  origin : Origin
  deriving DecidableEq, Repr

/-- The copy control set and ARM (R191, R192). -/
structure CopySet where
  csrc : Word
  cdst : Word
  cshp : Word
  cstr : Word
  ccfg : Word
  cbar : Word
  cfol0 : Word
  cfol1 : Word
  arm : Bool
  deriving DecidableEq, Repr

/-- A thread slot: its thread and its slot registers (R191, R207, R211, R279, R280). -/
structure SlotSt where
  thread : Option Thread
  trapcause : Word
  trappc : Word
  trapinfo : Word
  upend : BitVec 32
  uwp : Nat
  trep : Nat
  tfl : BitVec 4
  cset : CopySet
  ctime : Tab Word
  seq : Nat
  /-- threads created in the slot, modulo 2^16 (R167) -/
  created : Nat
  deriving DecidableEq, Repr

/-- An entry of a core's write buffer (R91): a store, which may be held at its port (R41), or the mark of a FENCE.REL
that a thread made on a core (R95). -/
inductive WEntry
  | store (tid : Word) (key pa : Nat) (data : List Byte) (held : Bool)
  | fence (tid : Word) (core : Nat) (scope : Scope)
  deriving DecidableEq, Repr

/-- A cached translation (R306): tenant, page base, page bits, leaf entry, level. -/
structure TlbEnt where
  tenant : Nat
  page : Nat
  lv : Nat
  entry : Word
  deriving DecidableEq, Repr

/-- A cached non-leaf table entry (R306): tenant, level, the address bits it covers, and the table it names. -/
structure WalkEnt where
  tenant : Nat
  lv : Nat
  page : Nat
  next : Nat
  deriving DecidableEq, Repr

/-- A vector instruction in the pipe (R180): operands as read at issue, the results it will write, and where it continues. -/
structure VCmd where
  tid : Word
  i : Instr
  iaddr : Word
  /-- repetition index and count, for a REP target (R121) -/
  rep : Option (Nat × Nat)
  n : Nat
  rmode : RMode
  dv : Word
  av : Word
  bv : Word
  /-- formats of D, A and B (R175) -/
  fd : Word
  fa : Word
  fb : Word
  /-- register advances after the last write: register and new value (R176) -/
  adv : List (Nat × Word)
  started : Bool
  writes : List (Nat × List Byte)
  flagsOut : BitVec 5
  zOut : Option Bool
  /-- first element not written, when the step met poison (R182): element, operand, line offset -/
  poison : Option (Nat × Nat × Nat)
  /-- the spill engine has taken its thread since it issued: the context holds the PC and REPCNT after it (R183) -/
  away : Bool
  deriving DecidableEq, Repr

/-- A tag of a core (R195-R197, R204). -/
structure TagSt where
  gen : Nat
  /-- the thread that holds the tag; none when free -/
  owner : Option Word
  rel : Bool
  lnd : Bool
  /-- a retired owner's tag is freed at its landed event (R206) -/
  orphan : Bool
  batch : Nat
  ended : Bool
  cause : Nat
  barf : Bool
  folf : Bool
  prog : Nat
  deriving DecidableEq, Repr

/-- A spilled thread in a core's spill table (R287, R290). The record in memory holds its context; the thread here keeps
what the core keeps, and the copy of the record's RO fields. -/
structure Spilled where
  th : Thread
  tid : Word
  slot : Nat
  entry : Nat
  vbusy : Bool
  /-- flags of its work that its record could not take, as no entry mapped it: its fill adds them (R76) -/
  owed : BitVec 5
  deriving DecidableEq, Repr

/-- A request to the spill engine (R290, R293): asking slot, its register, target slot, entry; a fill says whether it ends the
thread. -/
structure SpillReq where
  fill : Option Bool
  askCore : Nat
  askSlot : Nat
  reg : Nat
  slot : Nat
  entry : Nat
  deriving DecidableEq, Repr

/-- Registers and units of one core (R16, R279). -/
structure CoreSt where
  trapvec : Word
  traprpt : Word
  savebase : Word
  wide : Bool
  tenant : Nat
  ovfptr : Word
  fmt : Tab Word
  tags : Tab TagSt
  wbuf : List WEntry
  spilled : List Spilled
  spillQ : List SpillReq
  vrun : Option VCmd
  vq : Option VCmd
  tlb : List TlbEnt
  /-- the last slot that issued, and the first ck at which the core may issue again (R17) -/
  lastSlot : Nat
  nextCk : Nat
  deriving DecidableEq, Repr

/-- A command of the array queue (R215, R216). -/
structure ArrCmd where
  i : Instr
  core : Nat
  slot : Nat
  tid : Word
  /-- the future's handle; 0 for MCFG and MZERO -/
  h : Word
  seq : Nat
  rmode : RMode
  kernel : Bool
  av : Word
  bv : Word
  ev : Word
  fv : Word
  /-- formats of A and B as read at issue (R63) -/
  fa : Word
  fb : Word
  follow : Bool
  deriving DecidableEq, Repr

/-- The array's running command (R221, R223). -/
structure ArrRun where
  cmd : ArrCmd
  desc : Word
  rows : Nat
  paused : Bool
  /-- set when the command has ended: STATE, CAUSE, REASON, faulting address -/
  ended : Option (Nat × Nat × Nat × Word)
  cancel : Bool
  /-- the old tile's bytes in row-major order, where the command may still read them (R218, R221) -/
  img : List Byte
  /-- it resumes after a page fault, and reads formats and the rounding mode again first (R63, R75) -/
  again : Bool
  /-- rows at which a cancelled command stops: the end of the block in progress (R226) -/
  stopAt : Nat
  deriving DecidableEq, Repr

/-- A 32-B trace record (R355). -/
structure TraceRec where
  w0 : Word
  w1 : Word
  w2 : Word
  w3 : Word
  deriving DecidableEq, Repr

/-- Registers and units of one cluster (R22). -/
structure CluSt where
  u : BitVec 5
  first : Tab Word
  /-- the first Raise of each flag in the last ck that had one: its ck and TIME, and who raised (R78) -/
  raised : Tab (Nat × Word × Nat × Nat)
  flttid : Word
  fltdrop : Nat
  tiles : Tab Word
  arrQ : List ArrCmd
  arr : Option ArrRun
  mprog : Word
  /-- stored lines of the cache slice: line, data, stamp of its fetch, and its poison bit (R24, R338) -/
  slice : List (Nat × BitVec 512 × Nat × Bool)
  tlb : List TlbEnt
  rmemb : Word
  actl : Word
  arbase : Word
  arhead : Nat
  artail : Nat
  adrop : Nat
  staging : List TraceRec
  /-- follow-on commands that wait for a place in the queue, oldest first (R25, R196) -/
  arrWait : List ArrCmd
  deriving DecidableEq, Repr

/-- Who waits for a translation (R204, R224, R239, R232, R307). -/
inductive EngRef
  | copy (id : Nat)
  /-- the command of a cluster's array that its future's handle names -/
  | array (clu : Nat) (h : Word)
  | tile (sw tile : Nat)
  | sweepEnd (sw : Nat)
  deriving DecidableEq, Repr

/-- A walk queued for an engine (R306). -/
structure Walk where
  tenant : Nat
  va : Word
  kernel : Bool
  acc : Nat
  core : Nat
  slot : Nat
  ref : EngRef
  deriving DecidableEq, Repr

/-- An unanswered record of the engine-fault ring (R307). -/
structure EfRec where
  token : Nat
  tenant : Nat
  va : Word
  /-- the waiting work, each with its ACC code (R305) -/
  waiters : List (EngRef × Nat)
  deriving DecidableEq, Repr

/-- Tenants, page faults of engines and walks (R299, R307). -/
structure XlSt where
  tentab : Tab Word
  efbase : Word
  efhead : Nat
  eftail : Nat
  token : Nat
  recs : List EfRec
  /-- faults held at their engines while the ring is full or has no base, with REASON and the TIME of the fault -/
  heldFaults : List (Walk × Nat × Word)
  walks : List Walk
  /-- misses that wait for a queued walk of their page (R306) -/
  merged : List Walk
  /-- each die's walk cache (R306) -/
  wcache : Tab (List WalkEnt)
  /-- walks of work that stalls at its engine while its die's queue is full (R306) -/
  stalled : List Walk
  deriving DecidableEq, Repr

/-- Where a future handle is (R40, R209). -/
inductive FutLoc
  /-- a register of a user frame by number from the first, or of the kernel frame -/
  | reg (tid : Word) (frame : Option Nat) (n : Nat)
  | pair (key : Nat) (tid : Word)
  | gone
  deriving DecidableEq, Repr

/-- A pending future (R207). -/
structure Fut where
  h : Word
  loc : FutLoc
  can : Bool
  stop : Bool
  deriving DecidableEq, Repr

/-- A completion on its way (R40). -/
structure Done where
  h : Word
  v : Word
  /-- a cancelled engine has stopped and delivers no value (R210) -/
  stopped : Bool
  deriving DecidableEq, Repr

/-- A copy engine command (R195-R205). -/
structure Copy where
  id : Nat
  core : Nat
  tag : Option Nat
  gen : Nat
  tid : Word
  tenant : Nat
  kernel : Bool
  rmode : RMode
  cset : CopySet
  /-- type words of source and destination, read at CLAUNCH (R193) -/
  ft : Word
  fd : Word
  /-- 0 queued, 1 read, 2 released, 3 begun and to be read on, 4 to be written on after a wait (R41) -/
  stage : Nat
  paused : Bool
  engine : Nat
  prog : Nat
  data : List (Nat × List Byte)
  /-- bytes other copies wrote while this one was in flight (R205): the writer's number, key and length -/
  raced : List (Nat × Nat × Nat)
  /-- bytes this copy has written: key and length (R338) -/
  wrote : List (Nat × Nat)
  follow : Option (ArrCmd)
  /-- HALO: gx, gy, wrap, record key, phase, h (R203) -/
  halo : Option (Nat × Nat × Bool × Nat × Nat × Nat)
  /-- a queue COPY packet (R320) -/
  packet : Option Nat
  /-- an ending fault met while the copy was paused: cause and address -/
  fault : Option (Nat × Word)
  /-- its start record is written (R359) -/
  started : Bool := false
  deriving DecidableEq, Repr

/-- A body thread's tile (R236). -/
structure Body where
  tile : Nat
  core : Nat
  buf : Nat
  tid : Word
  holdsBuf : Bool
  deriving DecidableEq, Repr

/-- A sweep of the Mint's table (R233-R245). -/
structure Sweep where
  id : Nat
  h : Word
  tid : Word
  core : Nat
  kernel : Bool
  tenant : Nat
  o : OrdScope
  env : Word
  desc : List Word
  ssa : Word
  slots : Word
  sty : STy
  arr : Bool
  seg : Nat
  cl0 : Nat
  ncl : Nat
  nt : Nat
  /-- landed extent in each target core, from core 16 × CL0 on (R236, R237) -/
  landL : List Nat
  bsize : Nat
  delivered : Nat
  completed : Nat
  failed : Nat
  failedTiles : List Nat
  paused : List Nat
  aged : List Nat
  bodies : List Body
  state : Nat
  cause : Nat
  ssaf : Bool
  endPaused : Bool
  /-- the stamp of its acquire (R102) and the ck of its acceptance (R239) -/
  stamp : Nat
  ckAt : Nat
  /-- tiles pending since the end of a pause, with its ck (R239) -/
  since : List (Nat × Nat)
  deriving DecidableEq, Repr

/-- A SWEEP waiting for acceptance (R234). -/
structure SweepReq where
  core : Nat
  slot : Nat
  tid : Word
  i : Instr
  va : Word
  ssa : Word
  slots : Word
  deriving DecidableEq, Repr

/-- What a migrating thread's flit brings (R261): its identifier until now, the FLAGS word, K0-K3, HVEC, the scratch words, its
tenant (R311), and its view: the floors of its acquires, what it has read in phases still open, and how new (R89, R92). -/
structure Flit where
  tid : Word
  ctl : Word
  k : Vector Word 4
  hvec : Word
  scratch : List Word
  tenant : Nat
  floors : Floors
  pins : List (Nat × BitVec 512 × Nat × Bool)
  views : List (Nat × Word)
  seen : List (Nat × Nat)
  stale : List Nat
  deriving DecidableEq, Repr

/-- A thread creation that waits for a slot and room (R36). -/
structure Creation where
  core : Nat
  entry : Word
  regs : List (Nat × Word)
  bsize : Nat
  acq : Option Scope
  /-- a handle whose count is released at creation (R250) -/
  env : Option Word
  origin : Origin
  /-- the wake cell whose park the thread continues (R267) -/
  cell : Option Nat
  /-- a migrating thread's control values (R261) -/
  flit : Option Flit
  /-- the stamp of an acquire made before the creation (R320) -/
  stamp : Option Nat := none
  deriving DecidableEq, Repr

/-- A PARK awaiting acceptance (R264). -/
structure ParkReq where
  tid : Word
  core : Nat
  kernel : Bool
  tenant : Nat
  h : Word
  o : OrdScope
  list : Word
  np : Nat
  cls : Nat
  cellVa : Word
  env : Word
  bsize : Nat
  wide : Bool
  deriving DecidableEq, Repr

/-- Where a held page is (R265). -/
inductive Tier | hbm | cxl | flash
  deriving DecidableEq, Repr

/-- A held page (R264, R265): its PGA, its HBM frame, its tier and the move in flight, and its 16 blocks of flash: the drive and the
first LBA (R348). -/
structure Page where
  va : Word
  frame : Nat
  tier : Tier
  moving : Option Tier
  lba : Option (Nat × Nat)
  /-- lines of its frame that were poisoned when it left HBM (R265, R338) -/
  bad : List Nat := []
  deriving DecidableEq, Repr

/-- An accepted park (R264). -/
structure Park where
  env : Word
  pages : List Page
  bsize : Nat
  tenant : Nat
  core : Nat
  /-- the thread that issued the PARK (R286) -/
  tid : Word
  /-- HOME of the first page -/
  home : Nat
  hbmdw : Nat
  cxldw : Nat
  tau : Word
  value : Word
  /-- a wake write has been performed, and the moves in flight finish before STATE becomes 7 (R267) -/
  woken : Bool
  deriving DecidableEq, Repr

/-- A wake cell (R262, R266). -/
structure Cell where
  state : Nat
  cls : Nat
  npg : Nat
  tchg : Word
  kept : Word
  park : Option Park
  deriving DecidableEq, Repr

/-- The engines' work (R26, R40, R229-R269). -/
structure EngSt where
  copies : List Copy
  nextId : Nat
  futs : List Fut
  dones : List Done
  sweeps : List Sweep
  sweepReqs : List SweepReq
  creations : List Creation
  flits : List Creation
  /-- flits that left for another module (R260), oldest first -/
  flitsOut : List (Nat × Creation)
  parks : List ParkReq
  cells : Tab Cell
  /-- parks that a media error ended and whose pages are not all home yet, each with its cell (R265) -/
  failing : List (Nat × Park)
  ecls : Tab Word
  ecxllim : Nat
  efllim : Nat
  /-- messages on their way (R168) -/
  net : List NetMsg
  /-- status words of sweeps that have ended, by the handle of their future, for SWSTAT (R243) -/
  swept : List (Word × Word)
  /-- buffers that may hold stores of threads that have left the module's slots: identifier, and cores with the identifier there (R91,
  R97) -/
  trail : List (Word × List (Nat × Word))
  deriving DecidableEq, Repr

/-- An entry of a device-launch queue (R334). -/
structure DevLaunch where
  lrec : Word
  arg : Word
  count : Nat
  tenant : Nat
  core : Nat
  h : Word
  deriving DecidableEq, Repr

/-- A queue of the Treasury (R313-R318). -/
structure Queue where
  cfg : Word
  ring : Word
  head : Nat
  tail : Nat
  live : Nat
  state : Nat
  err : Nat
  cause : Nat
  dberr : Bool
  epri : Nat
  kill : Bool
  /-- the packet read and checked, at QHEAD, or the WAIT or ANDBAR before it that blocks the queue (R319, R320) -/
  pkt : List Word
  /-- a SUSPEND or DESTROY awaits the next packet boundary (R317) -/
  suspPend : Bool
  /-- suspended while blocked at a wait (R372) -/
  wasBlocked : Bool
  /-- the packet at QHEAD of a halted queue was read as one of 128 B (R317) -/
  wide : Bool
  /-- TIME since which the queue is ready and unserved (R325) -/
  readyAt : Word
  /-- cause of a fault of the queue's work, for which it halts at its next boundary (R320) -/
  haltPend : Option Nat
  dev : List DevLaunch
  /-- its blocked wait has been reported in a deadlock event (R329) -/
  dlDone : Bool
  deriving DecidableEq, Repr

/-- A started packet that has not completed (R320). -/
structure Pkt where
  id : Nat
  q : Nat
  rscope : Nat
  sig : Word
  dead : Bool
  /-- its work has ended; PACKET_COMPLETION may be performed -/
  ready : Bool
  /-- write buffers that may hold stores of its retired threads, with their identifiers (R320) -/
  ran : List (Nat × Word)
  deriving DecidableEq, Repr

/-- A launch with its die shares (R322, R37). -/
structure Launch where
  id : Nat
  q : Nat
  pkt : Option Nat
  h : Option Word
  tslot : Nat
  tenant : Nat
  entry : Word
  bsize : Nat
  wide : Bool
  fmts : List Word
  arg : Word
  acq : Option Scope
  /-- unstarted tasks of each die: die, next, end -/
  shares : List (Nat × Nat × Nat)
  left : Nat
  ended : Nat
  cause : Nat
  /-- the stamp of its acquire (R323) -/
  stamp : Nat
  deriving DecidableEq, Repr

/-- A wait slot (R327), or an entry of the software wait list (R328). -/
structure WaitSlot where
  q : Nat
  key : Nat
  pa : Nat
  value : Word
  cond : Nat
  last : Word
  done : Bool
  onList : Bool
  /-- registered: a hardware slot was free for it -/
  reg : Bool
  /-- the queue in which every packet that names its signal lies, and TIME since which that is so (R329) -/
  needs : Option (Nat × Word)
  deriving DecidableEq, Repr

/-- The Treasury (R312-R334). -/
structure TreasSt where
  queues : Tab Queue
  pkts : List Pkt
  launches : List Launch
  slots : List WaitSlot
  nextId : Nat
  /-- the last queue served at each EPRI (R325) -/
  served : Tab Nat
  wlbase : Word
  swtslot : Nat
  tevbase : Word
  tevhead : Nat
  tevtail : Nat
  tevdrop : Nat
  fnten : Tab Nat
  /-- TIME since which all wait slots are held, or of the last move to the list (R328) -/
  fullAt : Word
  /-- TIME at which a tenant with a blocked queue was last not quiet (R329) -/
  active : Tab Word
  /-- the seven Treasury cores are halted by the update block (R364) -/
  halted : Bool
  /-- steal requests of dry dies, oldest first: launch and die (R323) -/
  steals : List (Nat × Nat)
  deriving DecidableEq, Repr

/-- Time registers (R353). -/
structure TimeSt where
  offs : BitVec 32
  hops : Nat
  src : Nat
  hold : Bool
  lock : Bool
  everLock : Bool
  era : Nat
  trate : BitVec 32
  tlatch : Word
  ttodLo : Word
  ttodHi : Word
  holdAt : Word
  /-- TIME of the last message of the source -/
  lastAt : Word
  /-- elapsed time of the last 1PPS edge -/
  edgeAt : Option Nat
  /-- within ±100 ns of the source since `goodAt` -/
  good : Bool
  goodAt : Word
  /-- what TIME has gained at the trimmed rate beyond its last unit, in units of 2^-40 of it (R353) -/
  frac : Nat
  deriving DecidableEq, Repr

/-- Snapshot registers (R360). -/
structure SnapSt where
  cmask : BitVec 32
  miss : Nat
  src : Nat
  frozen : Bool
  trigTime : Word
  trigTag : Nat
  trigNo : Nat
  trigTid : Word
  /-- latched registers: block number, latch TIME and words -/
  latched : List (Nat × Word × List Word)
  /-- triggers so far, and the ck of the one latched last -/
  trigCnt : Nat
  trigCk : Option Nat
  deriving DecidableEq, Repr

/-- SPDM responder state (R363). -/
structure SpdmSt where
  version : Bool
  caps : Bool
  algs : Bool
  session : Nat
  /-- the last response, as code and words; none for an error response -/
  reply : Option (Nat × List Nat)
  deriving DecidableEq, Repr

/-- The security block: update registers (R364, R370), boot flash (R361) and SPDM (R363). -/
structure SecSt where
  sres : Nat
  imgver : Nat
  vres : Nat
  vslot : Nat
  state : Nat
  active : Nat
  fwhbt : Nat
  fwsel : Nat
  fwdigl : Nat
  digBad : Bool
  digBusy : Bool
  digAddr : Nat
  fwdigr : Nat
  measA : Nat
  measB : Nat
  hocopy : List Byte
  swAddr : Nat
  swTarget : Nat
  prev : Nat
  startTime : Word
  goodA : Bool
  goodB : Bool
  bootFlash : List Host.Cell
  booterr : Word
  spdm : SpdmSt
  /-- the length that the running digest's FWDIG store found in FWDIGL (R370) -/
  digLen : Nat
  /-- the last boot or roll-back found no good image (R363, R371) -/
  bootBad : Bool
  deriving DecidableEq, Repr

/-- An eye-margin monitor (R341). -/
structure Eye where
  ew : Nat
  eh : Nat
  lane : Nat
  wthr : Nat
  used : Nat
  low : Bool
  ie : Bool
  hold : Bool
  deriving DecidableEq, Repr

/-- What a request over Volzor Link asks for (R311): an atomic names its operation: 0 swap, 1 add, 2 and, 3 or, 4 xor, 5 and 6
unsigned minimum and maximum, 7 and 8 signed, 9 compare and swap, whose data is the expected and then the new value. (DESIGN CHOICE, log 90.) -/
inductive LinkKind
  | write
  | read (n : Nat)
  | atomic (op : Nat)
  /-- bytes that copies of the sending module have landed arrive at a barrier record here (R165, R201) -/
  | arrive (n : Nat)
  /-- a migrating thread (R261) -/
  | migrate (r : Creation)
  deriving DecidableEq, Repr

/-- A request arriving at a port of Volzor Link, with its routing header and its sequence number on that port (R311, R343). -/
structure LinkReq where
  port : Nat
  srcMod : Nat
  dstMod : Nat
  seq : Nat
  tenant : Nat
  lpa : Nat
  kind : LinkKind
  data : List Byte
  replays : Nat
  deriving DecidableEq, Repr

/-- What another module rejects (R311, R375): packets of a tenant to a range of its local addresses, with a cause. -/
structure Refusing where
  mod : Nat
  tenant : Nat
  lo : Nat
  hi : Nat
  cause : Nat
  deriving DecidableEq, Repr

/-- Links and fabric (R340-R347). -/
structure FabSt where
  eyes : Tab Eye
  cxlSize : Tab Nat
  cxlDown : Tab Bool
  /-- ports that took no space when CXL memory was packed: their link was down (R367) -/
  cxlAbsent : Tab Bool
  /-- 64-KiB pages of each flash drive; 0 for one that is absent or lacks the LBA format (R348, log 4) -/
  flashPages : Tab Nat
  /-- flash ports whose link is down -/
  flashDown : Tab Bool
  /-- the drive whose turn comes next (R348) -/
  flashTurn : Nat
  ccsctl : Word
  ccsBlocks : Tab (List Byte)
  /-- the chunks of the region that each block takes (R340) -/
  ccsChunks : Tab (List Nat)
  inbound : List LinkReq
  /-- replies and rejections sent back: source module, cause (0 for none), data -/
  replies : List (Nat × Nat × List Byte)
  timeMsgs : Tab Word
  irq : Bool
  /-- modules that no route reaches (R344) -/
  unreach : List Nat
  /-- what other modules reject (R311) -/
  refusing : List Refusing
  /-- the next sequence number at each port (R343) -/
  seqIn : Tab Nat
  /-- flits forwarded to another module (R344), oldest first -/
  forwarded : List LinkReq
  /-- corrected errors of each memory's counter, and the elapsed time of its last trace record (R337, log 102) -/
  errs : Tab (Nat × Option Nat)
  /-- host writes held at a pending register word (R41, R346): function, address and bytes, oldest first -/
  bar2Held : List (Nat × Word × List Byte)
  deriving DecidableEq, Repr

/-- An island (R368). -/
structure Isl where
  tj : Nat
  thr : Nat
  fset : Nat
  vset : Nat
  /-- the frequency in force (R369) -/
  fnow : Nat
  hold : Bool
  /-- elapsed time of the last thermal step (R369) -/
  stepAt : Nat
  deriving DecidableEq, Repr

/-- Islands and power (R368, R369). -/
structure PwrSt where
  isl : Tab Isl
  plim : Nat
  pwr : Nat
  on : Bool
  /-- each island's clock where its frequency last changed: the ck then, and the elapsed time (R32) -/
  clk : Tab (Nat × Nat)
  /-- elapsed time at which the last window of the power limit ended (R369) -/
  winAt : Nat
  deriving DecidableEq, Repr

/-- The slot whose instruction is being performed (the model's own). -/
structure Cur where
  core : Nat
  slot : Nat
  /-- the repetition being performed, of how many, when the instruction is a REP target (R121) -/
  rep : Option (Nat × Nat)
  deriving DecidableEq, Repr

/-- A move of the machine, as the surroundings order it (log 1). -/
inductive Move
  /-- the slot's thread issues -/
  | issue (core slot : Nat)
  /-- an event happens -/
  | event (i : Instr)
  /-- the slice of a cluster drops an unpinned stored line (R24) -/
  | evict (clu line : Nat)
  /-- a flit comes in over Volzor Link (R343) -/
  | flit (r : LinkReq)
  /-- a write is performed in another module's memory (R89, R327) -/
  | remoteWrite (m lpa : Nat) (data : List Byte)
  /-- another module begins or ceases to reject packets (R311, R375) -/
  | remoteRefuses (r : Refusing) (on : Bool)
  /-- a memory corrects an error that its counter counts (R337) -/
  | corrected (counter : Nat)
  /-- a line of HBM or SRAM has an error that cannot be corrected (R337) -/
  | uncorrected (line : Nat)
  /-- the stored line of a cluster's slice that a fetch at `stamp` gave has one (R337, R338) -/
  | sliceError (clu line stamp : Nat)
  /-- nothing but time passes -/
  | tick
  deriving DecidableEq, Repr

/-- A move and the TIME that passes before it. -/
structure Turn where
  dt : Nat
  move : Move
  deriving DecidableEq, Repr

/-- The state of the module. -/
structure State where
  mem : List Host.Cell
  poison : List Nat
  slots : Tab SlotSt
  cores : Tab CoreSt
  clus : Tab CluSt
  xl : XlSt
  eng : EngSt
  tr : TreasSt
  tm : TimeSt
  snap : SnapSt
  sec : SecSt
  fab : FabSt
  pwr : PwrSt
  /-- TIME (R350), the one counter of the model (log 1) -/
  time : Word
  /-- elapsed time since reset, in units of 2^-16 ns, which no store steps (log 1) -/
  real : Nat
  modid : Nat
  cur : Cur
  agenda : List Turn
  now : Nat
  picks : Nat
  deriving DecidableEq, Repr

/-- Why a step stops the machine. -/
inductive Fault
  /-- raised by `step` when the module has no power (R369: at 115 °C the hardware removes power); safe: the hardware does nothing either -/
  | poweredOff
  deriving DecidableEq, Repr

/-- Why a step has no meaning. -/
inductive Refusal
  /-- raised by an arm of `exec` for an instruction that has no meaning yet; safe -/
  | notModelled (mnemonic : String)
  /-- raised by `step` when the agenda names a program form as an event; safe: the hardware never does so -/
  | notAnEvent
  deriving DecidableEq, Repr

/-- FLAGS at creation (R33). -/
def Flags.zero : Flags := ⟨false, false, false, false⟩

/-- The cleared copy control set (R191). -/
def CopySet.zero : CopySet := ⟨0, 0, 0, 0, 0, 0, 0, 0, false⟩

/-- A slot after reset. -/
def SlotSt.reset : SlotSt := ⟨none, 0, 0, 0, 0, 0, 0, 0, CopySet.zero, [], 0, 0⟩

/-- A free tag after reset (R197). -/
def TagSt.reset : TagSt := ⟨0, none, true, true, false, 0, false, 0, false, false, 0⟩

/-- FMT at reset (R62): TYPE RAW, WIDTH 8, DEPTH 8. -/
def fmtReset : Word := 0x888

/-- A core after reset; its slot order starts at slot 0 (log 98). -/
def CoreSt.reset : CoreSt := ⟨0, 0, 0, false, 0, 0, [], [], [], [], [], none, none, [], 15, 0⟩

/-- A cluster after reset. -/
def CluSt.reset : CluSt := ⟨0, [], [], 0, 0, [], [], none, 0, [], [], 0, 0, 0, 0, 0, 0, [], []⟩

/-- A free wake cell (R266). -/
def Cell.reset : Cell := ⟨0, 0, 0, 0, 0, none⟩

/-- The reset value of ECLSk (R263): CXLDW in the high half, HBMDW in the low half. -/
def eclsReset (k : Nat) : Word :=
  match k with
  | 0 => 0x0000C350000001F4
  | 1 => 0x0007A120000007D0
  | 2 => 0x004C4B4000002710
  | 3 => 0x03938700000186A0
  | 4 => 0xFFFFFFFF000003E8
  | 5 => 0xFFFFFFFFFFFFFFFF
  | 6 => 0x0000000000000000
  | _ => 0xFFFFFFFF00000000

/-- A queue after reset; a device-launch queue 1,016 + p has PRI = p (R313). -/
def Queue.reset (q : Nat) : Queue :=
  let pri := if 1016 ≤ q then q - 1016 else 0
  ⟨BitVec.ofNat 64 (if 1016 ≤ q then 1 + 4 * pri else 0), 0, 0, 0, 0, if 1016 ≤ q then 1 else 0, 0, 0, false, pri, false, [],
   false, false, false, 0, none, [], false⟩

/-- An eye-margin monitor after reset (R341). -/
def Eye.reset : Eye := ⟨0, 0, 0, 0, 0, false, false, false⟩

/-- An island after reset (R368); what R368 gives no reset value is the model's. (DESIGN CHOICE, log 2.) -/
def Isl.reset (n : Nat) : Isl :=
  let f := if n = 20 ∨ (n < 20 ∧ n % 5 < 4) then 2700 else 0
  ⟨0, 0, f, 650, f, false, 0⟩

/-- The state right after reset: R365's values, and those the assumption log names where the manual gives none. (DESIGN CHOICE, log 2.) -/
def State.reset : State where
  mem := []
  poison := []
  slots := []
  cores := []
  clus := []
  xl := ⟨[], 0, 0, 0, 0, [], [], [], [], [], []⟩
  eng := ⟨[], 0, [], [], [], [], [], [], [], [], [], [], [], 0, 0, [], [], []⟩
  tr := ⟨[], [], [], [], 0, [], 0, 0, 0, 0, 0, 0, [], 0, [], false, []⟩
  tm := ⟨0, 255, 0, false, false, false, 0, 0, 0, 0, 0, 0, 0, none, false, 0, 0⟩
  snap := ⟨0, 0, 0, false, 0, 0, 0, 0, [], 0, none⟩
  sec := ⟨0, 0, 0, 0, 0, 0, 20000, 0, 0, false, false, 0, 0, 0, 0, [], 0, 0, 0, 0, false, false, [], 0, ⟨false, false, false, 0, none⟩, 0, false⟩
  fab := ⟨[], [], [], [], [], [], 0, 0, [], [], [], [], [], false, [], [], [], [], [], []⟩
  pwr := ⟨[], 2400, 0, true, [], 0⟩
  time := 0
  real := 0
  modid := 0
  cur := ⟨0, 0, none⟩
  agenda := []
  now := 0
  picks := 0

end Sys2Proof.Machine
end

