-- ==== Sys2Proof/Machine/Access.lean ====
section
/-! DEFINITION. Access to the parts of the state: sparse tables, bytes of memory, words of a window, slots, cores and clusters, and the numbering of parts (R18, R21, R22, R28, R167). -/

namespace Sys2Proof.Machine

/-! Sparse tables. -/

/-- The value at key `k`; `d` where the key is unlisted. -/
def tget {α : Type} (d : α) : List (Nat × α) → Nat → α
  | [], _ => d
  | (j, v) :: t, k => if k = j then v else if k < j then d else tget d t k

/-- Drops the entry of key `k`. -/
def tdel {α : Type} : List (Nat × α) → Nat → List (Nat × α)
  | [], _ => []
  | (j, v) :: t, k => if k = j then t else if k < j then (j, v) :: t else (j, v) :: tdel t k

/-- Lists `v` at key `k`. -/
def tins {α : Type} : List (Nat × α) → Nat → α → List (Nat × α)
  | [], k, v => [(k, v)]
  | (j, u) :: t, k, v => if k = j then (k, v) :: t else if k < j then (k, v) :: (j, u) :: t else (j, u) :: tins t k v

/-- Sets key `k` to `v`, keeping the canonical form: an entry equal to `d` is not listed. -/
def tset {α : Type} [DecidableEq α] (d : α) (t : List (Nat × α)) (k : Nat) (v : α) : List (Nat × α) :=
  if v = d then tdel t k else tins t k v

/-- Keys strictly rise, each above `lo`, and no entry equals `d`. -/
def twfFrom {α : Type} [DecidableEq α] (d : α) : Nat → List (Nat × α) → Bool
  | _, [] => true
  | lo, (j, v) :: t => decide (lo ≤ j) && decide (v ≠ d) && twfFrom d (j + 1) t

/-- The canonical form of a sparse table. -/
def twf {α : Type} [DecidableEq α] (d : α) (t : List (Nat × α)) : Bool := twfFrom d 0 t

/-! Memory: a sparse table of bytes; an unlisted byte reads 0 (R365, log 3). -/

/-- The canonical form of memory. -/
abbrev Memory.wf (m : List Host.Cell) : Bool := twf (0 : Byte) m

/-- One byte. -/
def byteAt (m : List Host.Cell) (k : Nat) : Byte := tget 0 m k

/-- Stores one byte. -/
def setByte (m : List Host.Cell) (k : Nat) (v : Byte) : List Host.Cell := tset 0 m k v

/-- `n` bytes from key `k`, the lowest address first. -/
def bytesAt (m : List Host.Cell) (k : Nat) : Nat → List Byte
  | 0 => []
  | n + 1 => byteAt m k :: bytesAt m (k + 1) n

/-- Stores bytes from key `k` upward. -/
def setBytes (m : List Host.Cell) (k : Nat) : List Byte → List Host.Cell
  | [] => m
  | b :: l => setBytes (setByte m k b) (k + 1) l

/-- `n` bytes as a little-endian number (R3). -/
def natAt (m : List Host.Cell) (k n : Nat) : Nat := leNat (bytesAt m k n)

/-- Stores a number as `n` little-endian bytes (R3). -/
def setNat (m : List Host.Cell) (k n v : Nat) : List Host.Cell := setBytes m k (leBytes n v)

/-- A 64-bit word of memory. -/
def State.w64 (s : State) (k : Nat) : Word := BitVec.ofNat 64 (natAt s.mem k 8)

/-- Stores a 64-bit word. -/
def State.setW64 (s : State) (k : Nat) (v : Word) : State := { s with mem := setNat s.mem k 8 v.toNat }

/-- Bits `lo` to `lo + n - 1` of a word as a number. -/
def fld (w : Word) (lo n : Nat) : Nat := w.toNat / 2 ^ lo % 2 ^ n

/-- One bit of a word. -/
def bit (w : Word) (k : Nat) : Bool := w.toNat / 2 ^ k % 2 == 1

/-- A word of a number. -/
def wordOf (n : Nat) : Word := BitVec.ofNat 64 n

/-! Slots, cores, clusters. -/

/-- The key of a slot. -/
def slotKey (c sl : Nat) : Nat := c * 16 + sl

def State.slot (s : State) (c sl : Nat) : SlotSt := tget SlotSt.reset s.slots (slotKey c sl)
def State.setSlot (s : State) (c sl : Nat) (x : SlotSt) : State := { s with slots := tset SlotSt.reset s.slots (slotKey c sl) x }
def State.core (s : State) (c : Nat) : CoreSt := tget CoreSt.reset s.cores c
def State.setCore (s : State) (c : Nat) (x : CoreSt) : State := { s with cores := tset CoreSt.reset s.cores c x }
def State.clu (s : State) (n : Nat) : CluSt := tget CluSt.reset s.clus n
def State.setClu (s : State) (n : Nat) (x : CluSt) : State := { s with clus := tset CluSt.reset s.clus n x }

/-- The thread in a slot. -/
def State.thread (s : State) (c sl : Nat) : Option Thread := (s.slot c sl).thread

/-- Replaces the thread of a slot. -/
def State.setThread (s : State) (c sl : Nat) (t : Option Thread) : State := s.setSlot c sl { s.slot c sl with thread := t }

/-- Changes the thread of a slot, if it holds one. -/
def State.modThread (s : State) (c sl : Nat) (f : Thread → Thread) : State :=
  match s.thread c sl with
  | some t => s.setThread c sl (some (f t))
  | none => s

/-- Hub cores run the system profile (R1; log 7). -/
def isHub (c : Nat) : Bool := Config.nCores ≤ c

/-- The cluster of a core (R22); hub cores belong to none and get a number past the last. -/
def cluOf (c : Nat) : Nat := c / 16

/-- W registers of a thread of the core (R43). -/
def State.nregs (s : State) (c : Nat) : Nat := if (s.core c).wide then 32 else 16

/-- Slots of the core (R43). -/
def State.nslots (s : State) (c : Nat) : Nat := if (s.core c).wide then 8 else 16

/-- The key of window offset `o` of core `c` (R18, R57). -/
def winKey (c o : Nat) : Nat := Config.sramBase + c * Config.windowBytes + o

/-- The flat-window virtual address of an offset (R57). -/
def flatVa (c o : Nat) : Word := wordOf (Config.flatBase + c * Config.windowBytes + o)

/-- The shadow frame's bank offset (R58). -/
def shadowOff (sl : Nat) : Nat := 128 * sl

/-- The kernel frame's bank offset (R278). -/
def State.kernelOff (s : State) (c sl : Nat) : Nat := if (s.core c).wide then 0x800 + 256 * sl else 0x800 + 128 * sl

/-- A word of a slot's shadow frame (R169). -/
def State.shadow (s : State) (c sl off : Nat) : Word := s.w64 (winKey c (shadowOff sl + off))

/-- Writes a word of a slot's shadow frame. -/
def State.setShadow (s : State) (c sl off : Nat) (v : Word) : State := s.setW64 (winKey c (shadowOff sl + off)) v

/-- HVEC (R169). -/
def State.hvec (s : State) (c sl : Nat) : Word := s.shadow c sl 0x00
/-- MSK (R169): a masked section is open. -/
def State.msk (s : State) (c sl : Nat) : Bool := bit (s.shadow c sl 0x08) 0
/-- INH (R169): a handler is running. -/
def State.inh (s : State) (c sl : Nat) : Bool := bit (s.shadow c sl 0x08) 1

/-- The mask word MST of its fields (R169). -/
def mst (mck : Nat) (inh msk : Bool) : Word := wordOf (65536 * (min mck 65535) + 2 * bitNat inh + bitNat msk)

/-- MCK as it stands (R169). -/
def State.mck (s : State) (c sl : Nat) : Nat := fld (s.shadow c sl 0x08) 16 16

/-- A thread identifier (R167). -/
def tidOf (c sl inc : Nat) : Word := wordOf (0xA * 2 ^ 60 + c * 2 ^ 49 + sl * 2 ^ 45 + inc % 65536 * 2 ^ 29)

/-- The core field of an identifier or handle (R167, R196, R247). -/
def tidCore (w : Word) : Nat := fld w 49 11
/-- The slot field of an identifier. -/
def tidSlot (w : Word) : Nat := fld w 45 4
/-- The incarnation field of an identifier. -/
def tidInc (w : Word) : Nat := fld w 29 16

/-- Where a live thread is: its core and slot, if the slot holds that incarnation. -/
def State.find (s : State) (tid : Word) : Option (Nat × Nat) :=
  let c := tidCore tid
  let sl := tidSlot tid
  match s.thread c sl with
  | some t => if t.inc = tidInc tid then some (c, sl) else none
  | none => none

/-- The identifier of the thread in a slot; 0 for an empty slot. -/
def State.tid (s : State) (c sl : Nat) : Word :=
  match s.thread c sl with
  | some t => tidOf c sl t.inc
  | none => 0

/-- The entry of a spilled thread in its core's spill table (R287). -/
def State.spilledOf (s : State) (tid : Word) : Option Spilled := (s.core (tidCore tid)).spilled.find? (fun x => x.tid == tid)

/-- Changes a spilled thread. -/
def State.modSpilled (s : State) (tid : Word) (f : Spilled → Spilled) : State :=
  let c := tidCore tid
  let k := s.core c
  s.setCore c { k with spilled := k.spilled.map (fun x => if x.tid == tid then f x else x) }

/-- Changes a thread wherever its context is: its slot or the spill table. -/
def State.modTid (s : State) (tid : Word) (f : Thread → Thread) : State :=
  match s.find tid with
  | some (c, sl) => s.modThread c sl f
  | none => s.modSpilled tid (fun x => { x with th := f x.th })

/-- The next open choice (R7; log 6). -/
def State.pick (s : State) : Nat × State := (Config.freeNat s.picks, { s with picks := s.picks + 1 })

/-- The lowest `k < n` that satisfies `p`. -/
def firstBelow (p : Nat → Bool) : Nat → Nat → Option Nat
  | 0, _ => none
  | n + 1, k => if p k then some k else firstBelow p n (k + 1)

/-- Replaces element `i` of a list. -/
def setAt {α : Type} : List α → Nat → α → List α
  | [], _, _ => []
  | _ :: l, 0, v => v :: l
  | x :: l, i + 1, v => x :: setAt l i v

/-- Removes element `i` of a list. -/
def delAt {α : Type} : List α → Nat → List α
  | [], _ => []
  | _ :: l, 0 => l
  | x :: l, i + 1 => x :: delAt l i

/-! Lists of bytes and words. -/

/-- Pieces of `k` bytes. -/
def chunks (k : Nat) : Nat → List Byte → List (List Byte)
  | 0, _ => []
  | n + 1, l => l.take k :: chunks k n (l.drop k)

/-- The words of bytes. -/
def wordsOf (n : Nat) (bs : List Byte) : List Word := (chunks 8 n bs).map (fun b => wordOf (leNat b))

/-- A word of a list: of a descriptor, a record or a packet. -/
def dsc (d : List Word) (k : Nat) : Word := d.getD k 0

/-! Clocks (R2, R32). -/

/-- The quadrant island of a core (R32); the hub cores stand on island 20. -/
def islandOf (c : Nat) : Nat := if isHub c then 20 else 5 * (cluOf c / 24) + cluOf c % 24 / 6

def State.isl (s : State) (n : Nat) : Isl := tget (Isl.reset n) s.pwr.isl n

/-- Elapsed ck of an island's clock (R2, R32): its ck at the last change of its frequency, and those since then. -/
def State.ckAt (s : State) (n : Nat) : Nat :=
  let b := tget (0, 0) s.pwr.clk n
  b.1 + (s.real - b.2) * (s.isl n).fnow / 65536000

/-- Elapsed ck of a core: its island's (R32). -/
def State.ckOf (s : State) (c : Nat) : Nat := s.ckAt (islandOf c)

/-- Elapsed ck of a cluster's cores. -/
def State.ckClu (s : State) (n : Nat) : Nat := s.ckOf (16 * n)

/-- Replaces an island; where its frequency changes, the count of its ck goes on from here at the new one (R2, R368). -/
def State.setIsl (s : State) (n : Nat) (x : Isl) : State :=
  { s with pwr := { s.pwr with
    isl := if x = Isl.reset n then tdel s.pwr.isl n else tins s.pwr.isl n x
    clk := if x.fnow = (s.isl n).fnow then s.pwr.clk else tins s.pwr.clk n (s.ckAt n, s.real) } }

/-! The order of events in one ck (R50). -/

/-- Whether an event at `place` in the order of one ck comes too late for a thread of core `c`: one that follows it in that order
has touched the thread in this ck already, so this event falls in a later ck. -/
def State.tooLate (s : State) (c : Nat) (t : Thread) (place : Nat) : Bool := t.evCk == s.ckOf c && decide (place < t.evPlace)

/-- The thread of core `c` after an event at `place` in the order of one ck. -/
def State.touched (s : State) (c : Nat) (place : Nat) (t : Thread) : Thread := { t with evCk := s.ckOf c, evPlace := place }

/-- Whether TIME value `a` is at or after `b` (R350). -/
def timeGe (a b : Word) : Bool := (a - b).toNat < 2 ^ 63

end Sys2Proof.Machine
end

