-- ==== Sys2Proof/Machine/Assay.lean ====
section
/-! DEFINITION. Trace records and snapshots (R354-R360): the records an event writes, the staging buffer and the ring, the common trigger and what it latches. -/

namespace Sys2Proof.Machine

/-- The record of an event (R355). -/
def traceRec (time : Word) (ty core slot code aux : Nat) (a b : Word) : TraceRec :=
  ⟨time, wordOf (ty * 2 ^ 56 + core % 2048 * 2 ^ 45 + slot % 16 * 2 ^ 41 + code % 65536 * 65536 + aux % 65536), a, b⟩

/-- The TYPE of a record. -/
def TraceRec.ty (r : TraceRec) : Nat := fld r.w1 56 8

/-- The gap record that stands for records lost (R355, R358). -/
def gapRec (first : Word) (lost : Nat) (newest : Word) : TraceRec := ⟨first, wordOf (0x0F * 2 ^ 56), wordOf lost, newest⟩

/-- What a full buffer's two oldest records become, and how many records are lost (R358). -/
def gapMerge (h n : TraceRec) : TraceRec × Nat :=
  if h.ty = 0x0F then (gapRec h.w0 (h.w2.toNat + 1) n.w0, 1) else (gapRec h.w0 2 n.w0, 2)

/-- ACTL.ON of a cluster (R356). -/
def State.traceOn (s : State) (clu : Nat) : Bool := bit (s.clu clu).actl 0

/-- Adds a record to the staging buffer of 2,048 records (R357, R358). (DEDUCED, log 79.) -/
def stage (x : CluSt) (r : TraceRec) : CluSt :=
  if x.staging.length < 2048 then { x with staging := x.staging ++ [r] }
  else
    match x.staging with
    | h :: n :: t =>
      let (g, k) := gapMerge h n
      { x with staging := g :: (t ++ [r]), adrop := (x.adrop + k) % 2 ^ 32 }
    | _ => x

/-- Whether a record of TYPE `ty` is enabled (R356): EN has a bit for five types, every other is recorded while ON. -/
def traceEn (actl : Word) (ty : Nat) : Bool :=
  match ty with
  | 0x01 => bit actl 4
  | 0x04 => bit actl 5
  | 0x05 => bit actl 6
  | 0x06 => bit actl 7
  | 0x0A => bit actl 8
  | _ => true

/-- Records an event in a cluster's trace (R355-R358). A hub core has no cluster and no trace. -/
def State.trace (s : State) (clu ty core slot code aux : Nat) (a b : Word) : State :=
  let x := s.clu clu
  if clu < Config.nClusters && bit x.actl 0 && traceEn x.actl ty then s.setClu clu (stage x (traceRec s.time ty core slot code aux a b)) else s

/-- Records a system event, TYPE 0x0B, in the trace of cluster 0 (R355): the acting core and slot where a thread's work is its cause. -/
def State.traceFor (s : State) (core slot code aux : Nat) (a b : Word) : State := s.trace 0 0x0B core slot code aux a b

/-- A system event that no thread's work causes. -/
def State.traceSys (s : State) (code aux : Nat) (a b : Word) : State := s.traceFor 0 0 code aux a b

/-- A transfer identifier (R196). -/
def xferId (core gen batch tag : Nat) : Word :=
  wordOf (0xB * 2 ^ 60 + core * 2 ^ 49 + gen % 65536 * 2 ^ 32 + batch % 65536 * 65536 + tag)

/-- A copy's transfer identifier; 0 for one with no tag. -/
def Copy.xfer (s : State) (k : Copy) : Word :=
  match k.tag with
  | some t => xferId k.core k.gen (tget TagSt.reset (s.core k.core).tags t).batch t
  | none => 0

/-! Snapshots (R360). -/

/-- The code a snapshot gives a thread's state: 0 ready, 1 halted, 22 spilled, else what it waits on. -/
def Wait.code : Wait → Nat
  | .none => 0 | .reply => 2 | .vector => 3 | .pendReg _ | .pendWrite _ => 4 | .barrier .. => 5 | .tags => 6 | .msg => 7 | .send => 8
  | .sleep _ => 9 | .fwait _ => 10 | .align .. => 11 | .launchPlace _ => 12 | .pin => 13 | .sweep => 14 | .arrayFull => 15
  | .array => 16 | .spillReq => 17 | .allPend => 18 | .migr => 19
  | .store .. => 20 | .flush => 21

/-- What a core latches for the thread of a slot, or for one spilled from it: PC, state with REPCNT and mode, PEND. -/
def latchSlot (sl : Nat) (t : Thread) (spilled : Bool) : List Word :=
  [wordOf sl, t.pc, wordOf ((if spilled then 22 else if t.halted then 1 else t.wait.code) + 256 * t.repcnt + 65536 * bitNat t.kernel),
   wordOf t.pend.toNat]

/-! Words that a block shows and a snapshot latches (R239, R316, R341). -/

def Queue.en (x : Queue) : Bool := bit x.cfg 0
def Queue.pri (x : Queue) : Nat := fld x.cfg 2 3
def Queue.pmax (x : Queue) : Nat := fld x.cfg 8 3
def Queue.log2n (x : Queue) : Nat := fld x.cfg 16 5
def Queue.func (x : Queue) : Nat := fld x.cfg 40 7
def Queue.tslot (x : Queue) : Nat := fld x.cfg 48 6

/-- OFF of QSTAT: the byte offset of the packet at QHEAD (R316). -/
def Queue.off (x : Queue) : Nat := 64 * (x.head % 2 ^ x.log2n)

/-- QSTAT (R316). -/
def Queue.qstat (x : Queue) : Word :=
  wordOf (x.state * 2 ^ 60 + x.err * 2 ^ 52 + x.cause * 2 ^ 44 + bitNat x.dberr * 2 ^ 37 + bitNat (x.pri < x.epri) * 2 ^ 36
          + x.epri * 2 ^ 33 + bitNat x.kill * 2 ^ 32 + x.off)

/-- Spare lanes of a group before any repair (R341). -/
def spares (n : Nat) : Nat := if n < 12 then 4 else if 16 ≤ n ∧ n < 64 then 1 else 0

/-- EYEMONn (R341). -/
def eyeWord (n : Nat) (x : Eye) : Word :=
  wordOf (x.ew % 1024 * 2 ^ 42 + x.eh % 1024 * 2 ^ 32 + x.lane % 65536 * 2 ^ 16 + x.wthr * 2 ^ 8 + (spares n - x.used) % 16 * 16
          + bitNat x.low * 2 + bitNat x.ie)

/-- Whether a tile is pending: its sweep runs, and it is not delivered, failed or paused (R239). -/
def Sweep.pendingTile (w : Sweep) (t : Nat) : Bool :=
  w.state = 0 && t < w.nt && w.delivered / 2 ^ t % 2 = 0 && w.completed / 2 ^ t % 2 = 0 && !w.failedTiles.contains t && !w.paused.contains t

/-- The ck at which a tile became pending (R239). -/
def Sweep.pendingAt (w : Sweep) (t : Nat) : Nat :=
  match w.since.find? (fun p => p.1 == t) with
  | some p => p.2
  | none => w.ckAt

/-- What a core latches: its slots' threads, its spilled threads, and its vector pipe's instruction and step. -/
def latchCore (s : State) (c : Nat) : List Word :=
  (List.range 16).flatMap (fun sl => match s.thread c sl with | some t => latchSlot sl t false | none => [])
  ++ (s.core c).spilled.flatMap (fun x => x.tid :: latchSlot x.slot x.th true)
  ++ (match (s.core c).vrun with | some v => [v.tid, v.iaddr, wordOf ((v.rep.map Prod.fst).getD 0)] | none => [])

/-- What the Mint latches of a sweep: handle, DELIV, DONE, FAIL, pending tiles and the oldest one's age. -/
def latchSweep (s : State) (w : Sweep) : List Word :=
  let l := (List.range w.nt).filter w.pendingTile
  [w.h, wordOf w.delivered, wordOf w.completed, wordOf w.failed, wordOf l.length, wordOf (l.foldl (fun m t => max m (s.ckOf w.core - w.pendingAt t)) 0)]

/-- What the escrow engine latches: the parks in each cell STATE, and the moves in flight. -/
def latchEscrow (s : State) : List Word :=
  (List.range 10).map (fun n => wordOf (s.eng.cells.filter (fun p => p.2.state == n)).length)
  ++ [wordOf ((s.eng.cells.filterMap (fun p => p.2.park) ++ s.eng.failing.map Prod.snd).flatMap (fun k => k.pages.filter (fun g => g.moving.isSome))).length]

/-- What the home ports latch (R360): the requests held at them, the stores on their way to them, and the pinned lines. -/
def latchHome (s : State) : List Word :=
  let stores := s.cores.flatMap (fun p => p.2.wbuf.filterMap (fun e => match e with | .store _ _ _ _ h => some h | .fence _ _ _ => none))
  [wordOf (stores.filter id).length, wordOf stores.length]
  ++ s.slots.flatMap (fun p => match p.2.thread with | some t => t.pins.map (fun x => wordOf x.1) | none => [])

/-- Every block's latched words, with the block number that names it (the model's numbering): cores 0-1542, arrays
2048-2143, copy engines 2304-2687, Mint 3072, Treasury 3073, escrow engine 3074, link ports 3075, home ports 3076. (DESIGN CHOICE, log 24.) -/
def latchAll (s : State) : List (Nat × Word × List Word) :=
  (s.cores.map (fun p => p.1)).map (fun c => (c, s.time, latchCore s c))
  ++ (s.clus.map (fun p => (2048 + p.1, s.time, p.2.mprog :: (match p.2.arr with | some a => [a.cmd.h] | none => []) ++ p.2.arrQ.map (fun q => q.h))))
  ++ s.eng.copies.map (fun k => (2304 + k.engine, s.time, [k.xfer s, wordOf k.prog, wordOf k.stage]))
  ++ [(3072, s.time, s.eng.sweeps.flatMap (latchSweep s)),
      (3073, s.time, (List.range 1024).map (fun q => (tget (Queue.reset q) s.tr.queues q).qstat) ++ s.tr.slots.flatMap (fun w => [wordOf w.pa, w.last])),
      (3074, s.time, latchEscrow s),
      (3075, s.time, (List.range 48).map (fun n => eyeWord (16 + n) (tget Eye.reset s.fab.eyes (16 + n))) ++ s.fab.inbound.map (fun r => wordOf r.replays)),
      (3076, s.time, latchHome s)]

/-- The common trigger (R360), from source `src`: while FROZEN it is missed, but of the triggers of one ck the lowest source is the one
latched. -/
def snapTrigger (s : State) (src tag : Nat) (tid : Word) (clu core slot : Nat) : State :=
  let n := s.snap.trigCnt + 1
  let s1 := s.trace (if clu < Config.nClusters then clu else 0) 0x0C core slot src 0 (wordOf tag) (wordOf n)
  let named : SnapSt := { s.snap with src := src, frozen := true, trigTime := s.time, trigTag := tag, trigNo := n, trigTid := tid, trigCnt := n,
                                      trigCk := some (s.ckAt 20) }
  let miss := min (s.snap.miss + 1) 65535
  if !s.snap.frozen then { s1 with snap := { named with latched := latchAll s } }
  else if s.snap.trigCk == some (s.ckAt 20) && src < s.snap.src then { s1 with snap := { named with miss := miss } }
  else { s1 with snap := { s.snap with miss := miss, trigCnt := n } }

/-- A thread trap or engine fault of `cause` triggers a snapshot when CMASK holds its bit (R360). -/
def snapCause (s : State) (cause : Nat) (tid : Word) (core slot : Nat) : State :=
  if s.snap.cmask.getLsbD cause then snapTrigger s 2 cause tid (cluOf core) core slot else s

end Sys2Proof.Machine
end

