-- ==== Sys2Proof/Machine/Ops.lean ====
section
/-! DEFINITION. The frame every meaning is written in: how an instruction stops, taking an exception (R281, R283, R285) and returning from one (R294), the registers of the issuing thread (R33, R34, R41, R111), and the advance of the PC. -/

namespace Sys2Proof.Machine

/-- How a meaning ends before its last line. Each carries the state as it then is (R9). -/
inductive Stop
  /-- no thread holds the slot: nothing issues -/
  | idle
  /-- a fault of R282, at the instruction -/
  | trap (cause : Nat) (info : Word) (s : State)
  /-- the thread leaves the rotation and the instruction issues again (R35, R41) -/
  | wait (w : Wait) (s : State)
  /-- the instruction has ended -/
  | out (s : State)

/-- The meaning of an instruction, step by step. -/
abbrev M := StateT State (Except Stop)

/-- What a step of a meaning answers. -/
abbrev Out := Host.Outcome State Fault Refusal

/-! Reports and traps. -/

/-- A fault report to the thread that FLTTID of the cluster names (R285); a hub core has no cluster and no FLTTID. -/
def report (s : State) (core : Nat) (src pay : Word) (code : Nat) : State :=
  if isHub core then s
  else
    let n := cluOf core
    let x := s.clu n
    if x.flttid = 0 then s.setClu n { x with fltdrop := (x.fltdrop + 1) % 2 ^ 32 }
    else { s with eng := { s.eng with net := s.eng.net ++ [⟨x.flttid, ⟨src, pay, code, s.time⟩, none⟩] } }

/-- TRAPSTAT of its fields (R280). -/
def trapstat (upend : BitVec 32) (uwp rep : Nat) (fl : BitVec 4) (kernel : Bool) : Word :=
  wordOf (upend.toNat * 2 ^ 32 + uwp % 32768 * 2 ^ 17 + rep % 128 * 2 ^ 10 + fl.toNat * 64 + bitNat kernel)

/-- FLAGS as four bits (R143). -/
def Flags.bits (f : Flags) : BitVec 4 := BitVec.ofNat 4 (8 * bitNat f.z + 4 * bitNat f.n + 2 * bitNat f.c + bitNat f.v)

/-- FLAGS of four bits (R143). -/
def Flags.ofBits (b : BitVec 4) : Flags := ⟨b.getLsbD 3, b.getLsbD 2, b.getLsbD 1, b.getLsbD 0⟩

/-- Trap entry (R281): what the slot saves, and the thread in its kernel frame at TRAPVEC. -/
def enterKernel (s : State) (c sl : Nat) (t : Thread) (cause : Nat) (info ret : Word) : State :=
  let x := s.slot c sl
  s.setSlot c sl { x with
    trapcause := wordOf cause, trapinfo := info, trappc := ret,
    upend := t.pend, uwp := t.wp, trep := t.repcnt, tfl := t.flags.bits,
    thread := some { t with wp := s.kernelOff c sl, pend := 0, repcnt := 0, kernel := true, wait := .none, pc := (s.core c).trapvec } }

/-- The trace record and snapshot of a trap (R285, R354, R360). -/
def noteTrap (s : State) (c sl cause : Nat) (ret info tid : Word) : State :=
  snapCause (s.trace (cluOf c) 0x02 c sl cause 0 ret info) cause tid c sl

/-- Halts the thread of a slot (R283) and reports cause 0x16 with the halting instruction's address. -/
def haltThread (s : State) (c sl : Nat) (pc : Word) : State :=
  let s1 := s.modThread c sl (fun t => { t with halted := true, wait := .none })
  report s1 c (s.tid c sl) pc (0x8000 + 0x16)

/-- Takes an exception in the thread of slot `sl` of core `c` (R281, R283, R285): `ret` is the restart or resume
address and `at` the address of the instruction. -/
def trapEntry (s : State) (c sl cause : Nat) (info ret at_ : Word) : State :=
  match s.thread c sl with
  | none => s
  | some t =>
    let tid := s.tid c sl
    let s0 := noteTrap s c sl cause ret info tid
    if t.kernel then haltThread s0 c sl at_
    else
      let s1 := enterKernel s0 c sl t cause info ret
      let s2 := if bit (s.core c).traprpt cause then report s1 c tid info (0x8000 + cause) else s1
      if (s.core c).trapvec = 0 then haltThread s2 c sl at_ else s2

/-- A precise fault of the instruction at the thread's PC (R281, R282): it restarts. (DEDUCED, log 18.) -/
def takeTrap (s : State) (c sl cause : Nat) (info : Word) : State :=
  match s.thread c sl with
  | none => s
  | some t => trapEntry s c sl cause info t.pc t.pc

/-- Puts the thread of a slot out of the rotation (R35). -/
def setWait (s : State) (c sl : Nat) (w : Wait) : State := s.modThread c sl (fun t => { t with wait := w })

/-- Runs a meaning for the issuing slot. -/
def run (m : M Unit) (s : State) : Out :=
  match m s with
  | .ok (_, s') => .next s'
  | .error .idle => .next s
  | .error (.trap c i s') => .next (takeTrap s' s.cur.core s.cur.slot c i)
  | .error (.wait w s') => .next (setWait s' s.cur.core s.cur.slot w)
  | .error (.out s') => .next s'

/-! Steps of a meaning. -/

/-- A precise fault. -/
def trap {α : Type} (cause : Nat) (info : Word) : M α := fun s => .error (.trap cause info s)

/-- The thread leaves the rotation; the instruction issues again. -/
def waitOn {α : Type} (w : Wait) : M α := fun s => .error (.wait w s)

/-- The instruction ends here. -/
def done {α : Type} : M α := fun s => .error (.out s)

/-- The issuing core and slot. -/
def me : M (Nat × Nat) := fun s => .ok ((s.cur.core, s.cur.slot), s)

/-- The issuing thread. -/
def th : M Thread := fun s =>
  match s.thread s.cur.core s.cur.slot with
  | some t => .ok (t, s)
  | none => .error .idle

/-- Changes the issuing thread. -/
def modTh (f : Thread → Thread) : M Unit := fun s => .ok ((), s.modThread s.cur.core s.cur.slot f)

/-- Changes the issuing slot. -/
def modSlot (f : SlotSt → SlotSt) : M Unit := fun s => .ok ((), s.setSlot s.cur.core s.cur.slot (f (s.slot s.cur.core s.cur.slot)))

/-- Changes the state. -/
def upd (f : State → State) : M Unit := fun s => .ok ((), f s)

/-- A value of the state. -/
def ask {α : Type} (f : State → α) : M α := fun s => .ok (f s, s)

/-- A value found in the state, which changes. -/
def step1 {α : Type} (f : State → α × State) : M α := fun s => .ok (f s)

/-- Changes the state in which a step of a meaning faults. -/
def onTrap {α : Type} (f : State → State) (m : M α) : M α := fun s =>
  match m s with
  | .error (.trap c i s') => .error (.trap c i (f s'))
  | r => r

/-- The illegal-instruction fault for a value out of range, BIT as given (R118, R127). -/
def outOfRange {α : Type} (bitPos : Nat) : M α := trap 0x01 (wordOf (4 + 256 * bitPos))

/-- Faults unless `ok`. -/
def need (ok : Bool) (cause : Nat) (info : Word) : M Unit := if ok then pure () else trap cause info

/-- A register field of an instruction and the register it names (R118: 0 D, 1 A, 2 B, 3 E, 4 F). -/
abbrev FReg := Nat × WReg

/-- The first register field out of the partition (R111). (DEDUCED, log 35.) -/
def outOfPart (n : Nat) : List FReg → Option FReg
  | [] => none
  | (f, r) :: l => if r.val < n then outOfPart n l else some (f, r)

/-- Checks the register fields against the core's partition, in the order D, A, B, E, F (R111, R115, R118). -/
def chk (l : List FReg) : M Unit := fun s =>
  match outOfPart (s.nregs s.cur.core) l with
  | none => .ok ((), s)
  | some (f, r) => .error (.trap 0x03 (wordOf (f * 2 ^ 21 + r.val * 2 ^ 16)) s)

/-- The register word's key in the issuing thread's frame (R33, R34). -/
def regKey (c wp n : Nat) : Nat := winKey c (wp + 8 * n)

/-- The value of register `n` of a thread's current frame. -/
def State.reg (s : State) (c : Nat) (t : Thread) (n : Nat) : Word := s.w64 (regKey c t.wp n)

/-- Whether PEND holds register `n` (R33). -/
def Thread.pends (t : Thread) (n : Nat) : Bool := t.pend.getLsbD n

/-- CAN of a future handle (R207). -/
def hCan (h : Word) : Bool := bit h 24
/-- STOP of a future handle (R207). -/
def hStop (h : Word) : Bool := bit h 23

/-- Reads a register operand (R41): a pending one makes the thread wait, a cancelled one faults (R210). -/
def rd (r : WReg) : M Word := fun s =>
  let c := s.cur.core
  match s.thread c s.cur.slot with
  | none => .error .idle
  | some t =>
    let v := s.reg c t r.val
    if t.pends r.val then
      if hCan v then .error (.trap 0x0E (wordOf r.val) s) else .error (.wait (.pendReg r.val) s)
    else .ok (v, s)

/-- A destination with PEND set makes the write wait until completion, or until STOP after FCANCEL (R41, R210). (DEDUCED, log 22.) -/
def needDst (r : WReg) : M Unit := fun s =>
  let c := s.cur.core
  match s.thread c s.cur.slot with
  | none => .error .idle
  | some t => if t.pends r.val && !hStop (s.reg c t r.val) then .error (.wait (.pendWrite r.val) s) else .ok ((), s)

/-- Bit `n` cleared. -/
def clrBit (p : BitVec 32) (n : Nat) : BitVec 32 := p &&& ~~~(BitVec.ofNat 32 (2 ^ n))
/-- Bit `n` set. -/
def setBit (p : BitVec 32) (n : Nat) : BitVec 32 := p ||| BitVec.ofNat 32 (2 ^ n)

/-- Writes a register of the thread in a slot: its word, its completion-time word (R211) and its PEND bit (R210). -/
def State.setReg (s : State) (c sl n : Nat) (v : Word) : State :=
  match s.thread c sl with
  | none => s
  | some t =>
    let x := s.slot c sl
    (s.setSlot c sl { x with ctime := tset 0 x.ctime n 0, thread := some { t with pend := clrBit t.pend n } }).setW64 (regKey c t.wp n) v

/-- Writes a destination register. -/
def wr (r : WReg) (v : Word) : M Unit := fun s => .ok ((), s.setReg s.cur.core s.cur.slot r.val v)

/-- A destination that the reply of a memory access writes when it reaches the core (R35). -/
def wrLate (r : WReg) (v : Word) : M Unit := modTh (fun t => { t with late := t.late ++ [(r.val, v)] })

/-- The reply reaches the thread of a slot (R35): the registers it brings are written, and the thread re-enters. -/
def takeReply (s : State) (c sl : Nat) : State :=
  match s.thread c sl with
  | none => s
  | some t => (t.late.foldl (fun s p => s.setReg c sl p.1 p.2) s).modThread c sl (fun t => { t with late := [], wait := .none })

/-- The address of the instruction being performed: the PC, or 8 past it for a REP target (R121). -/
def iaddr : M Word := fun s =>
  match s.thread s.cur.core s.cur.slot with
  | some t => .ok (if s.cur.rep.isSome then t.pc + 8 else t.pc, s)
  | none => .error .idle

/-- Advances the PC past an instruction of `n` bytes. The end of a repetition of a REP counts it, and the last one passes the
prefix and the target (R121). -/
def State.pass (s : State) (n : Nat) : State :=
  s.modThread s.cur.core s.cur.slot (fun t =>
    match s.cur.rep with
    | none => { t with pc := t.pc + wordOf n }
    | some (i, m) => if i + 1 < m then { t with repcnt := i + 1 } else { t with repcnt := 0, pc := t.pc + wordOf (8 + n) })

/-- The instruction of `n` bytes ends: the PC passes it. -/
def fin (n : Nat) : M Unit := fun s => .ok ((), s.pass n)

/-- The instruction of `n` bytes has done its work and its thread is out of the rotation until `w` ends (R35). -/
def finWait (n : Nat) (w : Wait) : M Unit := fun s => .ok ((), setWait (s.pass n) s.cur.core s.cur.slot w)

/-- Sets FLAGS. -/
def setFlags (f : Flags) : M Unit := modTh (fun t => { t with flags := f })

/-- Jumps to `t` (R138). -/
def jump (t : Word) : M Unit := modTh (fun x => { x with pc := t })

/-- Whether a virtual address is canonical (R51): bits [63:57] copy bit 56. -/
def canonical (a : Word) : Bool := a.toNat / 2 ^ 56 = 0 || a.toNat / 2 ^ 56 = 255

/-- The checks of a register or absolute target (R139); TRAPINFO holds the target for both. (DESIGN CHOICE, log 107.) -/
def checkTarget (t : Word) : M Unit := do
  need (t.toNat % 4 = 0) 0x05 t
  need (canonical t) 0x07 t

/-- Whether TRAPPC may be returned to (R294, R139). -/
def targetOk (t : Word) : Bool := t.toNat % 4 = 0 && canonical t

/-- The user state a return restores (R294). -/
def leaveKernel (s : State) (c sl : Nat) (t : Thread) : State :=
  let x := s.slot c sl
  s.setSlot c sl { x with thread := some { t with wp := x.uwp, pend := x.upend, repcnt := x.trep, flags := Flags.ofBits x.tfl,
                                                   kernel := false, wait := .none, pc := x.trappc } }

/-- The tenant identifier of a core (R299). -/
def State.tenantOf (s : State) (c : Nat) : Nat := (s.core c).tenant

end Sys2Proof.Machine
end

