-- ==== Sys2Proof/Machine/Flags.lean ====
section
/-! DEFINITION. Every flag computation: FLAGS of integer and compare forms (R128, R129, R135), the conditions (R112), IFLAGS and the cluster OR tree (R77, R78). -/

namespace Sys2Proof.Machine

/-- `x + y + cin` with the four flags (R129). -/
def addC (x y : Word) (cin : Bool) : Word × Flags :=
  let u := x.toNat + y.toNat + bitNat cin
  let v := x.toInt + y.toInt + (bitNat cin : Int)
  let r : Word := BitVec.ofNat 64 u
  (r, ⟨r == 0, r.msb, decide (2 ^ 64 ≤ u), decide (v < -2 ^ 63 ∨ 2 ^ 63 - 1 < v)⟩)

/-- FLAGS of a logical result (R128): Z and N from it, C and V clear. -/
def logicFlags (r : Word) : Flags := ⟨r == 0, r.msb, false, false⟩

/-- Whether a condition holds (R112). -/
def Cond.holds (c : Cond) (f : Flags) : Bool :=
  match c with
  | .eq => f.z
  | .ne => !f.z
  | .hs => f.c
  | .lo => !f.c
  | .mi => f.n
  | .pl => !f.n
  | .vs => f.v
  | .vc => !f.v
  | .hi => f.c && !f.z
  | .ls => !f.c || f.z
  | .ge => f.n == f.v
  | .lt => f.n != f.v
  | .gt => !f.z && f.n == f.v
  | .le => f.z || f.n != f.v
  | .al => true

/-- The relation of a float compare (R135). -/
inductive Rel | eq | lt | gt | un
  deriving DecidableEq, Repr

/-- FLAGS of FCMP (R135). -/
def Rel.flags : Rel → Flags
  | .eq => ⟨true, false, true, false⟩
  | .lt => ⟨false, true, false, false⟩
  | .gt => ⟨false, false, true, false⟩
  | .un => ⟨false, false, true, true⟩

/-! IFLAGS (R77), as a mask of five bits: NV 0, DZ 1, OF 2, UF 3, NX 4. -/

/-- The flags an operation raises. -/
abbrev IFl := BitVec 5

def IFl.none : IFl := 0
def IFl.nv : IFl := 1
def IFl.dz : IFl := 2
def IFl.of : IFl := 4
def IFl.uf : IFl := 8
def IFl.nx : IFl := 16

/-- The Raise of a flag that came first in the present ck, if one has. -/
def raisedNow (s : State) (n f : Nat) : Option (Nat × Word × Nat × Nat) :=
  ((s.clu n).raised.find? (fun p => p.1 == f && p.2.1 == s.ckClu n)).map (fun p => p.2)

/-- One flag reaches the OR tree of cluster `n` (R78): the first raise records TIME, and the tree knows the first one of the last ck. -/
def treeRaise1 (s : State) (n core slot f : Nat) : State :=
  let x := if (raisedNow s n f).isSome then s.clu n else { s.clu n with raised := tins (s.clu n).raised f (s.ckClu n, s.time, core, slot) }
  if x.u.getLsbD f then s.setClu n x
  else (s.setClu n { x with u := x.u ||| BitVec.ofNat 5 (2 ^ f), first := tset 0 x.first f s.time }).trace n 0x09 core slot f 0 0 0

/-- Clears flag `f` of the OR tree of cluster `n` (R78): a Raise in the same ck takes effect after the clear, and where it found the flag
set it now sets it first (R354). -/
def treeClear1 (s : State) (n f : Nat) : State :=
  let x := s.clu n
  match raisedNow s n f with
  | some p =>
    let s1 := s.setClu n { x with u := x.u ||| BitVec.ofNat 5 (2 ^ f), first := tset 0 x.first f p.2.1 }
    if x.u.getLsbD f && tget 0 x.first f == p.2.1 then s1 else s1.trace n 0x09 p.2.2.1 p.2.2.2 f 0 0 0
  | none => s.setClu n { x with u := x.u &&& ~~~(BitVec.ofNat 5 (2 ^ f)) }

/-- Clears the flags of a mask in the OR tree of a cluster (R78). -/
def treeClear (s : State) (n : Nat) (m : IFl) : State := (List.range 5).foldl (fun s f => if m.getLsbD f then treeClear1 s n f else s) s

/-- Raised flags reach the OR tree of a cluster (R78). -/
def treeRaise (s : State) (n core slot : Nat) (m : IFl) : State :=
  if Config.nClusters ≤ n then s
  else (List.range 5).foldl (fun s f => if m.getLsbD f then treeRaise1 s n core slot f else s) s

/-- Raises flags in the thread of a slot and its cluster's tree (R75, R78). -/
def raiseAt (s : State) (c sl : Nat) (m : IFl) : State :=
  if m = 0 then s
  else treeRaise (s.modThread c sl (fun t => { t with iflags := t.iflags ||| m })) (cluOf c) c sl m

/-- Raises flags in the issuing thread. -/
def raise (m : IFl) : M Unit := upd (fun s => raiseAt s s.cur.core s.cur.slot m)

end Sys2Proof.Machine
end

