-- ==== Sys2Proof/Machine/Float.lean ====
section
/-! DEFINITION. Numbers (R68-R74): the float formats and their exact values, RoundTo and ToInt, and the arithmetic that is exact before one rounding. -/

namespace Sys2Proof

open Machine

/-! Formats (R68). -/

/-- Exponent bits. -/
def FFmt.ebits : FFmt → Nat
  | .f64 => 11 | .f32 => 8 | .f16 => 5 | .bf16 => 8 | .f8 => 5
/-- Fraction bits. -/
def FFmt.fbits : FFmt → Nat
  | .f64 => 52 | .f32 => 23 | .f16 => 10 | .bf16 => 7 | .f8 => 2
/-- Exponent bias. -/
def FFmt.bias (f : FFmt) : Nat := 2 ^ (f.ebits - 1) - 1
/-- Width in bits. -/
def FFmt.width (f : FFmt) : Nat := 1 + f.ebits + f.fbits
/-- Size in bytes. -/
def FFmt.bytes (f : FFmt) : Nat := f.width / 8
/-- Precision: significand bits. -/
def FFmt.prec (f : FFmt) : Nat := f.fbits + 1
/-- Exponent of the smallest normal value. -/
def FFmt.emin (f : FFmt) : Int := 1 - (f.bias : Int)
/-- The bits of +∞. -/
def FFmt.infBits (f : FFmt) : Nat := (2 ^ f.ebits - 1) * 2 ^ f.fbits
/-- The canonical NaN (R69). -/
def FFmt.nanBits (f : FFmt) : Nat := f.infBits + 2 ^ (f.fbits - 1)
/-- The sign bit's weight. -/
def FFmt.signW (f : FFmt) : Nat := 2 ^ (f.ebits + f.fbits)

/-- An exact value: a NaN, quiet or signalling; an infinity; or (−1)^neg × m × 2^e, where m = 0 is a signed zero. -/
inductive Num
  | nan (sig : Bool)
  | inf (neg : Bool)
  | fin (neg : Bool) (m : Nat) (e : Int)
  deriving DecidableEq, Repr

/-- The value of a code (R68, R69). -/
def FFmt.val (f : FFmt) (bits : Nat) : Num :=
  let x := bits % 2 ^ f.width
  let neg := x / f.signW % 2 == 1
  let ex := x / 2 ^ f.fbits % 2 ^ f.ebits
  let fr := x % 2 ^ f.fbits
  if ex = 2 ^ f.ebits - 1 then
    if fr = 0 then .inf neg else .nan (fr < 2 ^ (f.fbits - 1))
  else if ex = 0 then .fin neg fr (f.emin - f.fbits)
  else .fin neg (fr + 2 ^ f.fbits) ((ex : Int) - f.bias - f.fbits)

/-- Whether a code is a signalling NaN. -/
def Num.sig : Num → Bool
  | .nan x => x
  | _ => false

def Num.isNan : Num → Bool
  | .nan _ => true
  | _ => false

/-- Whether a value is a zero of either sign. -/
def Num.isZero : Num → Bool
  | .fin _ m _ => m == 0
  | _ => false

/-- The sign of a value that is not a NaN. -/
def Num.neg : Num → Bool
  | .inf n => n
  | .fin n _ _ => n
  | .nan _ => false

/-- The value with its sign inverted. -/
def Num.negate : Num → Num
  | .nan x => .nan x
  | .inf n => .inf !n
  | .fin n m e => .fin (!n) m e

/-- The number of bits of `x`: 0 for 0. -/
def bitLen (x : Nat) : Nat := if x = 0 then 0 else x.log2 + 1

/-! Rounding (R72). -/

/-- `m` × 2^`e` rounded to a multiple of 2^`q`, as a count of 2^q, and whether that differs. -/
def roundQ (md : RMode) (neg : Bool) (m : Nat) (e q : Int) : Nat × Bool :=
  if q ≤ e then (m * 2 ^ (e - q).toNat, false)
  else
    let w := 2 ^ (q - e).toNat
    let k := m / w
    let r := m % w
    if r = 0 then (k, false)
    else
      let up := match md with
        | .rne => w < 2 * r || (2 * r == w && k % 2 == 1)
        | .rna => w ≤ 2 * r
        | .rtz => false
        | .rup => !neg
        | .rdn => neg
      (if up then k + 1 else k, true)

/-- The code of (−1)^neg × m × 2^q, which the format holds exactly. -/
def FFmt.pack (f : FFmt) (neg : Bool) (m : Nat) (q : Int) : Nat :=
  let s := if neg then f.signW else 0
  if m = 0 then s
  else
    let l := bitLen m
    let top : Int := l + q
    if top ≤ f.emin then s + m * 2 ^ (q - (f.emin - f.fbits)).toNat
    else
      let fr := if l ≤ f.prec then m * 2 ^ (f.prec - l) else m / 2 ^ (l - f.prec)
      s + (top - 1 + f.bias).toNat * 2 ^ f.fbits + (fr - 2 ^ f.fbits)

/-- RoundTo of a nonzero finite value (R72 steps 2-5): the code and the flags. Underflow is raised when the value
rounded with an unbounded exponent is tiny and the result differs from the value (log 15). -/
def FFmt.roundFin (f : FFmt) (md : RMode) (neg : Bool) (m : Nat) (e : Int) : Nat × IFl :=
  let s := if neg then f.signW else 0
  let q : Int := (bitLen m : Int) + e - f.prec
  let (m1, x1) := roundQ md neg m e q
  let top : Int := (bitLen m1 : Int) + q
  if (f.bias : Int) + 1 < top then
    let toInf := match md with
      | .rne | .rna => true
      | .rup => !neg
      | .rdn => neg
      | .rtz => false
    (if toInf then s + f.infBits else s + f.infBits - 1, IFl.of ||| IFl.nx)
  else if top ≤ f.emin then
    let (m2, x2) := roundQ md neg m e (f.emin - f.fbits)
    (f.pack neg m2 (f.emin - f.fbits), if x2 then IFl.uf ||| IFl.nx else 0)
  else (f.pack neg m1 q, if x1 then IFl.nx else 0)

/-- RoundTo (R72): a zero keeps its sign, ±∞ and NaN raise nothing. -/
def FFmt.roundTo (f : FFmt) (md : RMode) (x : Num) : Nat × IFl :=
  match x with
  | .nan _ => (f.nanBits, 0)
  | .inf n => ((if n then f.signW else 0) + f.infBits, 0)
  | .fin n m e => if m = 0 then (if n then f.signW else 0, 0) else f.roundFin md n m e

/-- ToInt (R73): the integer, with the flags. -/
def toIntN (w : Nat) (md : RMode) (x : Num) : Int × IFl :=
  let hi : Int := 2 ^ (w - 1) - 1
  let lo : Int := -2 ^ (w - 1)
  match x with
  | .nan _ => (0, IFl.nv)
  | .inf n => (if n then lo else hi, IFl.nv)
  | .fin n m e =>
    -- a magnitude past every bound needs no exact count
    if m ≠ 0 ∧ 256 < (bitLen m : Int) + e then (if n then lo else hi, IFl.nv)
    else
      let (k, x1) := roundQ md n m e 0
      let v : Int := if n then -(k : Int) else k
      if hi < v then (hi, IFl.nv) else if v < lo then (lo, IFl.nv) else (v, if x1 then IFl.nx else 0)

/-- An integer as an exact value; its zero is +0. -/
def Num.ofInt (v : Int) : Num := .fin (v < 0) v.natAbs 0

/-! Exact sums and products under the special-value rules of IEEE 754-2019. -/

/-- A product, and whether it is invalid (0 × ∞). -/
def Num.mul (a b : Num) : Num × Bool :=
  match a, b with
  | .nan _, _ => (.nan false, false)
  | _, .nan _ => (.nan false, false)
  | .inf n, .inf k => (.inf (n != k), false)
  | .inf n, .fin k m _ => if m = 0 then (.nan false, true) else (.inf (n != k), false)
  | .fin n m _, .inf k => if m = 0 then (.nan false, true) else (.inf (n != k), false)
  | .fin n m e, .fin k l g => (.fin (n != k) (m * l) (e + g), false)

/-- What a sum has met so far: a NaN, infinities of either sign, a −0, a +0, a nonzero term, and the exact finite part
`v` × 2^`e`. -/
structure Sum where
  nan : Bool
  pinf : Bool
  ninf : Bool
  neg0 : Bool
  pos0 : Bool
  nz : Bool
  v : Int
  e : Int
  deriving DecidableEq, Repr

/-- The sum of no terms. -/
def Sum.zero : Sum := ⟨false, false, false, false, false, false, 0, 0⟩

/-- Adds a term. -/
def Sum.add (s : Sum) (x : Num) : Sum :=
  match x with
  | .nan _ => { s with nan := true }
  | .inf n => if n then { s with ninf := true } else { s with pinf := true }
  | .fin n m e =>
    if m = 0 then (if n then { s with neg0 := true } else { s with pos0 := true })
    else
      let t : Int := if n then -(m : Int) else m
      if s.v = 0 then { s with nz := true, v := t, e := e }
      else if s.e ≤ e then { s with nz := true, v := s.v + t * 2 ^ (e - s.e).toNat }
      else { s with nz := true, v := s.v * 2 ^ (s.e - e).toNat + t, e := e }

/-- The sign of an exact zero sum (R72 step 1): −0 if every term is −0, +0 if every term is +0, else as the mode says. -/
def Sum.zeroNeg (s : Sum) (md : RMode) : Bool :=
  if s.nz || (s.neg0 && s.pos0) then md == .rdn else s.neg0

/-- The value of a sum under a mode, and whether it is invalid (opposite infinities). A NaN term makes it NaN, and opposite infinities beside
one raise nothing (R81). (DESIGN CHOICE, log 108.) -/
def Sum.val (s : Sum) (md : RMode) : Num × Bool :=
  if s.nan then (.nan false, false)
  else if s.pinf && s.ninf then (.nan false, true)
  else if s.pinf then (.inf false, false)
  else if s.ninf then (.inf true, false)
  else if s.v = 0 then (.fin (s.zeroNeg md) 0 0, false)
  else (.fin (s.v < 0) s.v.natAbs s.e, false)

/-- The invalid flag of a condition. -/
def nvIf (x : Bool) : IFl := if x then IFl.nv else 0

/-- RoundTo of a sum, with the flags of both. -/
def FFmt.roundSum (f : FFmt) (md : RMode) (t : Sum) : Nat × IFl :=
  let (v, inv) := t.val md
  let (r, g) := f.roundTo md v
  (r, g ||| nvIf inv)

/-! The operations on values: each answers the code in the format and the flags. -/

/-- a + b (R134). -/
def fAdd (f : FFmt) (md : RMode) (a b : Num) : Nat × IFl :=
  let (r, g) := f.roundSum md ((Sum.zero.add a).add b)
  (r, g ||| nvIf (a.sig || b.sig))

/-- a − b (R134). -/
def fSub (f : FFmt) (md : RMode) (a b : Num) : Nat × IFl :=
  let (r, g) := fAdd f md a b.negate
  (r, g)

/-- a × b (R134). -/
def fMul (f : FFmt) (md : RMode) (a b : Num) : Nat × IFl :=
  let (p, inv) := a.mul b
  let (r, g) := f.roundTo md p
  (r, g ||| nvIf (inv || a.sig || b.sig))

/-- a × b + d with one rounding (R134); 0 × ∞ raises invalid. -/
def fFma (f : FFmt) (md : RMode) (a b d : Num) : Nat × IFl :=
  let (p, inv) := a.mul b
  let (r, g) := f.roundSum md ((Sum.zero.add p).add d)
  (r, g ||| nvIf (inv || a.sig || b.sig || d.sig))

/-- The quotient of nonzero finite values to `p` + 3 bits or more, its last bit set when it is not exact. -/
def divBits (p m1 : Nat) (e1 : Int) (m2 : Nat) (e2 : Int) : Nat × Int :=
  let k := p + 3 + bitLen m2 - bitLen m1
  let x := m1 * 2 ^ k
  (2 * (x / m2) + (if x % m2 = 0 then 0 else 1), e1 - e2 - k - 1)

/-- a / b (R134): a finite nonzero value over a zero raises divzero; 0/0 and ∞/∞ raise invalid. -/
def fDiv (f : FFmt) (md : RMode) (a b : Num) : Nat × IFl :=
  match a, b with
  | .nan x, y => (f.nanBits, nvIf (x || y.sig))
  | x, .nan y => (f.nanBits, nvIf (x.sig || y))
  | .inf _, .inf _ => (f.nanBits, IFl.nv)
  | .inf n, .fin k _ _ => f.roundTo md (.inf (n != k))
  | .fin n _ _, .inf k => f.roundTo md (.fin (n != k) 0 0)
  | .fin n m e, .fin k l g =>
    if l = 0 then
      if m = 0 then (f.nanBits, IFl.nv) else ((f.roundTo md (.inf (n != k))).1, IFl.dz)
    else if m = 0 then f.roundTo md (.fin (n != k) 0 0)
    else
      let (q, h) := divBits f.prec m e l g
      f.roundFin md (n != k) q h

/-- The integer square root by bits: `r` so far, `n` bits to go. -/
def isqrtN : Nat → Nat → Nat → Nat
  | 0, _, r => r
  | n + 1, x, r => if (r + 2 ^ n) * (r + 2 ^ n) ≤ x then isqrtN n x (r + 2 ^ n) else isqrtN n x r

/-- The integer square root. -/
def isqrt (x : Nat) : Nat := isqrtN (bitLen x / 2 + 1) x 0

/-- The square root of a nonzero finite value to `p` + 3 bits or more, its last bit set when it is not exact. -/
def sqrtBits (p m : Nat) (e : Int) : Nat × Int :=
  let m0 := if e % 2 = 0 then m else 2 * m
  let e0 := if e % 2 = 0 then e else e - 1
  let k := p + 4
  let x := m0 * 4 ^ k
  let r := isqrt x
  (2 * r + (if r * r = x then 0 else 1), e0 / 2 - k - 1)

/-- √a (R134, R187): √(−0) = −0; a negative value raises invalid. -/
def fSqrt (f : FFmt) (md : RMode) (a : Num) : Nat × IFl :=
  match a with
  | .nan x => (f.nanBits, nvIf x)
  | .inf n => if n then (f.nanBits, IFl.nv) else (f.infBits, 0)
  | .fin n m e =>
    if m = 0 then f.roundTo md (.fin n 0 0)
    else if n then (f.nanBits, IFl.nv)
    else
      let (r, h) := sqrtBits f.prec m e
      f.roundFin md false r h

/-- The relation of two values (R135): −0 equals +0, a NaN is unordered. -/
def Num.rel (a b : Num) : Rel :=
  match a, b with
  | .nan _, _ => .un
  | _, .nan _ => .un
  | .inf n, .inf k => if n = k then .eq else if n then .lt else .gt
  | .inf n, _ => if n then .lt else .gt
  | _, .inf k => if k then .gt else .lt
  | .fin .., .fin .. =>
    let d := (Sum.zero.add a).add b.negate
    if d.v = 0 then .eq else if d.v < 0 then .lt else .gt

/-- Whether `a` comes before `b` in the order of FMIN, where −0 lies below +0 (R134). -/
def Num.below (a b : Num) : Bool :=
  match a.rel b with
  | .lt => true
  | .eq => a.neg && !b.neg
  | _ => false

/-- The smaller (R134): the canonical NaN if either is NaN; only a signalling NaN raises invalid. -/
def fMin (f : FFmt) (md : RMode) (a b : Num) : Nat × IFl :=
  if a.isNan || b.isNan then (f.nanBits, nvIf (a.sig || b.sig))
  else f.roundTo md (if b.below a then b else a)

/-- The larger (R134). -/
def fMax (f : FFmt) (md : RMode) (a b : Num) : Nat × IFl :=
  if a.isNan || b.isNan then (f.nanBits, nvIf (a.sig || b.sig))
  else f.roundTo md (if a.below b then b else a)

/-! Conversions (R74). -/

/-- A value into a float format: a signalling NaN raises invalid. -/
def toFloat (f : FFmt) (md : RMode) (x : Num) : Nat × IFl :=
  let (r, g) := f.roundTo md x
  (r, g ||| nvIf x.sig)

/-- The operand of a format in a register: its low bits (R134). -/
def FFmt.opnd (f : FFmt) (w : Word) : Num := f.val w.toNat

/-- The code with its sign bit clear (R134). -/
def FFmt.absBits (f : FFmt) (x : Nat) : Nat := x % f.signW
/-- The code with its sign bit inverted (R134). -/
def FFmt.negBits (f : FFmt) (x : Nat) : Nat :=
  let y := x % 2 ^ f.width
  if y < f.signW then y + f.signW else y - f.signW

/-- The value of a register as a source type of FCVT (R136). -/
def ETy.srcVal (t : ETy) (w : Word) : Num :=
  match t with
  | .fl f => f.opnd w
  | .i64 => Num.ofInt w.toInt
  | .i32 => Num.ofInt (BitVec.setWidth 32 w).toInt
  | .np | .raw => .nan false

end Sys2Proof
end

