-- ==== Sys2Proof/Machine/FloatOps.lean ====
section
/-! DEFINITION. Scalar floating point, MAJ 0x05 (R134-R136). -/

namespace Sys2Proof.Machine

/-- `op.t Wd, Wa, Wb`: one rounding under RMODE at issue; the result zero-extended (R134). -/
def flt3 (g : FFmt → RMode → Num → Num → Nat × IFl) (t : FFmt) (d a b : WReg) : M Unit := do
  chk [(0, d), (1, a), (2, b)]
  let x ← rd a
  let y ← rd b
  needDst d
  let p ← th
  let (r, f) := g t p.rmode (t.opnd x) (t.opnd y)
  wr d (wordOf r)
  raise f
  fin 8

def execFadd (t : FFmt) (d a b : WReg) (s : State) : Out := run (flt3 fAdd t d a b) s
def execFsub (t : FFmt) (d a b : WReg) (s : State) : Out := run (flt3 fSub t d a b) s
def execFmul (t : FFmt) (d a b : WReg) (s : State) : Out := run (flt3 fMul t d a b) s
def execFdiv (t : FFmt) (d a b : WReg) (s : State) : Out := run (flt3 fDiv t d a b) s
def execFmin (t : FFmt) (d a b : WReg) (s : State) : Out := run (flt3 fMin t d a b) s
def execFmax (t : FFmt) (d a b : WReg) (s : State) : Out := run (flt3 fMax t d a b) s

/-- FSQRT (R134). -/
def execFsqrt (t : FFmt) (d a : WReg) (s : State) : Out := run (do
  chk [(0, d), (1, a)]
  let x ← rd a
  needDst d
  let p ← th
  let (r, f) := fSqrt t p.rmode (t.opnd x)
  wr d (wordOf r)
  raise f
  fin 8) s

/-- FMA: D is read and written (R134). -/
def execFma (t : FFmt) (d a b : WReg) (s : State) : Out := run (do
  chk [(0, d), (1, a), (2, b)]
  let x ← rd a
  let y ← rd b
  let z ← rd d
  let p ← th
  let (r, f) := fFma t p.rmode (t.opnd x) (t.opnd y) (t.opnd z)
  wr d (wordOf r)
  raise f
  fin 8) s

/-- FCMP (R135). -/
def execFcmp (t : FFmt) (a b : WReg) (s : State) : Out := run (do
  chk [(1, a), (2, b)]
  let x ← rd a
  let y ← rd b
  let u := t.opnd x
  let v := t.opnd y
  setFlags (u.rel v).flags
  raise (nvIf (u.sig || v.sig))
  fin 8) s

def execFabs (t : FFmt) (d a : WReg) (s : State) : Out := run (do
  chk [(0, d), (1, a)]
  let x ← rd a
  needDst d
  wr d (wordOf (t.absBits x.toNat))
  fin 8) s

def execFneg (t : FFmt) (d a : WReg) (s : State) : Out := run (do
  chk [(0, d), (1, a)]
  let x ← rd a
  needDst d
  wr d (wordOf (t.negBits x.toNat))
  fin 8) s

/-- FCVT's result word and flags (R74, R136): equal float types move a value that is not a NaN unchanged. -/
def cvtVal (dst src : ETy) (md : RMode) (w : Word) : Word × IFl :=
  match dst with
  | .fl f =>
    let x := src.srcVal w
    if src = .fl f && !x.isNan then (wordOf (w.toNat % 2 ^ f.width), 0)
    else
      let (r, g) := toFloat f md x
      (wordOf r, g)
  | .i64 =>
    if src = .i64 then (w, 0)
    else
      let (v, g) := toIntN 64 md (src.srcVal w)
      (BitVec.ofInt 64 v, g)
  | .i32 =>
    let (v, g) := toIntN 32 md (src.srcVal w)
    (BitVec.ofInt 64 v, g)
  | .np | .raw => (0, 0)

/-- FCVT (R136). -/
def execFcvt (dst src : ETy) (d a : WReg) (s : State) : Out := run (do
  chk [(0, d), (1, a)]
  let x ← rd a
  needDst d
  let p ← th
  let (v, f) := cvtVal dst src p.rmode x
  wr d v
  raise f
  fin 8) s

end Sys2Proof.Machine
end

