-- ==== Sys2Proof/Machine/Addr.lean ====
section
/-! DEFINITION. From an effective address to a location: the physical map (R53-R57), tenants (R299, R309, R310), page tables and their checks (R301-R305), cached translations (R306), and the order of checks of an access (R148, R375). -/

namespace Sys2Proof.Machine

/-- What a location is (R53, R88). -/
inductive Place
  /-- window offset of a core's SRAM -/
  | sram (c off : Nat)
  /-- pseudo-channel of an HBM byte -/
  | hbm (p : Nat)
  | cxl
  /-- offset in device register space -/
  | dev (off : Nat)
  /-- another module's byte -/
  | remote (m lpa : Nat)
  | none
  deriving DecidableEq, Repr

/-- What an access does (R305). -/
inductive Acc
  | read | write | rmw
  /-- an atomic that writes nothing -/
  | ald
  | fetch
  deriving DecidableEq, Repr

/-- The ACC code (R305). -/
def Acc.code : Acc → Nat
  | .read => 0 | .write => 1 | .rmw | .ald => 2 | .fetch => 3

/-- Whether an access writes its bytes. -/
def Acc.writes : Acc → Bool
  | .write | .rmw => true
  | .read | .ald | .fetch => false

/-- The channel-direct address of a local address: the interleaved view of HBM names the same bytes (R55). -/
def directOf (a : Nat) : Nat :=
  if a < Config.hbmBytes then
    let g := a / 4096
    Config.directBase + g % 1536 * Config.channelBytes + g / 1536 * 4096 + a % 4096
  else a

/-- The key of a physical address: one number for each location, whichever view names it (R54, R55). -/
def keyOf (modid pa : Nat) : Nat :=
  if pa < 2 ^ 55 then directOf pa
  else if pa / 2 ^ 45 % 1024 = modid then directOf (pa % 2 ^ 45)
  else pa / 2 ^ 45 * 2 ^ 45 + directOf (pa % 2 ^ 45)

/-- The place of a local key (R53). -/
def placeOf (k : Nat) : Place :=
  if 2 ^ 55 ≤ k then .remote (k / 2 ^ 45 % 1024) (k % 2 ^ 45)
  else if k < Config.sramBase then .none
  else if k < Config.sramBase + Config.nAllCores * Config.windowBytes then
    .sram ((k - Config.sramBase) / Config.windowBytes) ((k - Config.sramBase) % Config.windowBytes)
  else if k < Config.devBase then .none
  else if k < Config.devBase + 2 ^ 32 then .dev (k - Config.devBase)
  else if k < Config.directBase then .none
  else if k < Config.directBase + Config.hbmBytes then .hbm ((k - Config.directBase) / Config.channelBytes)
  else if k < Config.cxlBase then .none
  else if k < Config.cxlBase + 2 ^ 42 then .cxl
  else .none

/-- The core at whose port or home port a location is ordered (R88), if it has one in this module. -/
def homeCore (k : Nat) : Option Nat :=
  match placeOf k with
  | .sram c _ => some c
  | .hbm p => some p
  | _ => none

/-- Whether the instance of a scope that holds core `c` covers a location (R29, R88). -/
def covers (sc : Scope) (c k : Nat) : Bool :=
  match placeOf k with
  | .remote _ _ => sc == .dom
  | .sram x _ | .hbm x =>
    match sc with
    | .thr => false
    | .core => x == c
    | .clu => x / 16 == c / 16 && (x == c || !isHub c)
    | .stk => x / 128 == c / 128 && (x == c || !isHub c)
    | .pkg | .dom => true
  | .cxl | .dev _ => sc == .pkg || sc == .dom
  | .none => false

/-- Start of the CXL memory of root port `p`, as an offset in the CXL range: a port whose link was down at packing takes no space
(R367). -/
def cxlStart (s : State) : Nat → Nat
  | 0 => 0
  | p + 1 => (cxlStart s p + (if tget false s.fab.cxlAbsent p then 0 else tget 0 s.fab.cxlSize p) + (2 ^ 30 - 1)) / 2 ^ 30 * 2 ^ 30

/-- Whether a root port that is up serves an offset of the CXL range (R53, R347). -/
def cxlServed (s : State) (o : Nat) : Bool :=
  (List.range 4).any (fun p => cxlStart s p ≤ o && o < cxlStart s p + tget 0 s.fab.cxlSize p && !tget false s.fab.cxlDown p && !tget false s.fab.cxlAbsent p)

/-- Whether a request for a location can be delivered: no link on the way has failed (R344). -/
def State.reach (s : State) (k : Nat) : Bool :=
  match placeOf k with
  | .remote m _ => !s.fab.unreach.contains m
  | _ => true

/-- The cause with which another module rejects a packet of a tenant at a location (R311, R375), if it does. -/
def State.remoteCause (s : State) (tenant k : Nat) : Option Nat :=
  match placeOf k with
  | .remote m lpa => (s.fab.refusing.find? (fun r => r.mod == m && r.tenant == tenant && r.lo ≤ lpa && lpa < r.hi)).map (fun r => r.cause)
  | _ => none

/-- Whether a part backs a location (R18, R53). A remote module has the same local map; the CXL memory fitted there is its own to
check (R311, R375). -/
def backed (s : State) (k : Nat) : Bool :=
  match placeOf k with
  | .sram c o => c < Config.nCores && o < 0x60000
  | .hbm _ | .dev _ => true
  | .cxl => cxlServed s (k - Config.cxlBase)
  | .remote _ lpa => (match placeOf lpa with
      | .sram c o => c < Config.nCores && o < 0x60000
      | .hbm _ | .dev _ | .cxl => true
      | .remote _ _ | .none => false)
  | .none => false

/-- The offset of a location in device register space, of this module or of another. -/
def devOff (k : Nat) : Option Nat :=
  match placeOf k with
  | .dev off => some off
  | .remote _ lpa => (match placeOf lpa with | .dev off => some off | _ => none)
  | _ => none

/-! Tenants. -/

/-- A word of a tenant slot (R299). -/
def State.ten (s : State) (slot w : Nat) : Word := tget 0 s.xl.tentab (8 * slot + w)

/-- V and ID of a tenant slot (R299). -/
def State.tenId (s : State) (slot : Nat) : Nat := if bit (s.ten slot 0) 0 then fld (s.ten slot 0) 16 16 else 0

/-- The lowest valid slot that holds an identifier (R299). -/
def State.tenSlot (s : State) (id : Nat) : Option Nat :=
  if id = 0 then none else (List.range 64).find? (fun k => s.tenId k == id)

/-- Whether a tenant slot's rectangles hold a cluster (R309). -/
def State.tenHas (s : State) (slot n : Nat) : Bool :=
  let w := s.ten slot (2 + n / 24)
  let i := n % 24
  n < Config.nClusters && bit w 10 && fld w 0 3 ≤ i % 6 && i % 6 ≤ fld w 3 3 && fld w 6 2 ≤ i / 6 && i / 6 ≤ fld w 8 2

/-- The tenant slot of a core whose TENANT is in force there (R299); none where every access is a tenant violation. -/
def State.slotOfCore (s : State) (c : Nat) : Option Nat :=
  match s.tenSlot (s.tenantOf c) with
  | some k => if s.tenHas k (cluOf c) then some k else none
  | none => none

/-- Whether a core lies in the clusters of the tenant of core `c` (R57, R168); a hub core has no tenant. -/
def State.sameTenant (s : State) (c x : Nat) : Bool :=
  isHub c || (match s.slotOfCore c with | some k => s.tenHas k (cluOf x) | none => false)

/-- Whether the router of cluster `n` admits packets of core `c`'s tenant slot (R310). -/
def State.routed (s : State) (c n : Nat) : Bool :=
  isHub c || n == cluOf c || (match s.tenSlot (s.tenantOf c) with | some k => bit (s.clu n).rmemb k | none => false)

/-- Whether a module lies in the Volzor Link partition of core `c`'s tenant (R54). -/
def State.inPartition (s : State) (c m : Nat) : Bool :=
  isHub c || (match s.slotOfCore c with | some k => fld (s.ten k 6) 0 10 ≤ m && m ≤ fld (s.ten k 6) 16 10 | none => false)

/-! Page tables. -/

/-- Bits of the page a leaf of a level maps (R301). -/
def pageBits (lv : Nat) : Nat :=
  match lv with
  | 2 => 30
  | 3 => 21
  | _ => 16

/-- The index of a level (R301). -/
def tableIndex (lv va : Nat) : Nat :=
  match lv with
  | 0 => va / 2 ^ 48 % 256
  | 1 => va / 2 ^ 39 % 512
  | 2 => va / 2 ^ 30 % 512
  | 3 => va / 2 ^ 21 % 512
  | _ => va / 2 ^ 16 % 32

/-- ADDR of a table entry as a physical address (R302). -/
def entryAddr (e : Word) : Nat := fld e 8 48 * 256

/-- Whether a physical address lies in local HBM, in either view (R301). -/
def localHbm (a : Nat) : Bool := a < Config.hbmBytes || (Config.directBase ≤ a && a < Config.directBase + Config.hbmBytes)

/-- Whether an entry found at level `lv` breaks the rules of R303, REASON 2. (DEDUCED, log 78.) -/
def badEntry (e : Word) (lv : Nat) : Bool :=
  let leaf := bit e 1
  fld e 56 8 != 0
  || (!leaf && fld e 2 6 != 0)
  || (leaf && lv < 2) || (!leaf && lv == 4)
  || (if leaf then entryAddr e % 2 ^ pageBits lv != 0
      else entryAddr e % (if lv = 3 then 256 else 4096) != 0 || !localHbm (entryAddr e))

/-- A walk from table `t` over `n` further levels from level `lv` (R303): REASON and level, or the leaf and its level. A poisoned
table line is not returned as good (R153, R337): REASON 0. -/
def walkFrom (s : State) (va : Nat) : Nat → Nat → Nat → Except (Nat × Nat) (Word × Nat)
  | 0, _, lv => .error (2, lv)
  | n + 1, t, lv =>
    let k := keyOf s.modid (t + 8 * tableIndex lv va)
    let e := s.w64 k
    if s.poison.contains (k / 64) then .error (0, lv)
    else if !bit e 0 then .error (1, lv)
    else if badEntry e lv then .error (2, lv)
    else if bit e 1 then .ok (e, lv)
    else walkFrom s va n (entryAddr e) (lv + 1)

/-- ROOT of a tenant slot as an address (R299). -/
def State.root (s : State) (slot : Nat) : Nat := fld (s.ten slot 1) 11 45 * 2 ^ 11

/-- The walk of a virtual address in a tenant slot's context (R303). -/
def walk (s : State) (slot va : Nat) : Except (Nat × Nat) (Word × Nat) := walkFrom s va 5 (s.root slot) 0

/-! The walk cache of a die (R306). -/

/-- The lowest address bit that an entry of a level depends on (R301). -/
def levelShift (lv : Nat) : Nat :=
  match lv with
  | 0 => 48
  | 1 => 39
  | 2 => 30
  | 3 => 21
  | _ => 16

/-- The non-leaf entries that a walk passes from table `t` at level `lv`. -/
def walkPath (s : State) (id va : Nat) : Nat → Nat → Nat → List WalkEnt
  | 0, _, _ => []
  | n + 1, t, lv =>
    let e := s.w64 (keyOf s.modid (t + 8 * tableIndex lv va))
    if !bit e 0 || badEntry e lv || bit e 1 then []
    else ⟨id, lv, va / 2 ^ levelShift lv, entryAddr e⟩ :: walkPath s id va n (entryAddr e) (lv + 1)

/-- Where a walk of a die starts: below the deepest entry its walk cache holds, or at the root. -/
def walkStart (s : State) (die id slot va : Nat) : Nat × Nat :=
  let l := tget [] s.xl.wcache die
  match [3, 2, 1, 0].findSome? (fun lv => l.find? (fun x => x.tenant == id && x.lv == lv && x.page == va / 2 ^ levelShift lv)) with
  | some x => (x.next, x.lv + 1)
  | none => (s.root slot, 0)

/-- A walk made by a walker of a die for a tenant (R303, R306). -/
def dieWalk (s : State) (die id slot va : Nat) : Except (Nat × Nat) (Word × Nat) :=
  let p := walkStart s die id slot va
  walkFrom s va (5 - p.2) p.1 p.2

/-- A die's walk cache after a walk that found its leaf: at most 512 non-leaf entries, the oldest leaves (log 14). -/
def noteWalk (s : State) (die id slot va : Nat) : State :=
  let p := walkStart s die id slot va
  let new := walkPath s id va (5 - p.2) p.1 p.2
  if new.isEmpty then s
  else { s with xl := { s.xl with wcache := tins s.xl.wcache die ((new ++ tget [] s.xl.wcache die).take 512) } }

/-- TRAPINFO of a translation failure (R305). -/
def xlInfo (va : Nat) (lv : Nat) (acc : Acc) (reason : Nat) : Word :=
  wordOf (va / 64 % 2 ^ 51 * 2 ^ 13 + lv * 2 ^ 10 + acc.code * 2 ^ 8 + reason * 16)

/-- A translation's outcome: a physical address with its leaf, or a cause with TRAPINFO and REASON. -/
inductive Xl
  | ok (pa : Nat) (leaf : Word)
  | bad (cause : Nat) (info : Word) (reason : Nat)

/-- The flag checks of R304, in their order; `esc` for the escrow engine. -/
def flagCheck (e : Word) (lv va : Nat) (user esc : Bool) (acc : Acc) : Xl :=
  if user && !bit e 5 then .bad 0x07 (xlInfo va lv acc 4) 4
  else if bit e 6 && !esc then .bad 0x07 (xlInfo va lv acc 5) 5
  else
    let ok := match acc with
      | .read => bit e 2
      | .write => bit e 3
      | .rmw | .ald => bit e 2 && bit e 3
      | .fetch => bit e 4
    if !ok then .bad 0x07 (xlInfo va lv acc 3) 3
    else .ok (entryAddr e + va % 2 ^ pageBits lv) e

/-- A cached translation of a page (R306). -/
def tlbFind (l : List TlbEnt) (tenant va : Nat) : Option TlbEnt :=
  l.find? (fun x => x.tenant == tenant && x.page == va / 2 ^ pageBits x.lv)

/-- Adds a translation, keeping at most `cap`; the oldest leaves (log 14). -/
def tlbAdd (l : List TlbEnt) (cap : Nat) (x : TlbEnt) : List TlbEnt := (x :: l).take cap

/-- The leaf of a virtual address for core `c`: from its TLB, its cluster's TLB, or a walk, which both then hold
(R303, R306). -/
def leafOf (s : State) (c slot va : Nat) : Except (Nat × Nat) (Word × Nat) × State :=
  let id := s.tenantOf c
  match tlbFind (s.core c).tlb id va with
  | some x => (.ok (x.entry, x.lv), s)
  | none =>
    match tlbFind (s.clu (cluOf c)).tlb id va with
    | some x => (.ok (x.entry, x.lv), s.setCore c { s.core c with tlb := tlbAdd (s.core c).tlb 64 x })
    | none =>
      match dieWalk s (cluOf c / 24) id slot va with
      | .error r => (.error r, s)
      | .ok (e, lv) =>
        let x : TlbEnt := ⟨id, va / 2 ^ pageBits lv, lv, e⟩
        let s0 := noteWalk s (cluOf c / 24) id slot va
        let s1 := s0.setCore c { s0.core c with tlb := tlbAdd (s0.core c).tlb 64 x }
        (.ok (e, lv), s1.setClu (cluOf c) { s1.clu (cluOf c) with tlb := tlbAdd (s1.clu (cluOf c)).tlb 4096 x })

/-- The translation that a cluster's TLB or a walk of its die gives work of the cluster (R306), and the state in which the TLB and
the die's walk cache hold it. -/
def cluLeaf (s : State) (n id slot va : Nat) : Except (Nat × Nat) (Word × Nat) :=
  match tlbFind (s.clu n).tlb id va with
  | some x => .ok (x.entry, x.lv)
  | none => dieWalk s (n / 24) id slot va

def noteLeaf (s : State) (n id slot va : Nat) : State :=
  match tlbFind (s.clu n).tlb id va with
  | some _ => s
  | none =>
    match dieWalk s (n / 24) id slot va with
    | .error _ => s
    | .ok (e, lv) =>
      let s1 := noteWalk s (n / 24) id slot va
      s1.setClu n { s1.clu n with tlb := tlbAdd (s1.clu n).tlb 4096 ⟨id, va / 2 ^ pageBits lv, lv, e⟩ }

/-- Translates a virtual address with bit 56 clear for core `c` (R303, R304). -/
def translate (s : State) (c slot va : Nat) (user esc : Bool) (acc : Acc) : Xl × State :=
  match leafOf s c slot va with
  | (.error (0, _), s1) => (.bad 0x09 (wordOf va) 0, s1)
  | (.error (r, lv), s1) => (.bad 0x06 (xlInfo va lv acc r) r, s1)
  | (.ok (e, lv), s1) => (flagCheck e lv va user esc acc, s1)

/-! The checks of an access (R148, R375). -/

/-- Whether the parts of a window that rules keep from a party refuse an access of `n` bytes at offset `o` of core `x`
(R18, R19, R58, R169): `c`, `sl` and `kernel` say who asks. (DEDUCED, log 19.) (DEDUCED, log 21.) -/
def windowRefuses (s : State) (c sl : Nat) (kernel : Bool) (x o n : Nat) (acc : Acc) : Bool :=
  if 0x60000 ≤ o then true
  else if 0x5C000 ≤ o then !(kernel || isHub c)
  else if o < 0x800 then
    let own := x == c && o / 128 == sl
    let mstHit := acc.writes && o % 128 < 16 && 8 < o % 128 + n
    (!own && !kernel) || mstHit
  else if o < 0x1000 then
    !(kernel && x == c && s.kernelOff c sl ≤ o && o < s.kernelOff c sl + 8 * s.nregs c)
  else false

/-- The window of a location in SRAM of this module or of another: a core number, which for another module is past every core
here, and the offset. -/
def windowOf (k : Nat) : Option (Nat × Nat) :=
  match placeOf k with
  | .sram x o => some (x, o)
  | .remote _ lpa => (match placeOf lpa with | .sram x o => some (x + Config.nAllCores, o) | _ => none)
  | _ => none

/-- The checks of a physical address for core `c` and slot `sl` in a mode: the partition (R54), what backs it (R53), and the parts of
a window (R19, R58): its key, or a cause with TRAPINFO. -/
def placeCheck (s : State) (c sl : Nat) (kernel : Bool) (acc : Acc) (ea : Word) (pa n : Nat) : Except (Nat × Word) Nat :=
  let k := keyOf s.modid pa
  let outside := match placeOf k with | .remote m _ => !s.inPartition c m | _ => false
  if outside then .error (0x08, ea)
  else if !backed s k then .error (0x07, ea)
  else
    match windowOf k with
    | some (x, o) => if windowRefuses s c sl kernel x o n acc then .error (0x07, ea) else .ok k
    | none => .ok k

/-- The window range of a virtual address with bit 56 set (R51, R57), for core `c` and slot `sl` in a mode. -/
def flatCheck (s : State) (c sl : Nat) (kernel : Bool) (acc : Acc) (ea : Word) (n : Nat) : Except (Nat × Word) Nat :=
  let va := ea.toNat
  if va < Config.flatBase || Config.flatBase + Config.nCores * Config.windowBytes ≤ va then .error (0x07, ea)
  else
    let x := (va - Config.flatBase) / Config.windowBytes
    let o := (va - Config.flatBase) % Config.windowBytes
    if !s.sameTenant c x then .error (0x08, ea)
    else if windowRefuses s c sl kernel x o n acc then .error (0x07, ea)
    else .ok (winKey x o)

/-- Where an address leads, for core `c` and slot `sl` in a mode (R51, R54, R57, R148, R299, R375): a key, or a cause
with TRAPINFO. `n` is the access size. The general range of a hub core is mapped one to one. (DESIGN CHOICE, log 7.) -/
def resolve (s : State) (c sl : Nat) (kernel esc : Bool) (acc : Acc) (ea : Word) (n : Nat) : Except (Nat × Word) Nat × State :=
  if isHub c then
    (if ea.toNat / 2 ^ 56 % 2 = 1 then flatCheck s c sl kernel acc ea n else placeCheck s c sl kernel acc ea (ea.toNat % 2 ^ 56) n, s)
  else
    match s.slotOfCore c with
    | none => (.error (0x08, ea), s)
    | some slot =>
      if ea.toNat / 2 ^ 56 % 2 = 1 then (flatCheck s c sl kernel acc ea n, s)
      else
        match translate s c slot ea.toNat (!kernel) esc acc with
        | (.bad cause info _, s1) => (.error (cause, info), s1)
        | (.ok pa _, s1) => (placeCheck s1 c sl kernel acc ea pa n, s1)

/-- The physical address of an address whose checks have passed for core `c` (R53, R57, R303), and the level of its leaf; 4 where
none maps it. -/
def physOf (s : State) (c : Nat) (ea : Word) : Nat × Nat :=
  let va := ea.toNat
  if va / 2 ^ 56 % 2 = 1 then (winKey 0 (va - Config.flatBase), 4)
  else if isHub c then (va % 2 ^ 56, 4)
  else
    match s.slotOfCore c with
    | none => (va, 4)
    | some slot =>
      match (leafOf s c slot va).1 with
      | .ok (e, lv) => (entryAddr e + va % 2 ^ pageBits lv, lv)
      | .error _ => (va, 4)

/-- The line of a key. -/
def lineOf (k : Nat) : Nat := k / 64

/-- Whether a line is poisoned (R153). -/
def State.poisoned (s : State) (line : Nat) : Bool := s.poison.contains line

/-- Marks lines poisoned, keeping the list sorted and free of repeats. -/
def addPoison : List Nat → Nat → List Nat
  | [], x => [x]
  | y :: l, x => if x = y then y :: l else if x < y then x :: y :: l else y :: addPoison l x

/-- Clears the poison of a line (R153, R338). -/
def State.clearPoison (s : State) (line : Nat) : State := { s with poison := s.poison.filter (fun x => x != line) }

/-- Writes bytes at a key as one engine operation: every aligned line written whole loses its poison (R153, R338). -/
def State.writeClear (s : State) (k : Nat) (bs : List Byte) : State :=
  let lo := (k + 63) / 64
  let hi := (k + bs.length) / 64
  { s with mem := setBytes s.mem k bs, poison := s.poison.filter (fun x => !(lo ≤ x && x < hi)) }

/-- Checks an access of the issuing thread and finds its location: canonical form, alignment, then the rest (R148). -/
def locate (acc : Acc) (ea : Word) (n align : Nat) : M Nat := do
  need (canonical ea) 0x07 ea
  need (ea.toNat % align = 0) 0x05 ea
  let (c, sl) ← me
  let t ← th
  let r ← step1 (fun s => resolve s c sl t.kernel false acc ea n)
  match r with
  | .ok k => pure k
  | .error (cause, info) => trap cause info

/-- A read, atomic or barrier form on a poisoned line takes the poison fault (R148, R153). -/
def poisonCheck (k : Nat) (ea : Word) : M Unit := do
  let p ← ask (fun s => s.poisoned (lineOf k))
  need (!p) 0x09 ea

end Sys2Proof.Machine
end

