-- ==== Sys2Proof/Machine/Perform.lean ====
section
/-! DEFINITION. What is performed at ordering points by anyone: writes and the wait slots they are seen by (R89, R327), engine addresses (R304, R307), engine faults (R286), the engine-fault ring (R307), the Treasury event ring (R333), completions (R40) and the capture counts of the Purse (R248-R250). -/

namespace Sys2Proof.Machine

/-! Wait slots and writes. -/

/-- The condition of a WAIT (R320): 0 EQ, 1 NE, 2 LT, 3 GE, signed. -/
def waitCond (cond : Nat) (v ref : Word) : Bool :=
  match cond with
  | 0 => v == ref
  | 1 => v != ref
  | 2 => decide (v.toInt < ref.toInt)
  | _ => decide (ref.toInt ≤ v.toInt)

/-- The slot's condition evaluated at its signal, which is written or registered now (R327). (DEDUCED, log 71.) -/
def evalSlot (s : State) (w : WaitSlot) : WaitSlot :=
  { w with last := s.time, done := w.done || waitCond w.cond (s.w64 w.key) w.value }

/-- A queue, which counts as configured at reset until written. -/
def State.queue (s : State) (q : Nat) : Queue := tget (Queue.reset q) s.tr.queues q

/-- Replaces a queue. -/
def State.setQueue (s : State) (q : Nat) (x : Queue) : State :=
  { s with tr := { s.tr with queues := if x = Queue.reset q then tdel s.tr.queues q else tins s.tr.queues q x } }

/-- A word of a queue's fetched packet. -/
def Queue.word (x : Queue) (i : Nat) : Word := x.pkt.getD i 0

/-- TYPE of the fetched packet (R319). -/
def Queue.type (x : Queue) : Nat := fld (x.word 0) 0 8

/-- The signals a WAIT or ANDBAR names, with condition and value (R320). -/
def Queue.signals (x : Queue) : List (Word × Nat × Word) :=
  if x.type = 5 then [(x.word 1, fld (x.word 3) 0 2, x.word 2)]
  else if x.type = 6 then ((x.pkt.drop 1).take 14).filterMap (fun a => if a = 0 then none else some (a, 0, 0))
  else []

/-- Ring slots of the fetched packet. -/
def Queue.slotsOf (x : Queue) : Nat := if bit (x.word 0) 8 then 2 else 1

/-- QHEAD passes the fetched packet. -/
def Queue.advance (x : Queue) : Queue := { x with head := (x.head + x.slotsOf) % 2 ^ 32, pkt := [] }

/-- A blocked queue whose slots are all satisfied completes its packet, which QHEAD has passed at its start (R320, R327), also while it is
suspended (R372) or is to be destroyed (R332). -/
def settleQueue (s : State) (q : Nat) : State :=
  let x := s.queue q
  let mine := s.tr.slots.filter (fun w => w.q == q)
  if x.wasBlocked && mine.all (fun w => w.done) && (x.state == 2 || x.state == 1 || x.state == 3 || x.state == 5) then
    let s1 := s.setQueue q { x with pkt := [], wasBlocked := false, state := if x.state == 2 then 1 else x.state, readyAt := s.time, live := x.live - 1, dlDone := false }
    { s1 with tr := { s1.tr with slots := s1.tr.slots.filter (fun w => w.q != q) } }
  else s

/-- Wait slots see a write to `n` bytes at key `k` (R327); an entry of the software list is not evaluated by it (R328), but no write
has then been missing at its signal (R329). -/
def seen (s : State) (k n : Nat) : State :=
  if s.tr.slots.isEmpty then s
  else
    let on (w : WaitSlot) : Bool := w.reg && decide (w.key < k + n ∧ k < w.key + 8)
    let hit (w : WaitSlot) : Bool := on w && !w.onList
    let s1 := { s with tr := { s.tr with slots := s.tr.slots.map (fun w =>
      if hit w then evalSlot s w else if on w then { w with last := s.time } else w) } }
    (s.tr.slots.filter hit).foldl (fun s w => settleQueue s w.q) s1

/-- Performs a write at its ordering point (R89). -/
def State.put (s : State) (k : Nat) (bs : List Byte) : State := seen { s with mem := setBytes s.mem k bs } k bs.length

/-- Performs a write of `n` bytes. -/
def State.putNat (s : State) (k n v : Nat) : State := s.put k (leBytes n v)

/-- Performs a write of an engine, which clears the poison of every line it writes whole (R153, R338). -/
def State.putClear (s : State) (k : Nat) (bs : List Byte) : State := seen (s.writeClear k bs) k bs.length

/-- Whether any line of `n` bytes from key `k` is poisoned. -/
def State.poisonedIn (s : State) (k n : Nat) : Bool := s.poison.any (fun l => k / 64 ≤ l && l ≤ (k + n - 1) / 64)

/-! Engine addresses. -/

/-- For whom an engine acts: the mode, the thread's core and slot where its own shadow frame is in reach (R58), and whether ESC does
not bind it (R304). -/
structure EngWho where
  kernel : Bool
  own : Option (Nat × Nat)
  esc : Bool
  deriving DecidableEq, Repr

/-- The offsets of window `x` that an engine may not reach by address (R18, R19, R58, R169): all that is not backed, the Purse, the
kernel frames, the shadow frames of threads other than its own unless it acts in kernel mode, and a write of MST. (DEDUCED, log 70.) -/
def engRefuses (w : EngWho) (acc : Acc) (x o : Nat) : Bool :=
  if 0x5C000 ≤ o then true
  else if o < 0x800 then (!w.kernel && w.own != some (x, o / 128)) || (acc.writes && 8 ≤ o % 128 && o % 128 < 16)
  else o < 0x1000

/-- Whether a module lies in the partition of a tenant slot (R54). -/
def State.slotReaches (s : State) (slot m : Nat) : Bool := fld (s.ten slot 6) 0 10 ≤ m && m ≤ fld (s.ten slot 6) 16 10

/-- The checks of a physical address for engine work of a tenant slot (R53, R54, R375): its key, or cause, TRAPINFO and REASON. -/
def engPlace (s : State) (slot : Nat) (w : EngWho) (acc : Acc) (ea : Word) (pa : Nat) : Except (Nat × Word × Nat) Nat :=
  let k := keyOf s.modid pa
  let outside := match placeOf k with | .remote m _ => !s.slotReaches slot m | _ => false
  let shut := match windowOf k with | some (x, o) => engRefuses w acc x o | none => false
  if outside then .error (0x08, ea, 0)
  else if !backed s k || (devOff k).isSome || shut then .error (0x07, ea, 0)
  else if !s.reach k then .error (0x09, ea, 0)
  else
    match s.remoteCause (s.tenId slot) k with
    | some cause => .error (cause, ea, 0)
    | none => .ok k

/-- Where an address leads for engine work of a tenant slot (R51, R57, R304, R307), given how its leaf is found. -/
def resolveWith (leaf : Nat → Except (Nat × Nat) (Word × Nat)) (s : State) (slot : Nat) (w : EngWho) (acc : Acc) (ea : Word) :
    Except (Nat × Word × Nat) Nat :=
  let va := ea.toNat
  if !canonical ea then .error (0x07, ea, 0)
  else if va / 2 ^ 56 % 2 = 1 then
    if va < Config.flatBase || Config.flatBase + Config.nCores * Config.windowBytes ≤ va then .error (0x07, ea, 0)
    else
      let x := (va - Config.flatBase) / Config.windowBytes
      let o := (va - Config.flatBase) % Config.windowBytes
      if !s.tenHas slot (cluOf x) then .error (0x08, ea, 0)
      else if engRefuses w acc x o then .error (0x07, ea, 0)
      else .ok (winKey x o)
  else
    match leaf va with
    | .error (0, _) => .error (0x09, ea, 0)
    | .error (r, lv) => .error (0x06, xlInfo va lv acc r, r)
    | .ok (e, lv) =>
      match flagCheck e lv va (!w.kernel) w.esc acc with
      | .bad cause info r => .error (cause, info, r)
      | .ok pa _ => engPlace s slot w acc ea pa

/-- Where an address leads in a tenant slot's context, for an engine in a mode that no TLB serves (R306). -/
def resolveTen (s : State) (slot : Nat) (kernel esc : Bool) (acc : Acc) (ea : Word) : Except (Nat × Word × Nat) Nat :=
  resolveWith (walk s slot) s slot ⟨kernel, none, esc⟩ acc ea

/-- Where an address leads for the Treasury or the host, whose requests come from no cluster: the router of a window's cluster must
admit the tenant slot (R310). -/
def resolveOut (s : State) (slot : Nat) (acc : Acc) (ea : Word) : Except (Nat × Word × Nat) Nat :=
  match resolveTen s slot false false acc ea with
  | .error e => .error e
  | .ok k =>
    match placeOf k with
    | .sram c _ => if bit (s.clu (cluOf c)).rmemb slot then .ok k else .error (0x08, ea, 0)
    | _ => .ok k

/-- The same for an engine that acts for a tenant identifier (R299); without a slot every access is a tenant violation. -/
def resolveEng (s : State) (tenant : Nat) (kernel : Bool) (acc : Acc) (ea : Word) : Except (Nat × Word × Nat) Nat :=
  match s.tenSlot tenant with
  | some slot => resolveTen s slot kernel false acc ea
  | none => .error (0x08, ea, 0)

/-- Bytes from an address to the next boundary that neither the interleaved view of HBM (R55) nor the parts of a window (R18, R58,
R169) run on across: 2 KiB, and in the lowest 2 KiB of 64 KiB, where shadow frames stand, each frame and its MST. -/
def pieceLen (ea : Word) (n : Nat) : Nat :=
  let o := ea.toNat % 128
  if ea.toNat % 65536 < 2048 then min n (if o < 8 then 8 - o else if o < 16 then 16 - o else 128 - o)
  else min n (2048 - ea.toNat % 2048)

/-- Pieces that `n` bytes need at most. -/
def pieceFuel (n : Nat) : Nat := n / 32 + 3

/-- A piece before others, joined to the first where its bytes run on. -/
def joinPiece (k n : Nat) : List (Nat × Nat) → List (Nat × Nat)
  | [] => [(k, n)]
  | (j, m) :: l => if j = k + n then (k, n + m) :: l else (k, n) :: (j, m) :: l

/-- Resolves `n` bytes from an address, in order, to pieces. -/
def resolvePieces (f : Word → Except (Nat × Word × Nat) Nat) : Nat → Word → Nat → Except (Nat × Word × Nat) (List (Nat × Nat))
  | 0, _, _ => .ok []
  | fuel + 1, ea, n =>
    if n = 0 then .ok []
    else
      let len := pieceLen ea n
      match f ea with
      | .error e => .error e
      | .ok k =>
        match resolvePieces f fuel (ea + wordOf len) (n - len) with
        | .error e => .error e
        | .ok l => .ok (joinPiece k len l)

/-- The bytes of pieces. -/
def piecesBytes (s : State) : List (Nat × Nat) → List Byte
  | [] => []
  | (k, n) :: l => bytesAt s.mem k n ++ piecesBytes s l

/-- A read of `n` bytes, with its poison check (R153). -/
def readBy (s : State) (f : Word → Except (Nat × Word × Nat) Nat) (ea : Word) (n : Nat) : Except (Nat × Word × Nat) (List Byte) :=
  match resolvePieces f (pieceFuel n) ea n with
  | .error e => .error e
  | .ok ps =>
    match ps.find? (fun p => s.poisonedIn p.1 p.2) with
    | some _ => .error (0x09, ea, 0)
    | none => .ok (piecesBytes s ps)

/-- An engine's read for a tenant in a mode. -/
def engRead (s : State) (tenant : Nat) (kernel : Bool) (ea : Word) (n : Nat) : Except (Nat × Word × Nat) (List Byte) :=
  readBy s (resolveEng s tenant kernel .read) ea n

/-- Performs an engine's write over pieces. -/
def putPieces (s : State) : List (Nat × Nat) → List Byte → State
  | [], _ => s
  | (k, n) :: l, bs => putPieces (s.putClear k (bs.take n)) l (bs.drop n)

/-- A write of bytes from an address: all of it, or none. -/
def writeBy (s : State) (f : Word → Except (Nat × Word × Nat) Nat) (ea : Word) (bs : List Byte) : Except (Nat × Word × Nat) State :=
  match resolvePieces f (pieceFuel bs.length) ea bs.length with
  | .error e => .error e
  | .ok ps => .ok (putPieces s ps bs)

/-- An engine's write for a tenant in a mode. -/
def engWrite (s : State) (tenant : Nat) (kernel : Bool) (ea : Word) (bs : List Byte) : Except (Nat × Word × Nat) State :=
  writeBy s (resolveEng s tenant kernel .write) ea bs

/-- On whose behalf an engine acts: the tenant, the mode, and the thread's core and slot; the escrow engine passes ESC (R304). -/
structure EngCtx where
  tenant : Nat
  kernel : Bool
  core : Nat
  slot : Nat
  esc : Bool := false
  deriving DecidableEq, Repr

/-- The cluster an engine stands in. -/
def EngCtx.clu (x : EngCtx) : Nat := cluOf x.core

/-- Whether the router of a cluster admits an engine's access to a location (R310). -/
def engRouted (s : State) (x : EngCtx) (k : Nat) : Bool :=
  match placeOf k with
  | .sram c _ => cluOf c == x.clu || (match s.tenSlot x.tenant with | some t => bit (s.clu (cluOf c)).rmemb t | none => false)
  | _ => true

/-- Where an address leads for an engine, through its cluster's TLB (R306): a key, or cause, TRAPINFO and REASON. -/
def resolveFrom (s : State) (x : EngCtx) (acc : Acc) (ea : Word) : Except (Nat × Word × Nat) Nat :=
  match s.tenSlot x.tenant with
  | none => .error (0x08, ea, 0)
  | some slot =>
    match resolveWith (cluLeaf s x.clu x.tenant slot) s slot ⟨x.kernel, some (x.core, x.slot), x.esc⟩ acc ea with
    | .ok k => if engRouted s x k then .ok k else .error (0x08, ea, 0)
    | .error e => .error e

/-- The translations of addresses that an engine has used stand in its cluster's TLB (R306). -/
def noteUsed (s : State) (x : EngCtx) (eas : List Word) : State :=
  match s.tenSlot x.tenant with
  | none => s
  | some slot => eas.foldl (fun s ea => if canonical ea && ea.toNat / 2 ^ 56 % 2 = 0 then noteLeaf s x.clu x.tenant slot ea.toNat else s) s

/-- Walks of a die that its walkers make or that wait in its queue (R306). -/
def dieWalks (s : State) (die : Nat) : Nat := (s.xl.walks.filter (fun w => cluOf w.core / 24 == die)).length

/-- Whether two misses are one walk (R306): their die, tenant and granule agree. -/
def Walk.same (w x : Walk) : Bool :=
  cluOf x.core / 24 == cluOf w.core / 24 && x.tenant == w.tenant && x.va.toNat / 65536 == w.va.toNat / 65536

/-- Queues a walk for engine work (R306): a miss that a queued walk serves waits for it; while the die's 64 walkers and its queue of
1,024 are full the work stalls. -/
def queueWalk (s : State) (w : Walk) : State :=
  if s.xl.walks.any w.same then { s with xl := { s.xl with merged := s.xl.merged ++ [w] } }
  else if 1088 ≤ dieWalks s (cluOf w.core / 24) then { s with xl := { s.xl with stalled := s.xl.stalled ++ [w] } }
  else { s with xl := { s.xl with walks := s.xl.walks ++ [w] } }

/-- Walks that stalled take the places that have become free, oldest first (R306). -/
def unstall (s : State) : State :=
  s.xl.stalled.foldl queueWalk { s with xl := { s.xl with stalled := [] } }

/-! Engine faults (R286) and the engine-fault ring (R307). -/

/-- Records an engine fault and reports it when ENG holds its cause (R285, R286, R355). `eng`: 1 copy, 2 array, 3 Mint,
4 escrow, 5 APPLY.A, 6 LAUNCH. -/
def engFault (s : State) (core slot : Nat) (tid : Word) (cause eng : Nat) (pay addr : Word) : State :=
  let s1 := snapCause (s.trace (cluOf core) 0x03 core slot cause eng pay addr) cause tid core slot
  if bit (s.core core).traprpt (32 + cause) then report s1 core tid pay (0xC000 + cause) else s1

/-- SRCE of a ring record (R307). -/
def EngRef.srce : EngRef → Nat
  | .copy _ => 1 | .array _ _ => 2 | .tile _ _ => 3 | .sweepEnd _ => 3

/-- The running command of a cluster's array, if a handle names it. -/
def State.arrRun (s : State) (n : Nat) (h : Word) : Option ArrRun :=
  match (s.clu n).arr with
  | some a => if a.cmd.h = h then some a else none
  | none => none

/-- Whether the work that a miss stands for still waits: an array command may have ended since by FCANCEL (R225, R226). -/
def State.waits (s : State) (r : EngRef) : Bool :=
  match r with
  | .array n h => (s.arrRun n h).isSome
  | _ => true

/-- Whether the ring takes no record (R307). -/
def efFull (s : State) : Bool := s.xl.efbase = 0 || (s.xl.eftail + 2 ^ 32 - s.xl.efhead) % 2 ^ 32 = 1024

/-- The page fault of engine work, met at `at_`, is posted to the ring, merged with an unanswered record of its tenant and granule,
or held at its engine (R307). -/
def postFault (s : State) (w : Walk) (reason : Nat) (at_ : Word) : State :=
  let hit (r : EfRec) : Bool := r.tenant == w.tenant && r.va.toNat / 65536 == w.va.toNat / 65536
  if s.xl.recs.any hit then
    { s with xl := { s.xl with recs := s.xl.recs.map (fun r => if hit r then { r with waiters := r.waiters ++ [(w.ref, w.acc)] } else r) } }
  else if efFull s then { s with xl := { s.xl with heldFaults := s.xl.heldFaults ++ [(w, reason, at_)] } }
  else
    let tok := (s.xl.token + 1) % 2 ^ 32
    let k := s.xl.efbase.toNat + 32 * (s.xl.eftail % 1024)
    let w1 := w.tenant * 2 ^ 48 + w.ref.srce * 2 ^ 40 + reason * 2 ^ 36 + w.acc * 2 ^ 34 + tok
    let key := keyOf s.modid k
    let s1 := s.put key (leBytes 8 w.va.toNat ++ leBytes 8 w1 ++ leBytes 8 at_.toNat ++ leBytes 8 (16 * w.core + w.slot))
    { s1 with xl := { s1.xl with token := tok, eftail := (s1.xl.eftail + 1) % 2 ^ 32, recs := s1.xl.recs ++ [⟨tok, w.tenant, w.va, [(w.ref, w.acc)]⟩] } }

/-- Faults held while the ring was full or had no base are posted again, oldest first (R307). -/
def postHeld (s : State) : State :=
  let l := s.xl.heldFaults
  l.foldl (fun s f => if s.waits f.1.ref then postFault s f.1 f.2.1 f.2.2 else s) { s with xl := { s.xl with heldFaults := [] } }

/-! Completions (R40). -/

/-- An engine's completion value leaves for wherever the handle is. -/
def pushDone (s : State) (h v : Word) : State :=
  if h = 0 then s else { s with eng := { s.eng with dones := s.eng.dones ++ [⟨h, v, false⟩] } }

/-- A cancelled engine has stopped (R210). -/
def pushStopped (s : State) (h : Word) : State :=
  if h = 0 then s else { s with eng := { s.eng with dones := s.eng.dones ++ [⟨h, 0, true⟩] } }

/-- The pending future of a handle. -/
def State.fut (s : State) (h : Word) : Option Fut := s.eng.futs.find? (fun f => f.h == h)

/-- Whether FCANCEL has marked a future (R210). -/
def State.cancelled (s : State) (h : Word) : Bool :=
  match s.fut h with
  | some f => f.can
  | none => false

/-! The Treasury event ring (R333). -/

/-- A Treasury event (R333): the record, or the count of it lost, and its trace record. (DEDUCED, log 87.) -/
def tevEvent (s : State) (kind code tslot qb qa : Nat) (det det2 : Word) : State :=
  let w1 := wordOf (kind * 2 ^ 56 + code % 256 * 2 ^ 48 + tslot % 64 * 2 ^ 42 + qb % 1024 * 2 ^ 16 + qa % 1024)
  let s0 := s.traceSys 1 qa w1 det
  let t := s0.tr
  if t.tevbase = 0 then { s0 with tr := { t with tevdrop := (t.tevdrop + 1) % 2 ^ 32 } }
  else
    let full := (t.tevtail + 2 ^ 32 - t.tevhead) % 2 ^ 32 = 2048
    let k := keyOf s0.modid (t.tevbase.toNat + 32 * (t.tevtail % 2048))
    let s1 := s0.put k (leBytes 8 s0.time.toNat ++ leBytes 8 w1.toNat ++ leBytes 8 det.toNat ++ leBytes 8 det2.toNat)
    { s1 with tr := { s1.tr with tevtail := (t.tevtail + 1) % 2 ^ 32,
                                 tevhead := if full then (t.tevhead + 1) % 2 ^ 32 else t.tevhead,
                                 tevdrop := if full then (t.tevdrop + 1) % 2 ^ 32 else t.tevdrop } }

/-! The Purse (R247-R251, R254). -/

/-- CORE of a handle (R247). -/
def hdlCore (h : Word) : Nat := fld h 49 11
/-- ENV of a handle (R247). -/
def hdlEnv (h : Word) : Nat := fld h 42 7
/-- GEN of a handle (R247). -/
def hdlGen (h : Word) : Nat := fld h 30 12

/-- A handle of a record (R247). -/
def hdlOf (core env gen : Nat) : Word := wordOf (0xC * 2 ^ 60 + core * 2 ^ 49 + env * 2 ^ 42 + gen * 2 ^ 30)

/-- The key of a Purse record's word (R248). -/
def purseKey (core env w : Nat) : Nat := winKey core (0x5C000 + 128 * env + 8 * w)

/-- A word of a Purse record. -/
def State.purse (s : State) (core env w : Nat) : Word := s.w64 (purseKey core env w)

def pGen (w0 : Word) : Nat := fld w0 0 12
def pEntry (w0 : Word) : Word :=
  let e := fld w0 12 52 * 32
  if fld w0 63 1 = 1 then wordOf (e + 0xFE00000000000000) else wordOf e
def pRc (w1 : Word) : Nat := fld w1 48 16
def pFid (w1 : Word) : Nat := fld w1 36 12
def pDead (w1 : Word) : Bool := bit w1 35
def pUsed (w1 : Word) : Bool := bit w1 34
def pCbase (w1 : Word) : Nat := fld w1 29 5
def pCmask (w1 : Word) : Nat := fld w1 15 14
def pRmask (w1 : Word) : Nat := fld w1 1 14

/-- Word 1 of a record of its fields (R248). -/
def pWord1 (rc fid : Nat) (dead used : Bool) (cbase cmask rmask : Nat) : Word :=
  wordOf (rc * 2 ^ 48 + fid % 4096 * 2 ^ 36 + bitNat dead * 2 ^ 35 + bitNat used * 2 ^ 34 + cbase * 2 ^ 29 + cmask * 2 ^ 15 + rmask * 2)

/-- REASON of a handle that is not current: 1 for its form, 2 for its record; 0 when it is current (R249, R256). -/
def hdlReason (s : State) (h : Word) : Nat :=
  if fld h 60 4 != 0xC || fld h 0 30 != 0 then 1
  else if Config.nCores ≤ hdlCore h then 2
  else
    let w0 := s.purse (hdlCore h) (hdlEnv h) 0
    let w1 := s.purse (hdlCore h) (hdlEnv h) 1
    if !pUsed w1 || pGen w0 != hdlGen h then 2 else 0

/-- Whether a handle is current (R249). -/
def hdlCurrent (s : State) (h : Word) : Bool := hdlReason s h == 0

/-- RC of a current handle's record. -/
def hdlRc (s : State) (h : Word) : Nat := pRc (s.purse (hdlCore h) (hdlEnv h) 1)

/-- Whether a current handle's record holds all the counts it can (R250). -/
def hdlFull (s : State) (h : Word) : Bool := hdlRc s h == 65535

/-- Writes RC of a handle's record. -/
def setRc (s : State) (h : Word) (rc : Nat) : State :=
  let k := purseKey (hdlCore h) (hdlEnv h) 1
  s.setW64 k (wordOf ((s.w64 k).toNat % 2 ^ 48 + rc * 2 ^ 48))

/-- Takes a count on a current handle's record (R250). -/
def takeCount (s : State) (h : Word) : State := setRc s h (hdlRc s h + 1)

/-- Frees a record: USED 0, the next generation, every other field 0 (R249). -/
def freeRecord (s : State) (core env : Nat) : State :=
  let g := (pGen (s.purse core env 0) + 1) % 4096
  { s with mem := setBytes s.mem (purseKey core env 0) (leBytes 128 g) }

/-- Releases a count on a current handle's record; a handle that is not current holds none (R250, R251). -/
def dropCount (s : State) (h : Word) : State :=
  if hdlCurrent s h then
    if hdlRc s h ≤ 1 then freeRecord s (hdlCore h) (hdlEnv h) else setRc s h (hdlRc s h - 1)
  else s

/-- A frame at bank offset `wp` of a core ends: the records it owns receive DEAD (R254). -/
def endFrame (s : State) (core wp : Nat) : State :=
  (List.range 128).foldl (fun s i =>
    let w1 := s.purse core i 1
    if pUsed w1 && pFid w1 == wp / 8 then s.setW64 (purseKey core i 1) (w1 ||| wordOf (2 ^ 35)) else s) s

/-- Whether a frame is pinned by a capture by reference (R254). -/
def framePinned (s : State) (core wp : Nat) : Bool :=
  (List.range 128).any (fun i =>
    let w1 := s.purse core i 1
    pUsed w1 && !pDead w1 && pRmask w1 != 0 && pFid w1 == wp / 8)

/-- The captured words of a record with their register numbers (R248). -/
def captured (s : State) (core env : Nat) : List (Nat × Word) :=
  let w1 := s.purse core env 1
  (List.range 14).filterMap (fun j => if pCmask w1 / 2 ^ j % 2 = 1 then some (pCbase w1 + j, s.purse core env (2 + j)) else none)

/-- The lowest captured register number at or above `n`. -/
def capturedAbove (s : State) (h : Word) (n : Nat) : Option Nat :=
  ((captured s (hdlCore h) (hdlEnv h)).map (fun p => p.1)).find? (fun r => n ≤ r)

/-- Drops the cached translations that a test names, in every core and cluster, and the walk-cache entries that another names (R308). -/
def dropTlb (s : State) (p : TlbEnt → Bool) (q : WalkEnt → Bool) : State :=
  { s with xl := { s.xl with wcache := (s.xl.wcache.map (fun x => (x.1, x.2.filter (fun e => !q e)))).filter (fun x => !x.2.isEmpty) }
           cores := (s.cores.map (fun x => (x.1, { x.2 with tlb := x.2.tlb.filter (fun e => !p e) }))).filter (fun x => x.2 != CoreSt.reset)
           clus := (s.clus.map (fun x => (x.1, { x.2 with tlb := x.2.tlb.filter (fun e => !p e) }))).filter (fun x => x.2 != CluSt.reset) }

/-- Drops the translations of a tenant's page that holds an address (R308, kind 0). -/
def dropPage (s : State) (tenant va : Nat) : State :=
  dropTlb s (fun x => x.tenant == tenant && x.page == va / 2 ^ pageBits x.lv)
            (fun x => x.tenant == tenant && x.page == va / 2 ^ levelShift x.lv)

end Sys2Proof.Machine
end

