-- ==== Sys2Proof/Machine/Create.lean ====
section
/-! DEFINITION. Creating a thread in a free slot with room (R33, R36, R59), and what the retirement of one frees. -/

namespace Sys2Proof.Machine

/-- Sets the floor of a scope (R92). -/
def Floors.at (f : Floors) (sc : Scope) (n : Nat) : Floors :=
  match sc with
  | .thr => f
  | .core => { f with core := n }
  | .clu => { f with clu := n }
  | .stk => { f with stk := n }
  | .pkg => { f with pkg := n }
  | .dom => { f with dom := n }

/-- The floors of a thread at creation (R36, R103): what an acquire made for it at stamp `n` sees. (DEDUCED, log 36.) -/
def bornFloors (acq : Option Scope) (n : Nat) : Floors :=
  match acq with
  | some sc => Floors.at ⟨0, 0, 0, 0, 0, []⟩ sc n
  | none => ⟨0, 0, 0, 0, 0, []⟩

/-- The floors that an acquire at stamp `n` for an instance of core `c` gives a thread that may stand elsewhere (R39, R102). -/
def floorsFrom (c : Nat) (acq : Option Scope) (n : Nat) : Floors :=
  match acq with
  | some sc => ⟨0, 0, 0, 0, 0, [(sc, c, n)]⟩
  | none => ⟨0, 0, 0, 0, 0, []⟩

/-- What a thread keeps of its acquires when it leaves core `c` (R89, R92): those at instances of that core hold there. -/
def Floors.leave (f : Floors) (c : Nat) : Floors :=
  ⟨0, 0, 0, f.pkg, f.dom, (f.abroad ++ [(Scope.core, c, f.core), (Scope.clu, c, f.clu), (Scope.stk, c, f.stk)]).filter (fun x => x.2.2 != 0)⟩

/-- The floors of two acquisitions together. -/
def Floors.join (f g : Floors) : Floors :=
  ⟨max f.core g.core, max f.clu g.clu, max f.stk g.stk, max f.pkg g.pkg, max f.dom g.dom, f.abroad ++ g.abroad⟩

/-- A thread's context at creation (R33). -/
def Thread.fresh (inc : Nat) (pc : Word) (wp base size : Nat) (kernel : Bool) (floors : Floors) : Thread where
  inc := inc
  pc := pc
  flags := Flags.zero
  vl := 0
  rmode := .rne
  iflags := 0
  pend := 0
  repcnt := 0
  k := Vector.replicate 4 0
  wp := wp
  base := base
  size := size
  kernel := kernel
  halted := false
  wait := .none
  held := []
  bn := 0
  openBatch := []
  sealed := []
  pins := []
  views := []
  left := []
  floors := floors
  depth := 1
  mdepth := 0
  moved := []
  maskAt := 0
  overran := false
  nextCk := 0
  evCk := 0
  evPlace := 0
  reserved := []
  late := []
  seen := []
  wrote := []
  stale := []
  origin := .none

/-- The blocks held on a core, of live and spilled threads (R59, R287). -/
def blocksOf (s : State) (c : Nat) : List (Nat × Nat) :=
  (List.range 16).filterMap (fun sl => (s.thread c sl).map (fun t => (t.base, t.size)))
  ++ (s.core c).spilled.map (fun x => (x.th.base, x.th.size))

/-- Whether a block of `n` bytes at an offset overlaps none of the blocks and ends in the bank. -/
def blockFits (l : List (Nat × Nat)) (o n : Nat) : Bool := o + n ≤ 0x8000 && l.all (fun b => o + n ≤ b.1 || b.1 + b.2 ≤ o)

/-- First-fit allocation from the lowest offset (R59). -/
def allocBlock (l : List (Nat × Nat)) (n : Nat) : Option Nat :=
  (List.range 448).find? (fun i => blockFits l (0x1000 + 64 * i) n) |>.map (fun i => 0x1000 + 64 * i)

/-- The lowest free slot of a core that its partition has (R36, R43). -/
def freeSlot (s : State) (c : Nat) : Option Nat := (List.range (s.nslots c)).find? (fun sl => (s.thread c sl).isNone)

/-- Where a thread with a block of `n` bytes would be created on a core (R36): nowhere on a compute core that holds TENANT 0 (R299). -/
def placeFor (s : State) (c n : Nat) : Option (Nat × Nat) :=
  if !isHub c && s.tenantOf c = 0 then none
  else
    match freeSlot s c, allocBlock (blocksOf s c) n with
    | some sl, some o => some (sl, o)
    | _, _ => none

/-- Whether a core has a free slot and room for a block of `n` bytes. -/
def hasRoom (s : State) (c n : Nat) : Bool := (placeFor s c n).isSome

/-- Writes register words of a frame. -/
def setRegs (s : State) (c wp : Nat) : List (Nat × Word) → State
  | [] => s
  | (r, v) :: l => setRegs (s.setW64 (regKey c wp r) v) c wp l

/-- Zeroes `n` bytes at a window offset. -/
def zeroWin (s : State) (c o n : Nat) : State := { s with mem := setBytes s.mem (winKey c o) (List.replicate n 0) }

/-- Creates a thread in a slot with its block at `o` (R33, R36, R169, R191): every register 0 but those listed. -/
def createIn (s : State) (c sl o : Nat) (entry : Word) (size : Nat) (kernel : Bool) (regs : List (Nat × Word)) (origin : Origin) (floors : Floors) : State :=
  let x := s.slot c sl
  let t := Thread.fresh ((x.created + 1) % 65536) entry o o size kernel floors
  let s1 := zeroWin (zeroWin s c o (8 * s.nregs c)) c (shadowOff sl) 128
  let s2 := setRegs s1 c o regs
  s2.setSlot c sl { x with created := (x.created + 1) % 65536, cset := CopySet.zero, ctime := [], upend := 0, uwp := 0, trep := 0, tfl := 0,
                           thread := some { t with origin := origin } }

/-- Creates a thread on a core if it has a place: the state and the slot (R36). -/
def create (s : State) (c : Nat) (entry : Word) (size : Nat) (regs : List (Nat × Word)) (origin : Origin) (floors : Floors) : Option (State × Nat) :=
  match placeFor s c size with
  | some (sl, o) => some (createIn s c sl o entry size false regs origin floors, sl)
  | none => none

/-- Starts the thread of a hub core in slot 0, in kernel mode (R365): its registers are the slot's kernel frame (R278), every word of it
0 but W0 and W1. (DEDUCED, log 112.) -/
def startHub (s : State) (c : Nat) (entry w0 w1 : Word) : State :=
  let s1 := createIn (s.setSlot c 0 { s.slot c 0 with thread := none }) c 0 0x1000 entry 28672 true [] .none (bornFloors none 0)
  let o := s1.kernelOff c 0
  setRegs (zeroWin (s1.modThread c 0 (fun t => { t with wp := o })) c o (8 * s.nregs c)) c o [(0, w0), (1, w1)]

/-- Starts the comptroller and the six teller cores at an entry (R364, R365). -/
def startTreasury (s : State) (entry w0 w1 : Word) : State :=
  (List.range 7).foldl (fun s i => startHub s (Config.comptroller + i) entry w0 w1) s

/-- Halts the seven Treasury cores: no thread of theirs issues, and the comptroller's writes not yet performed are discarded (R371). -/
def stopTreasury (s : State) : State :=
  (List.range 7).foldl (fun s i => s.setSlot (Config.comptroller + i) 0 { s.slot (Config.comptroller + i) 0 with thread := none })
    (s.setCore Config.comptroller { s.core Config.comptroller with wbuf := [] })

end Sys2Proof.Machine
end

