-- ==== Sys2Proof/Machine/Escrow.lean ====
section
/-! DEFINITION. The escrow engine's cells (R262-R268): status, wake writes, moves between tiers, media errors, the end of a holding, and the registers of R349. -/

namespace Sys2Proof.Machine

def State.cell (s : State) (n : Nat) : Cell := tget Cell.reset s.eng.cells n
def State.setCell (s : State) (n : Nat) (x : Cell) : State := { s with eng := { s.eng with cells := tset Cell.reset s.eng.cells n x } }

/-- A change of STATE, with TCHG (R266). -/
def Cell.goto (x : Cell) (s : State) (st : Nat) : Cell := { x with state := st, tchg := wordOf (s.time.toNat / 65536) }

/-- The status word (R266). -/
def Cell.status (x : Cell) : Word := wordOf (x.state * 2 ^ 60 + x.cls * 2 ^ 56 + x.npg * 2 ^ 49 + x.tchg.toNat % 2 ^ 48)

/-- The physical address of the wake cells, as an offset in device register space (R262). -/
def cellBase : Nat := 0x40000000

/-- ECLSk (R263). -/
def State.ecls (s : State) (k : Nat) : Word := tget (eclsReset k) s.eng.ecls k
def State.setEcls (s : State) (k : Nat) (v : Word) : State :=
  { s with eng := { s.eng with ecls := if v = eclsReset k then tdel s.eng.ecls k else tins s.eng.ecls k v } }

/-- The held pages of every park (R264, R265). -/
def heldPages (s : State) : List Page :=
  s.eng.cells.flatMap (fun p => match p.2.park with | some k => k.pages | none => []) ++ s.eng.failing.flatMap (fun p => p.2.pages)

/-- Pages whose data is in a tier (R348, R349). -/
def tierPages (s : State) (t : Tier) : Nat := ((heldPages s).filter (fun g => g.tier == t)).length

/-- Pages that take room in a tier: those in it and those on their way into it (R265). -/
def tierTaken (s : State) (t : Tier) : Nat := ((heldPages s).filter (fun g => g.tier == t || g.moving == some t)).length

/-- EPAGES (R349). -/
def epages (s : State) : Word := wordOf (tierPages s .flash * 2 ^ 32 + tierPages s .cxl)

/-- 64-KiB pages of CXL memory fitted at ports that are up (R347). -/
def cxlFitted (s : State) : Nat := ((List.range 4).map (fun p => if tget false s.fab.cxlDown p then 0 else tget 0 s.fab.cxlSize p)).foldl (· + ·) 0 / 65536

/-- The lowest 16 blocks of a drive in use that hold no page, for one Write (R348): its queues take 16 × 256 commands. -/
def freeLba (s : State) (d : Nat) : Option Nat :=
  let on := (heldPages s).filter (fun g => match g.lba with | some b => b.1 == d | none => false)
  if tget false s.fab.flashDown d || 4096 ≤ (on.filter (fun g => g.moving.isSome)).length then none
  else firstBelow (fun i => on.all (fun g => g.lba != some (d, 16 * i))) (tget 0 s.fab.flashPages d) 0 |>.map (16 * ·)

/-- The drive and blocks of the next page written to flash: the drives take turns, and one without room is passed over (R348).
(DEDUCED, log 101.) -/
def nextLba (s : State) : Option (Nat × Nat) :=
  [s.fab.flashTurn % 2, (s.fab.flashTurn + 1) % 2].findSome? (fun d => (freeLba s d).map (fun b => (d, b)))

/-- Whether a tier takes one more page (R265, R349). -/
def tierRoom (s : State) (t : Tier) : Bool :=
  match t with
  | .hbm => true
  | .cxl => tierTaken s .cxl < min s.eng.ecxllim (cxlFitted s)
  | .flash => tierTaken s .flash < s.eng.efllim && (nextLba s).isSome

/-- Replaces page `i` of a cell's park. -/
def setPage (s : State) (n i : Nat) (g : Page) : State :=
  let x := s.cell n
  match x.park with
  | some k => s.setCell n { x with park := some { k with pages := setAt k.pages i g } }
  | none => s

/-- Starts the move of page `i` of a cell's park to a tier that has room; one to flash is a Write to the next drive (R265, R348). -/
def startMove (s : State) (n i : Nat) (g : Page) (dst : Tier) : State :=
  match dst, nextLba s with
  | .flash, some b => { setPage s n i { g with moving := some dst, lba := some b } with fab := { s.fab with flashTurn := (b.1 + 1) % 2 } }
  | _, _ => setPage s n i { g with moving := some dst }

/-- Starts the moves of a park's pages from one tier to the next, while there is room (R265). (DEDUCED, log 80.) -/
def startMoves (s : State) (n : Nat) (src dst : Tier) : State :=
  match (s.cell n).park with
  | none => s
  | some k =>
    (List.range k.pages.length).foldl (fun s i =>
      match (s.cell n).park.bind (fun k => k.pages[i]?) with
      | some g => if g.tier == src && g.moving.isNone && tierRoom s dst then startMove s n i g dst else s
      | none => s) s

/-- The key of the leaf entry of an address, in a walk from table `t` over `n` levels from level `lv`. -/
def leafKeyFrom (s : State) (va : Nat) : Nat → Nat → Nat → Option Nat
  | 0, _, _ => none
  | n + 1, t, lv =>
    let k := keyOf s.modid (t + 8 * tableIndex lv va)
    let e := s.w64 k
    if !bit e 0 || badEntry e lv then none
    else if bit e 1 then some k
    else leafKeyFrom s va n (entryAddr e) (lv + 1)

/-- The key of the leaf entry of an address in a tenant slot's context. -/
def leafKey (s : State) (slot va : Nat) : Option Nat := leafKeyFrom s va 5 (s.root slot) 0

/-- Sets or clears ESC of a page's leaf by an atomic write, and drops the page's translations (R308). -/
def setEsc (s : State) (tenant : Nat) (va : Word) (on : Bool) : State :=
  match s.tenSlot tenant with
  | none => s
  | some slot =>
    match leafKey s slot va.toNat with
    | none => s
    | some k =>
      let e := s.w64 k
      let e' := if on then e ||| 64 else e &&& ~~~64
      dropPage (s.putNat k 8 e'.toNat) tenant va.toNat

/-- The holding of a park's pages ends (R267, R308). -/
def endHolding (s : State) (k : Park) : State := k.pages.foldl (fun s g => setEsc s k.tenant g.va false) s

/-- The tenant slot of a core's TENANT, 0 if none. -/
def slotNo (s : State) (c : Nat) : Nat := (s.tenSlot (s.tenantOf c)).getD 0

/-- Once every page is home the holding ends and the continuation's creation is requested (R267). -/
def applyPark (s : State) (n : Nat) : State :=
  match (s.cell n).park with
  | none => s
  | some k =>
    if (s.cell n).state = 7 && k.pages.all (fun g => g.tier == .hbm && g.moving.isNone) then
      let s1 := endHolding s k
      let cr : Creation := { core := k.home, entry := pEntry (s1.purse (hdlCore k.env) (hdlEnv k.env) 0), regs := captured s1 (hdlCore k.env) (hdlEnv k.env) ++ [(0, k.value)],
                             bsize := k.bsize, acq := some .dom, env := some k.env, origin := .none, cell := some n, flit := none }
      let s2 := s1.setCell n { s1.cell n with park := none }
      { s2 with eng := { s2.eng with creations := s2.eng.creations ++ [cr] } }
    else s

/-- The next stage of a page that promotion finds at rest (R267): flash to CXL where there is room, else straight home. -/
def promoteTo (s : State) (g : Page) : Option Tier :=
  match g.tier, g.moving with
  | .hbm, _ => none
  | _, some _ => none
  | .cxl, none => some .hbm
  | .flash, none => if tierRoom s .cxl then some .cxl else some .hbm

/-- Starts the stages of every page at rest (R267). -/
def promote (s : State) (n : Nat) : State :=
  match (s.cell n).park with
  | none => s
  | some k =>
    let s1 := (List.range k.pages.length).foldl (fun s i =>
      match (s.cell n).park.bind (fun k => k.pages[i]?) with
      | some g =>
        match promoteTo s g with
        | some t => setPage s n i { g with moving := some t }
        | none => s
      | none => s) s
    applyPark s1 n

/-- A woken park none of whose pages moves any more is promoted: STATE 7 (R267). -/
def promoteWoken (s : State) (n : Nat) : State :=
  match (s.cell n).park with
  | some k => if k.woken && k.pages.all (fun g => g.moving.isNone) then promote (s.setCell n ((s.cell n).goto s 7)) n else s
  | none => s

/-- A wake write of `v` performed at a cell (R267): a park whose pages move is promoted once those moves have finished, and a second
wake of it is ignored. (DEDUCED, log 81.) -/
def wakeWrite (s : State) (n : Nat) (v : Word) : State :=
  let x := s.cell n
  match x.state, x.park with
  | 0, _ => s.setCell n { x.goto s 1 with kept := v }
  | 2, some k | 3, some k | 4, some k | 5, some k | 6, some k =>
    if k.woken then s else promoteWoken (s.setCell n { x with park := some { k with value := v, woken := true } }) n
  | _, _ => s

/-- ECELLCLR of a value (R268, R349). -/
def clearCell (s : State) (v : Word) : State :=
  if 65536 ≤ v.toNat then s
  else
    let x := s.cell v.toNat
    match x.state with
    | 1 => s.setCell v.toNat { x.goto s 0 with kept := 0 }
    | 8 | 9 => s.setCell v.toNat (x.goto s 0)
    | _ => s

/-- Every line of a lost page's frame, at a physical address, is written as poisoned (R265). -/
def poisonFrame (s : State) (pa : Nat) : State :=
  { s with poison := (List.range 1024).foldl (fun l i => addPoison l (lineOf (keyOf s.modid (pa + 64 * i)))) s.poison }

/-- A page at the end of its move: away from flash, its blocks are deallocated (R348). -/
def Page.arrived (g : Page) : Page :=
  let t := g.moving.getD g.tier
  { g with tier := t, moving := none, lba := if t == .flash then g.lba else none }

/-- Whether a line lies in the HBM frame at a physical address. -/
def inFrame (s : State) (pa line : Nat) : Bool := let l := lineOf (keyOf s.modid pa); l ≤ line && line < l + 1024

/-- A page that was `g` stands as `g'` after a move: its poisoned lines leave HBM with it, and its return writes every line of its frame,
poisoned where it was (R265, R338). -/
def carryPoison (s : State) (g g' : Page) : State × Page :=
  match g.tier == .hbm, g'.tier == .hbm with
  | true, false => (s, { g' with bad := s.poison.filter (inFrame s g.frame) })
  | false, true => ({ s with poison := g.bad.foldl addPoison (s.poison.filter (fun l => !inFrame s g.frame l)) }, { g' with bad := [] })
  | _, _ => (s, g')

/-- A page whose move ended without effect: a failed Write holds no blocks (R348). -/
def Page.stayed (g : Page) : Page := { g with moving := none, lba := if g.tier == .flash then g.lba else none }

/-! A park that a media error ended (R265): it has left its cell, and its pages stay held until they are home. (DEDUCED, log 96.) -/

/-- A page whose data is lost, in its poisoned frame with its copies freed. -/
def Page.lost (g : Page) : Page := { g with tier := .hbm, moving := none, lba := none, bad := [] }

/-- Page `i` of the `j`th failing park. -/
def failPage (s : State) (j i : Nat) : Option Page := s.eng.failing[j]?.bind (fun p => p.2.pages[i]?)

/-- Replaces page `i` of the `j`th failing park. -/
def setFailPage (s : State) (j i : Nat) (g : Page) : State :=
  match s.eng.failing[j]? with
  | some (n, k) => { s with eng := { s.eng with failing := setAt s.eng.failing j (n, { k with pages := setAt k.pages i g }) } }
  | none => s

/-- Once every page of the `j`th failing park is home the holding ends and the park's count is released. -/
def failHome (s : State) (j : Nat) : State :=
  match s.eng.failing[j]? with
  | some (_, k) =>
    if k.pages.all (fun g => g.tier == .hbm && g.moving.isNone) then
      let s1 := dropCount (endHolding s k) k.env
      { s1 with eng := { s1.eng with failing := delAt s1.eng.failing j } }
    else s
  | none => s

/-- Starts the stages home of every page at rest of the `j`th failing park, as in promotion (R267). -/
def bringHome (s : State) (j : Nat) : State :=
  match s.eng.failing[j]? with
  | none => s
  | some (_, k) =>
    failHome ((List.range k.pages.length).foldl (fun s i =>
      match failPage s j i with
      | some g =>
        match promoteTo s g with
        | some t => setFailPage s j i { g with moving := some t }
        | none => s
      | none => s) s) j

/-- A media error on page `i` of a cell's park (R265): STATE 9, with an event of kind 5, and the pages come home.
`lost` says whether the page's data is lost, and `det2` is the NVMe status (R348). (DEDUCED, log 27, log 96.) -/
def mediaError (s : State) (n i : Nat) (lost : Bool) (det2 : Word) : State :=
  let x := s.cell n
  match x.park with
  | none => s
  | some k =>
    if 3 ≤ x.state && x.state ≤ 7 then
      match k.pages[i]? with
      | none => s
      | some g =>
        if g.tier == .hbm && g.moving != some .cxl then s
        else
          let s1 := if lost then poisonFrame s g.frame else s
          let s2 := s1.setCell n { x.goto s1 9 with park := none }
          let s3 := engFault s2 k.core (tidSlot k.tid) k.tid 0x09 4 (wordOf n) 0
          let s4 := tevEvent s3 5 0x09 (slotNo s3 k.core) 0 0 (wordOf n) det2
          let back := if lost then g.lost else g.stayed
          bringHome { s4 with eng := { s4.eng with failing := s4.eng.failing ++ [(n, { k with pages := setAt k.pages i back })] } } s4.eng.failing.length
    else s

/-- The failing park of a cell whose page `i` moves as `p` says. -/
def failingAt (s : State) (n i : Nat) (p : Page → Bool) : Option Nat :=
  s.eng.failing.findIdx? (fun x => x.1 == n && x.2.pages[i]?.any p)

/-- A move of page `i` of the `j`th failing park ends, with a media error or without; a page whose data is lost leaves a poisoned frame. -/
def failMove (s : State) (j i : Nat) (err lost : Bool) : State :=
  match failPage s j i with
  | none => s
  | some g =>
    if err then bringHome (setFailPage (if lost then poisonFrame s g.frame else s) j i (if lost then g.lost else g.stayed)) j
    else
      let (s1, g1) := carryPoison s g g.arrived
      bringHome (setFailPage s1 j i g1) j

/-- STATE of a park's cell after its pages' moves down (R266): 3 while a page is in HBM, 4 while all rest in CXL memory, 6 once all
are in flash. (DEDUCED, log 80.) -/
def restState (k : Park) (st : Nat) : Nat :=
  if st = 3 && k.pages.any (fun g => g.tier == .hbm) then 3
  else if st = 3 && k.pages.all (fun g => g.tier == .cxl && g.moving.isNone) then 4
  else if (st = 3 || st = 5) && k.pages.all (fun g => g.tier == .flash && g.moving.isNone) then 6
  else if st = 3 then 5
  else st

/-- A move of page `i` finishes (R265, R267). -/
def moveDone (s : State) (n i : Nat) : State :=
  match (s.cell n).park.bind (fun k => k.pages[i]?) with
  | none => s
  | some g =>
    match g.moving with
    | none => s
    | some _ =>
      let (s0, g1) := carryPoison s g g.arrived
      let s1 := setPage s0 n i g1
      let x := s1.cell n
      if x.state = 7 then promote s1 n
      else
        match x.park with
        | some k =>
          promoteWoken (if restState k x.state = x.state then s1 else s1.setCell n (x.goto s1 (restState k x.state))) n
        | none => s1

/-- Whether `us` microseconds have passed since TIME `t` (R350). -/
def usPassed (s : State) (t : Word) (us : Nat) : Bool := timeGe s.time (t + wordOf (us * 65536000))

/-- HBM_DWELL_EXPIRY (R265): the pages start moving to CXL memory, while there is room. -/
def execHbmDwellExpiry (cell : Nat) (s : State) : Out :=
  let x := s.cell cell
  match x.park with
  | some k =>
    if (x.state = 2 || x.state = 3) && !k.woken && k.hbmdw != 0xFFFFFFFF && usPassed s k.tau k.hbmdw && tierRoom s .cxl then
      .next (startMoves (if x.state = 2 then s.setCell cell (x.goto s 3) else s) cell .hbm .cxl)
    else .next s
  | none => .next s

/-- CXL_DWELL_EXPIRY (R265): the pages in CXL memory start moving to flash, while there is room; in STATE 3 others may still lack
room to leave HBM. -/
def execCxlDwellExpiry (cell : Nat) (s : State) : Out :=
  let x := s.cell cell
  match x.park with
  | some k =>
    if (x.state = 3 || x.state = 4 || x.state = 5) && !k.woken && k.hbmdw != 0xFFFFFFFF && k.cxldw != 0xFFFFFFFF && usPassed s k.tau (k.hbmdw + k.cxldw)
       && tierRoom s .flash then
      .next (startMoves (if x.state = 4 then s.setCell cell (x.goto s 5) else s) cell .cxl .flash)
    else .next s
  | none => .next s

/-- Whether a page moves down a tier. -/
def Page.goesDown (g : Page) : Bool := (g.tier == .hbm && g.moving == some .cxl) || (g.tier == .cxl && g.moving == some .flash)

/-- Whether a page moves up. -/
def Page.goesUp (g : Page) : Bool := g.moving.isSome && !g.goesDown

/-- Whether a page moves to or from flash (R348). -/
def Page.flashes (g : Page) : Bool := g.moving.isSome && (g.tier == .flash || g.moving == some .flash)

/-- A move of page `i` of a cell ends, if it is one that `p` admits: of the cell's park, or else of a failing park of the cell. -/
def endMove (s : State) (n i : Nat) (p : Page → Bool) (err : Bool) (lost : Page → Bool) (det2 : Word) : State :=
  match (s.cell n).park.bind (fun k => k.pages[i]?.filter p) with
  | some g => if err then mediaError s n i (lost g) det2 else moveDone s n i
  | none =>
    match failingAt s n i p with
    | some j => failMove s j i err ((failPage s j i).any lost)
    | none => s

/-- PAGE_MOVE_COMPLETE (R265). -/
def execPageMoveComplete (cell page : Nat) (err : Bool) (s : State) : Out := .next (endMove s cell page Page.goesDown err (fun _ => true) 0)

/-- PROMOTION_STAGE_COMPLETE (R267). -/
def execPromotionStageComplete (cell page : Nat) (err : Bool) (s : State) : Out := .next (endMove s cell page Page.goesUp err (fun _ => true) 0)

/-- FLASH_COMMAND_COMPLETION (R348): a Read or Write of a page completes with a status, 0 for success. The CXL copy is freed only
after a Write completes, so a Write that fails loses no data. -/
def execFlashCommandCompletion (cell page status : Nat) (s : State) : Out :=
  .next (endMove s cell page Page.flashes (status != 0) (fun g => g.tier == .flash) (wordOf status))

/-- WAKE_WRITE (R267): a wake value is performed at a cell, as one arriving over Volzor Link is. -/
def execWakeWrite (cell : Nat) (v : Word) (s : State) : Out := .next (if cell < 65536 then wakeWrite s cell v else s)

/-- A store to an escrow register at offset `o` (R349). -/
def writeEscrow (s : State) (o : Nat) (v : Word) : State :=
  match o with
  | 0x180 => { s with eng := { s.eng with ecxllim := v.toNat % 2 ^ 32 } }
  | 0x188 => { s with eng := { s.eng with efllim := v.toNat % 2 ^ 32 } }
  | 0x198 => clearCell s v
  | _ => s

end Sys2Proof.Machine
end

