-- ==== Sys2Proof/Machine/Regs.lean ====
section
/-! DEFINITION. Registers of the hub blocks that no other unit's file holds: time (R350-R353), snapshots (R360), islands and power (R368, R369), eye-margin monitors (R341, R342), the capacity-compressed store (R340), and the events that change them. -/

namespace Sys2Proof.Machine

/-! Time. -/

/-- Whether any compute core holds a thread, live or spilled (R340, R353). -/
def anyThread (s : State) : Bool :=
  s.slots.any (fun p => p.1 / 16 < Config.nCores && p.2.thread.isSome) || s.cores.any (fun p => p.1 < Config.nCores && !p.2.spilled.isEmpty)

/-- TIME goes on by `d`, with TIMEERA at each wrap of NS (R350, R353), while `dt` of time elapses. (DESIGN CHOICE, log 10.) (DESIGN CHOICE, log 92.) -/
def advance (s : State) (dt d : Nat) : State :=
  let t := s.time.toNat + d
  { s with time := wordOf t, real := s.real + dt, tm := { s.tm with era := (s.tm.era + t / 2 ^ 64) % 2 ^ 32 } }

/-- TRATE as it acts: limited to ±100 ppm, in units of 2^-40 (R353). -/
def trateLimit (v : BitVec 32) : Int := max (-109951162) (min 109951162 v.toInt)

/-- What `dt` of time adds to TIME at the rate that TRATE trims, in units of 2^-40 of a unit, with what was left over before (R353). -/
def timeGain (s : State) (dt : Nat) : Nat := s.tm.frac + ((dt : Int) * (2 ^ 40 + trateLimit s.tm.trate)).toNat

/-- Time elapses: TIME follows it at the rate that TRATE trims (R353), and every island's clock at its frequency (R32). -/
def passTime (s : State) (dt : Nat) : State :=
  advance { s with tm := { s.tm with frac := timeGain s dt % 2 ^ 40 } } dt (timeGain s dt / 2 ^ 40)

/-- TIMESTAT (R353). -/
def timestat (t : TimeSt) : Word :=
  wordOf (t.offs.toNat * 2 ^ 32 + t.hops * 2 ^ 24 + t.src * 4 + bitNat t.hold * 2 + bitNat t.lock)

/-- TSTEP (R353). -/
def timeStep (s : State) (v : Word) : State := if !s.tm.everLock || !anyThread s then { s with time := s.time + v } else s

/-- A store to a time register at offset `o` by the comptroller (R353). -/
def writeTime (s : State) (o : Nat) (v : Word) : State :=
  match o with
  | 0x08 => { s with tm := { s.tm with era := v.toNat % 2 ^ 32 } }
  | 0x10 => if s.tm.hold then s else { s with tm := { s.tm with trate := v.truncate 32 } }
  | 0x18 => timeStep s v
  | _ => s

/-- A time register (R353). -/
def readTime (s : State) (o : Nat) : Word :=
  match o with
  | 0x00 => timestat s.tm
  | 0x08 => wordOf s.tm.era
  | 0x10 => wordOf s.tm.trate.toNat
  | 0x20 => s.tm.tlatch
  | 0x28 => s.tm.ttodLo
  | 0x30 => s.tm.ttodHi
  | _ => 0

/-- Ten seconds in units of TIME. -/
def tenSeconds : Nat := 10000000000 * 65536

/-- A correction against a source whose TIME is `ref` (R353): OFFS in ps, saturating, and LOCK after 10 s within ±100 ns. -/
def corrected (s : State) (src hops : Nat) (diff : Int) : State :=
  let ps := diff * 1000 / 65536
  let o : BitVec 32 := if 2147483647 < ps then BitVec.ofNat 32 2147483647 else if ps < -2147483648 then BitVec.ofInt 32 (-2147483648) else BitVec.ofInt 32 ps
  let near := decide (-100000 ≤ ps ∧ ps ≤ 100000)
  let at_ := if s.tm.good then s.tm.goodAt else s.time
  let lk := near && timeGe s.time (at_ + wordOf tenSeconds)
  { s with tm := { s.tm with offs := o, src := src, hops := hops, hold := false, lastAt := s.time, good := near, goodAt := at_,
                             lock := if near then s.tm.lock || lk else false, everLock := s.tm.everLock || lk } }

/-- PPS_EDGE: TIME is latched (R353). -/
def execPpsEdge (s : State) : Out := .next { s with tm := { s.tm with tlatch := s.time, edgeAt := some s.real } }

/-- Three seconds in units of TIME. -/
def threeSeconds : Nat := 3000000000 * 65536

/-- Whether the 1PPS is missing: no edge, or none for 3 s (R353). -/
def edgeMissing (s : State) : Bool :=
  match s.tm.edgeAt with
  | none => true
  | some e => e + threeSeconds ≤ s.real

/-- TOD_MESSAGE: a message whose CRC checks fills TTOD, and OFFS is the distance of the edge it follows from its TAI second (R353). -/
def execTodMessage (lo hi : Word) (s : State) : Out :=
  if Config.todCrc (lo.toNat + 2 ^ 64 * (hi.toNat % 2 ^ 48)) % 2 ^ 16 = fld hi 48 16 then
    let ref := wordOf (lo.toNat % 2 ^ 48 * 1000000000 * 65536)
    let s1 := { s with tm := { s.tm with ttodLo := lo, ttodHi := hi } }
    .next (if edgeMissing s then s1 else corrected s1 1 0 (s.tm.tlatch - ref).toInt)
  else .next s

/-- TIME_SOURCE_LOSS: an input missing for 3 s sets HOLD (R353): the source's messages, or with a 1PPS its edges. -/
def execTimeSourceLoss (s : State) : Out :=
  if s.tm.src != 0 && !s.tm.hold && (timeGe s.time (s.tm.lastAt + wordOf threeSeconds) || (s.tm.src == 1 && edgeMissing s)) then
    .next { s with tm := { s.tm with hold := true, holdAt := s.time } }
  else .next s

/-- HOLDOVER_LOCK_EXPIRY: LOCK clears 10 s after HOLD (R353). -/
def execHoldoverLockExpiry (s : State) : Out :=
  if s.tm.hold && timeGe s.time (s.tm.holdAt + wordOf tenSeconds) then .next { s with tm := { s.tm with lock := false, good := false } } else .next s

/-- TIME_WRAP: time passes until NS wraps (R350, R353). -/
def execTimeWrap (s : State) : Out := .next (advance s (2 ^ 64 - s.time.toNat) (2 ^ 64 - s.time.toNat))

/-- TIME_MESSAGE_SEND: the port sends its TIME at departure (R345). -/
def execTimeMessageSend (port : Nat) (s : State) : Out :=
  if port < 48 then .next { s with fab := { s.fab with timeMsgs := tins s.fab.timeMsgs port s.time } } else .next s

/-- Whether a port's messages come from the nearest module that has a grandmaster (R345): one is reached over it, and over no port sooner. -/
def nearestPort (port : Nat) : Bool := Config.hopsOf port < 6 && (List.range 48).all (fun q => Config.hopsOf port ≤ Config.hopsOf q)

/-- TIME_MESSAGE_RECEIVE: a module without its own 1PPS disciplines itself by the sender's TIME and half the round trip, where the sender is
the nearest module that has a grandmaster (R345, R353). -/
def execTimeMessageReceive (port : Nat) (sent rtt : Word) (s : State) : Out :=
  .next (if port < 48 && s.tm.src != 1 && nearestPort port then
      corrected s 2 (1 + Config.hopsOf port) (s.time - (sent + wordOf (rtt.toNat / 2))).toInt
    else s)

/-! Snapshots. -/

/-- SNAPCTL (R360). -/
def snapctl (x : SnapSt) : Word := wordOf (x.cmask.toNat * 2 ^ 32 + x.miss * 2 ^ 16 + x.src * 2 ^ 12 + bitNat x.frozen)

/-- ARM: FROZEN and MISS clear (R360). -/
def snapArm (s : State) : State := { s with snap := { s.snap with frozen := false, miss := 0, trigCk := none } }

/-- A store to SNAPCTL by the comptroller (R360): CMASK, then ARM, then FIRE. -/
def writeSnapctl (s : State) (v : Word) : State :=
  let s1 := { s with snap := { s.snap with cmask := BitVec.ofNat 32 (v.toNat / 2 ^ 32) } }
  let s2 := if bit v 1 then snapArm s1 else s1
  if bit v 2 then snapTrigger s2 4 0 0 0 0 0 else s2

/-- A word of the trigger record (R360): TIME; SRC and tag; trigger number; identifier. -/
def trigWord (x : SnapSt) (i : Nat) : Word :=
  match i with
  | 0 => x.trigTime
  | 1 => wordOf (x.src * 2 ^ 32 + x.trigTag)
  | 2 => wordOf x.trigNo
  | _ => x.trigTid

/-- The directory and words of the snapshot window, from entry `i` and offset `off` (R360). -/
def snapDir : List (Nat × Word × List Word) → Nat → List Word
  | [], _ => []
  | (b, _, ws) :: l, off => wordOf (b + off * 2 ^ 32) :: wordOf (8 * (ws.length + 1)) :: snapDir l (off + 8 * (ws.length + 1))

/-- A word of the snapshot window: a directory of 4,096 entries, then each block's latch TIME and words (R360). -/
def snapWord (s : State) (o : Nat) : Word :=
  if o < 65536 then (snapDir s.snap.latched 65536).getD (o / 8) 0
  else (s.snap.latched.flatMap (fun b => b.2.1 :: b.2.2)).getD ((o - 65536) / 8) 0

/-- SNAPSHOT_TRIGGER (R360). -/
def execSnapshotTrigger (src tag : Nat) (tid : Word) (s : State) : Out := .next (snapTrigger s src tag tid (cluOf (tidCore tid)) (tidCore tid) (tidSlot tid))

/-- SNAPIN: source 3 (R360). -/
def execSnapin (s : State) : Out := .next (snapTrigger s 3 0 0 0 0 0)

/-! Islands and power (R368, R369). -/

/-- ISLn (R368). -/
def Isl.word (x : Isl) : Word := wordOf (x.tj % 256 * 2 ^ 40 + x.thr * 2 ^ 38 + x.fset * 2 ^ 16 + x.vset)

/-- ISL_WRITE (R368): a VSET outside 560 to 760 in steps of 5 is ignored; the change holds the island's issue. -/
def writeIsl (s : State) (n : Nat) (v : Word) : State :=
  let x := s.isl n
  let f := fld v 16 14
  let u := fld v 0 10
  let vset := if 560 ≤ u ∧ u ≤ 760 ∧ u % 5 = 0 then u else x.vset
  let fnow := if x.thr = 0 then f else min x.fnow f
  s.setIsl n { x with fset := f, vset := vset, fnow := fnow, hold := x.hold || f != x.fset || vset != x.vset }

/-- THR of an island changes, with its trace record (R369). -/
def setThr (s : State) (n : Nat) (x : Isl) (thr fnow : Nat) : State :=
  let y := { x with thr := thr, fnow := fnow }
  let s1 := s.setIsl n y
  if thr = (s.isl n).thr then s1 else s1.traceSys 5 n y.word 0

/-- A time in units of TIME: 100 µs and 10 ms. -/
def hundredUs : Nat := 100000 * 65536
def tenMs : Nat := 10000000 * 65536

/-- A frequency lowered to `f`, but not below the island's lowest (R369). -/
def Isl.lowered (x : Isl) (n f : Nat) : Nat := min x.fnow (max f (Config.minFreq n))

/-- THERMAL_THROTTLE: the junction temperature of an island reaches `tj` °C (R369). -/
def execThermalThrottle (n tj : Nat) (s : State) : Out :=
  if 24 ≤ n then .next s
  else
    let x := { s.isl n with tj := tj }
    if 115 ≤ tj then .next { s.setIsl n x with pwr := { (s.setIsl n x).pwr with on := false } }
    else if 110 ≤ tj then .next (setThr s n x 3 (Config.minFreq n))
    else if 100 ≤ tj then .next (setThr s n (if x.thr = 1 then x else { x with stepAt := s.real }) (if x.thr = 3 then 3 else 1) x.fnow)
    else if tj ≤ 97 ∧ (x.thr = 1 ∨ x.thr = 3) then .next (setThr s n x 0 x.fset)
    else .next (s.setIsl n x)

/-- THROTTLE_STEP: 5 % lower every 100 µs while the thermal throttle holds (R369). -/
def execThrottleStep (n : Nat) (s : State) : Out :=
  let x := s.isl n
  if n < 24 ∧ x.thr = 1 ∧ x.stepAt + hundredUs ≤ s.real then
    .next (s.setIsl n { x with fnow := x.lowered n (x.fnow * 95 / 100), stepAt := s.real })
  else .next s

/-- POWER_LIMIT_WINDOW: the draw of a 10-ms window; every quadrant island is scaled in equal proportion, but for one that is clamped at its
lowest frequency (R369). (DEDUCED, log 89.) -/
def execPowerLimitWindow (draw : Nat) (s : State) : Out :=
  let s0 := { s with pwr := { s.pwr with pwr := draw, winAt := s.real } }
  let quads := (List.range 20).filter (fun n => n % 5 < 4)
  if s.real < s.pwr.winAt + tenMs then .next s
  else if s.pwr.plim < draw then
    .next (quads.foldl (fun s n =>
      let x := s.isl n
      if x.thr = 3 then s else setThr s n x (if x.thr = 0 then 2 else x.thr) (x.lowered n (x.fnow * s.pwr.plim / draw))) s0)
  else .next (quads.foldl (fun s n => let x := s.isl n; if x.thr = 2 then setThr s n x 0 x.fset else s) s0)

/-- ISLAND_CHANGE_HOLD_END (R368). -/
def execIslandChangeHoldEnd (n : Nat) (s : State) : Out :=
  if n < 24 then .next (s.setIsl n { s.isl n with hold := false }) else .next s

/-! Eye-margin monitors (R341, R342). -/

def State.eye (s : State) (n : Nat) : Eye := tget Eye.reset s.fab.eyes n
def State.setEye (s : State) (n : Nat) (x : Eye) : State := { s with fab := { s.fab with eyes := tset Eye.reset s.fab.eyes n x } }

/-- Whether a monitor exists (R341). -/
def eyeExists (n : Nat) : Bool := n < 12 || (16 ≤ n && n < 71)

/-- The comptroller's interrupt line from the monitors (R341). (DESIGN CHOICE, log 93.) -/
def eyeIrq (s : State) : State := { s with fab := { s.fab with irq := s.fab.eyes.any (fun p => p.2.low && p.2.ie) } }

/-- REPAIR: the worst lane moves to a spare if one is left; then as RTRN (R341, R342). -/
def eyeRepair (s : State) (n : Nat) : State :=
  let x := s.eye n
  s.setEye n { x with used := if x.used < spares n then x.used + 1 else x.used, hold := true }

/-- RTRN (R342). -/
def eyeRetrain (s : State) (n : Nat) : State := s.setEye n { s.eye n with hold := true }

/-- A store to EYEMONn (R341). -/
def writeEye (s : State) (n : Nat) (v : Word) : State :=
  let x := s.eye n
  let s1 := eyeIrq (s.setEye n { x with wthr := fld v 8 8, ie := bit v 0, low := x.low && !bit v 1 })
  if bit v 3 then eyeRepair s1 n else if bit v 2 then eyeRetrain s1 n else s1

/-- EYE_MARGIN_LOW: the group's worst lane is measured; below the threshold LOW is set and recorded (R341). -/
def execEyeMarginLow (n ew eh lane : Nat) (s : State) : Out :=
  if !eyeExists n then .next s
  else
    let x := { s.eye n with ew := ew, eh := eh, lane := lane }
    if ew < 4 * x.wthr then
      let y := { x with low := true }
      .next (eyeIrq ((s.setEye n y).traceSys 3 n (eyeWord n y) 0))
    else .next (s.setEye n x)

/-- RETRAIN_HOLD_END (R342). -/
def execRetrainHoldEnd (n : Nat) (s : State) : Out := if eyeExists n then .next (s.setEye n { s.eye n with hold := false }) else .next s

/-! The capacity-compressed store (R340). -/

def ccsEn (s : State) : Bool := bit s.fab.ccsctl 63

/-- 512-B chunks of the region, and those in use (R340). -/
def ccsTotal (s : State) : Nat := fld s.fab.ccsctl 0 8 * 4096
def ccsUsed (s : State) : Nat := (s.fab.ccsChunks.map (fun p => p.2.length)).foldl (· + ·) 0

/-- CCSCTL as read, with FREE (R340). -/
def readCcsctl (s : State) : Word :=
  wordOf (s.fab.ccsctl.toNat + (if ccsTotal s = 0 then 0 else min 255 ((ccsTotal s - ccsUsed s) * 256 / ccsTotal s)) * 256)

/-- A store to CCSCTL (R340). -/
def writeCcsctl (s : State) (v : Word) : State :=
  let en := bit v 63 && (ccsEn s || !anyThread s)
  let body := v.toNat % 2 ^ 56 / 2 ^ 21 * 2 ^ 21 + v.toNat % 256
  let s1 := { s with fab := { s.fab with ccsctl := wordOf (body + (if en then 2 ^ 63 else 0)) } }
  if en then s1 else { s1 with fab := { s1.fab with ccsBlocks := [], ccsChunks := [] } }

/-- The chunks a block takes of those its compressed form asks for (R340). -/
def ccsNeeds (chunks : Nat) : Nat := max 1 (min 8 chunks)

/-- Whether a block that asks for a number of chunks finds them free, its own included (R340). -/
def ccsFits (s : State) (block chunks : Nat) : Bool :=
  ccsEn s && block < 262144 && ccsUsed s - (tget [] s.fab.ccsChunks block).length + ccsNeeds chunks ≤ ccsTotal s

/-- Whether the store takes a write of a whole block (R340). -/
def ccsTakes (s : State) (block : Nat) (data : List Byte) (chunks : Nat) : Bool := ccsFits s block chunks && data.length == 4096

/-- The key of a chunk of the region (R340). -/
def ccsKey (s : State) (i : Nat) : Nat := keyOf s.modid (fld s.fab.ccsctl 21 35 * 2 ^ 21) + 512 * i

/-- The chunks that a block is placed in: free ones, from one that is the hardware's choice (R340). (DESIGN CHOICE, log 114.) -/
def ccsChoose (s : State) (block n : Nat) : List Nat :=
  let m := ccsTotal s
  let used := (s.fab.ccsChunks.filter (fun p => p.1 != block)).flatMap (fun p => p.2)
  (((List.range m).map (fun i => (s.pick.1 + i) % m)).filter (fun i => !used.contains i)).take n

/-- The compressed form of a block in `n` chunks. -/
def ccsImage (data : List Byte) (n : Nat) : List Byte := (List.range (512 * n)).map (Config.ccsByte data)

/-- A write of a whole block (R340): its compressed form goes into chunks of the region. Where the store does not take it, the block keeps its
contents. -/
def ccsWrite (s : State) (block : Nat) (data : List Byte) (chunks : Nat) : State :=
  if ccsTakes s block data chunks then
    let l := ccsChoose s block (ccsNeeds chunks)
    let s1 : State := { s.pick.2 with fab := { s.fab with ccsBlocks := tins s.fab.ccsBlocks block data, ccsChunks := tins s.fab.ccsChunks block l } }
    l.zipIdx.foldl (fun t p => t.putClear (ccsKey s p.1) (((ccsImage data l.length).drop (512 * p.2)).take 512)) s1
  else s

/-- A block as the window shows it (R340): zeros if it was never written; what its chunks hold, decompressed. -/
def ccsBlock (s : State) (block : Nat) : List Byte :=
  match tget [] s.fab.ccsBlocks block with
  | [] => List.replicate 4096 0
  | data =>
    let l := tget [] s.fab.ccsChunks block
    let img := l.flatMap (fun i => bytesAt s.mem (ccsKey s i) 512)
    if img = ccsImage data l.length then data else (List.range 4096).map (Config.ccsExpand img)

/-- Bytes of the window (R340). -/
def ccsRead (s : State) (o n : Nat) : Nat := leNat (((ccsBlock s (o / 4096)).drop (o % 4096)).take n)

/-- The chunks that a block will ask for at the comptroller's next store to it (R340): the compressor's own. (DESIGN CHOICE, log 114.) -/
def ccsAsks (s : State) : Nat := s.pick.1 % 8 + 1

/-- A store of `n` bytes to the window (R340): it fills the whole block, whose other bytes stay as they read. -/
def ccsStore (s : State) (o n : Nat) (v : Word) : State :=
  let old := ccsBlock s (o / 4096)
  ccsWrite s.pick.2 (o / 4096) (old.take (o % 4096) ++ leBytes n v.toNat ++ old.drop (o % 4096 + n)) (ccsAsks s)

end Sys2Proof.Machine
end

