-- ==== Sys2Proof/Machine/Sm3.lean ====
section
/-! DEFINITION. The SM3 digest, which the manual names (R361-R364) and does not define: the function of the Chinese national standard GB/T 32905, PRESUMED (log 8). -/

namespace Sys2Proof.Sm3

/-- A 32-bit word. -/
abbrev W32 := BitVec 32

/-- The chaining value. -/
structure V where
  a : W32
  b : W32
  c : W32
  d : W32
  e : W32
  f : W32
  g : W32
  h : W32
  deriving DecidableEq, Repr

def iv : V := ⟨0x7380166f, 0x4914b2b9, 0x172442d7, 0xda8a0600, 0xa96f30bc, 0x163138aa, 0xe38dee4d, 0xb0fb0e4e⟩

def p0 (x : W32) : W32 := x ^^^ x.rotateLeft 9 ^^^ x.rotateLeft 17
def p1 (x : W32) : W32 := x ^^^ x.rotateLeft 15 ^^^ x.rotateLeft 23

def ff (j : Nat) (x y z : W32) : W32 := if j < 16 then x ^^^ y ^^^ z else (x &&& y) ||| (x &&& z) ||| (y &&& z)
def gg (j : Nat) (x y z : W32) : W32 := if j < 16 then x ^^^ y ^^^ z else (x &&& y) ||| (~~~x &&& z)

/-- The next expanded word, from the sixteen before it, oldest first. -/
def expand (w : List W32) : W32 :=
  p1 (w.getD 0 0 ^^^ w.getD 7 0 ^^^ (w.getD 13 0).rotateLeft 15) ^^^ (w.getD 3 0).rotateLeft 7 ^^^ w.getD 10 0

/-- `n` rounds from round `j`, on a window of sixteen expanded words. -/
def rounds : Nat → Nat → List W32 → V → V
  | 0, _, _, v => v
  | n + 1, j, w, v =>
    let t : W32 := if j < 16 then 0x79cc4519 else 0x7a879d8a
    let ss1 := (v.a.rotateLeft 12 + v.e + t.rotateLeft (j % 32)).rotateLeft 7
    let ss2 := ss1 ^^^ v.a.rotateLeft 12
    let tt1 := ff j v.a v.b v.c + v.d + ss2 + (w.getD 0 0 ^^^ w.getD 4 0)
    let tt2 := gg j v.e v.f v.g + v.h + ss1 + w.getD 0 0
    rounds n (j + 1) (w.drop 1 ++ [expand w])
      ⟨tt1, v.a, v.b.rotateLeft 9, v.c, p0 tt2, v.e, v.f.rotateLeft 19, v.g⟩

/-- One block of sixteen words. -/
def block (v : V) (w : List W32) : V :=
  let r := rounds 64 0 w v
  ⟨v.a ^^^ r.a, v.b ^^^ r.b, v.c ^^^ r.c, v.d ^^^ r.d, v.e ^^^ r.e, v.f ^^^ r.f, v.g ^^^ r.g, v.h ^^^ r.h⟩

/-- Big-endian words of bytes. -/
def words : List Byte → List W32
  | a :: b :: c :: d :: l => BitVec.ofNat 32 (a.toNat * 2 ^ 24 + b.toNat * 2 ^ 16 + c.toNat * 2 ^ 8 + d.toNat) :: words l
  | _ => []

/-- Blocks of sixteen words. -/
def blocks : Nat → List W32 → V → V
  | 0, _, v => v
  | n + 1, ws, v => blocks n (ws.drop 16) (block v (ws.take 16))

/-- The bytes of a message with its padding. -/
def pad (m : List Byte) : List Byte :=
  let n := m.length
  m ++ [0x80] ++ List.replicate ((119 - n % 64) % 64) 0 ++ (leBytes 8 (8 * n)).reverse

/-- The four bytes of a word, the highest first. -/
def bytes (x : W32) : List Byte := (leBytes 4 x.toNat).reverse

/-- The digest of bytes: 32 bytes. -/
def digest (m : List Byte) : List Byte :=
  let p := pad m
  let v := blocks (p.length / 64) (words p) iv
  bytes v.a ++ bytes v.b ++ bytes v.c ++ bytes v.d ++ bytes v.e ++ bytes v.f ++ bytes v.g ++ bytes v.h

end Sys2Proof.Sm3
end

