-- ==== Sys2Proof/Machine/SweepEnd.lean ====
section
/-! DEFINITION. What a sweep counts and how it ends (R232, R240, R241, R244). -/

namespace Sys2Proof.Machine

/-- The address of the page a translation failure concerns, from its TRAPINFO (R305). -/
def faultVa (info : Word) : Word := wordOf (fld info 13 51 * 64)

/-- Set bits among the lowest `n`. -/
def bitCount (x : Nat) : Nat → Nat
  | 0 => 0
  | n + 1 => bitCount x n + x / 2 ^ n % 2

/-- Sets bit `t`. -/
def setBitN (x t : Nat) : Nat := if x / 2 ^ t % 2 = 1 then x else x + 2 ^ t
/-- Clears bit `t`. -/
def clrBitN (x t : Nat) : Nat := if x / 2 ^ t % 2 = 1 then x - 2 ^ t else x

/-- The status word of a sweep in a state (R241). -/
def Sweep.status (w : Sweep) (st : Nat) : Word :=
  wordOf (st * 2 ^ 60 + w.cause * 2 ^ 52 + bitNat w.ssaf * 2 ^ 51 + bitCount w.delivered w.nt * 2 ^ 34 + bitCount w.completed w.nt * 2 ^ 17 + w.failed)

/-- Bytes of one bitmap of a sweep (R232). -/
def Sweep.mapBytes (w : Sweep) : Nat := 8 * ((w.nt + 63) / 64)

/-- A tile of a sweep fails (R240): the first one's cause stands. -/
def failTile (w : Sweep) (tile cause : Nat) : Sweep :=
  { w with failed := w.failed + 1, failedTiles := w.failedTiles ++ [tile], cause := if w.failed = 0 then cause else w.cause,
           delivered := clrBitN w.delivered tile, paused := w.paused.filter (fun t => t != tile), aged := w.aged.filter (fun t => t != tile) }

/-- Changes a sweep. -/
def modSweep (s : State) (id : Nat) (f : Sweep → Sweep) : State :=
  { s with eng := { s.eng with sweeps := s.eng.sweeps.map (fun w => if w.id == id then f w else w) } }

/-- The sweep of a number. -/
def State.sweep (s : State) (id : Nat) : Option Sweep := s.eng.sweeps.find? (fun w => w.id == id)

/-- The STATE a sweep ends with, if what it waits for has happened (R240, R243, R244). -/
def Sweep.ending (w : Sweep) : Option Nat :=
  if w.endPaused then none
  else
    match w.state with
    | 0 => if bitCount w.completed w.nt + w.failed = w.nt then some (if w.failed = 0 then 1 else 3) else none
    | 4 => if w.bodies.isEmpty then some 6 else none
    | 5 => if w.bodies.isEmpty then some 7 else none
    | _ => none

/-- The end writes of the sweep state area, in order (R232). -/
def Sweep.endParts (w : Sweep) (st : Nat) : List (Word × List Byte) :=
  [(w.ssa + 16, leBytes 8 (w.status st).toNat), (w.ssa + 64, leBytes w.mapBytes w.delivered),
   (w.ssa + 64 + wordOf w.mapBytes, leBytes w.mapBytes w.completed)]

/-- On whose behalf the Mint acts for a sweep. -/
def Sweep.ctx (w : Sweep) : EngCtx := ⟨w.tenant, w.kernel, w.core, tidSlot w.tid, false⟩

/-- Whether a core is a target of a sweep (R233). -/
def Sweep.targets (w : Sweep) (c : Nat) : Bool := 16 * w.cl0 ≤ c && c < 16 * (w.cl0 + w.ncl)

/-- Block bytes of a body on a core (R36). -/
def Sweep.bodySize (w : Sweep) (s : State) (c : Nat) : Nat := max w.bsize (8 * s.nregs c)

/-- Whether a pending tile has priority (R239): its age has reached 4,096 ck. -/
def Sweep.hasAged (w : Sweep) (s : State) (t : Nat) : Bool :=
  w.pendingTile t && (w.aged.contains t || decide (Config.agePriority ≤ s.ckOf w.core - w.pendingAt t))

/-- Whether a core is left without a place for an aged tile that targets it: the next place there is reserved for the tile, and no other
creation takes it (R239). -/
def heldForTile (s : State) (c : Nat) : Bool :=
  s.eng.sweeps.any (fun v => v.targets c && !hasRoom s c (v.bodySize s c) && (List.range v.nt).any (fun u => v.hasAged s u))

/-- The walk of an address that work of a sweep has met unmapped. -/
def Sweep.walkFor (w : Sweep) (va : Word) (acc : Nat) (r : EngRef) : Walk := ⟨w.tenant, va, w.kernel, acc, w.core, tidSlot w.tid, r⟩

/-- Performs end writes until one fails: the state and the failure, its cause and address. -/
def endWrites (s : State) (x : EngCtx) : List (Word × List Byte) → State × Option (Nat × Word)
  | [] => (s, none)
  | (a, bs) :: l =>
    match writeBy s (resolveFrom s x .write) a bs with
    | .ok s1 => endWrites s1 x l
    | .error (cause, info, _) => (s, some (cause, if (faultVa info).toNat < a.toNat then a else faultVa info))

/-- Notes the status word that a sweep's future has for SWSTAT once the sweep is over (R243). -/
def noteSwept (s : State) (h v : Word) : State :=
  { s with eng := { s.eng with swept := s.eng.swept.filter (fun p => p.1 != h) ++ [(h, v)] } }

/-- The sweep is over: its count and entry are freed and its future completes (R234, R240). -/
def finishSweep (s : State) (w : Sweep) (st : Nat) : State :=
  let s1 := noteSwept (dropCount s w.env) w.h (w.status st)
  pushDone { s1 with eng := { s1.eng with sweeps := s1.eng.sweeps.filter (fun x => x.id != w.id) } } w.h (w.status st)

/-- Ends a sweep that has nothing more to wait for (R232, R240). -/
def settleSweep (s : State) (id : Nat) : State :=
  match s.sweep id with
  | none => s
  | some w =>
    match w.ending with
    | none => s
    | some st =>
      if w.ssaf then finishSweep s w st
      else
        match endWrites s w.ctx (w.endParts st) with
        | (s1, none) => finishSweep s1 w st
        | (s1, some (cause, va)) =>
          if cause = 0x06 then
            queueWalk (modSweep s1 id (fun w => { w with endPaused := true })) (w.walkFor va 1 (.sweepEnd id))
          else finishSweep s1 { w with ssaf := true, cause := if w.failed = 0 then cause else w.cause } st

/-- A tile fails with a cause: counted, recorded and reported (R240, R286). -/
def failTileAt (s : State) (id tile cause : Nat) (addr : Word) : State :=
  match s.sweep id with
  | none => s
  | some w =>
    settleSweep (engFault (modSweep s id (fun w => failTile w tile cause)) w.core (tidSlot w.tid) w.tid cause 3 w.h addr) id

/-- A body has retired (R240, R244): its tile is completed, failed, or, of a suspending sweep, discarded. (DEDUCED, log 88.) -/
def bodyEnded (s : State) (id tile : Nat) (exited : Bool) (cause : Nat) : State :=
  match s.sweep id with
  | none => s
  | some w =>
    let drop (w : Sweep) : Sweep := { w with bodies := w.bodies.filter (fun b => b.tile != tile) }
    if exited then settleSweep (modSweep s id (fun w => { drop w with completed := setBitN w.completed tile })) id
    else if w.state = 5 then settleSweep (modSweep s id drop) id
    else failTileAt (modSweep s id drop) id tile cause 0

end Sys2Proof.Machine
end

