-- ==== Sys2Proof/Machine/Treasury.lean ====
section
/-! DEFINITION. The Treasury's registers: queue pages and their commands (R313-R318, R331, R372), the software wait list (R328), sweep suspension (R326) and the event ring's head (R333). -/

namespace Sys2Proof.Machine

/-- The writable bits of QCFG (R315). -/
def qcfgMask : Nat :=
  63 * 2 ^ 48 + 127 * 2 ^ 40 + 65535 * 2 ^ 24 + 31 * 2 ^ 16 + 7 * 2 ^ 8 + 7 * 2 ^ 2 + 1

/-- A device-launch queue (R313). -/
def isDevQueue (q : Nat) : Bool := 1016 ≤ q

/-- Halts a queue and writes its event (R316, R330, R333). -/
def haltQueue (s : State) (q err cause : Nat) : State :=
  let x := s.queue q
  let wide := if x.pkt.isEmpty then x.wide else bit (x.word 0) 8
  let s1 := s.setQueue q { x with state := 4, err := err, cause := cause, pkt := [], wasBlocked := false, wide := wide, haltPend := none, dlDone := false }
  tevEvent s1 2 err x.tslot 0 q (wordOf x.off) 0

/-- Whether the fetched packet is held for ORDB alone (R319): its queue is at a boundary. -/
def heldByOrdb (x : Queue) : Bool := !x.wasBlocked && bit (x.word 0) 9 && x.live != 0

/-- A fault of the queue's work halts it with ERR 3 at its next packet boundary (R317, R320): now, or once the packet it reads
has started or the wait it is blocked at has ended. -/
def haltAtBoundary (s : State) (q cause : Nat) : State :=
  let x := s.queue q
  if x.state = 1 || x.state = 2 || x.state = 3 then
    if (x.pkt.isEmpty && !x.wasBlocked) || heldByOrdb x then haltQueue s q 3 cause else s.setQueue q { x with haltPend := some cause }
  else s

/-! What a teller may fetch (R318, R319, R325). -/

/-- Reads a 64-B slot of a queue's ring as plain reads in the tenant's context, in user mode (R304, R319). -/
def readSlot (s : State) (x : Queue) (i : Nat) : Except (Nat × Word × Nat) (List Word) :=
  match readBy s (resolveOut s x.tslot .read) (x.ring + wordOf (64 * (i % 2 ^ x.log2n))) 64 with
  | .ok bs => .ok (wordsOf 8 bs)
  | .error e => .error e

/-- Slots the Treasury may read (R318). -/
def Queue.avail (x : Queue) : Nat := (x.tail + 2 ^ 32 - x.head) % 2 ^ 32

/-- Whether the packet at QHEAD may be fetched: its slots are rung, where one whose header asks for a second slot waits for both, and
it may start: one that asks for ORDB waits until no packet of its queue is live (R319, R325). -/
def fetchable (s : State) (x : Queue) : Bool :=
  x.state = 1 && x.pkt.isEmpty && !x.wasBlocked && 0 < x.avail &&
  (match readSlot s x x.head with
    | .ok ws => (1 < x.avail || !bit (dsc ws 0) 8 || (x.head + 1) % 2 ^ x.log2n = 0) && (!bit (dsc ws 0) 9 || x.live = 0)
    | .error _ => true)

/-- Whether a configuration is refused at enabling (R315). -/
def badConfig (s : State) (x : Queue) : Bool :=
  !bit (s.ten x.tslot 0) 0 || 64 < x.func || x.log2n < 6 || 20 < x.log2n || x.pmax < x.pri

/-- QCFG_WRITE (R314, R315). -/
def writeQcfg (s : State) (q : Nat) (v : Word) : State :=
  let x := s.queue q
  let nv := v &&& wordOf qcfgMask
  let open_ := x.state = 0 || x.state = 6 || (x.state = 4 && x.err = 1)
  if open_ then
    let y := { x with cfg := nv }
    if bit nv 0 then
      let z := { y with head := 0, tail := 0, cause := 0, epri := y.pri, kill := false, pkt := [], wasBlocked := false, suspPend := false,
                        wide := false, readyAt := s.time }
      if badConfig s y then haltQueue (s.setQueue q z) q 1 0
      else s.setQueue q { z with state := 1, err := 0 }
    else
      let z := if y.pri = x.pri then y else { y with epri := y.pri, readyAt := s.time }
      if x.state = 4 then s.setQueue q { z with state := 0, err := 0 } else s.setQueue q z
  else
    let keep := wordOf (65535 * 2 ^ 24 + 7 * 2 ^ 8 + 7 * 2 ^ 2)
    let y := { x with cfg := (x.cfg &&& ~~~keep) ||| (nv &&& keep) }
    if y.pri = x.pri then s.setQueue q y else s.setQueue q { y with epri := y.pri, readyAt := s.time }

/-- A store to QRING (R314). -/
def writeQring (s : State) (q : Nat) (v : Word) : State :=
  let x := s.queue q
  if x.state = 0 || x.state = 6 || (x.state = 4 && x.err = 1) then s.setQueue q { x with ring := v &&& ~~~4095 } else s

/-- Whether a party may ring a queue's doorbell (R318). -/
def doorParty (s : State) (x : Queue) (p : Party) : Bool :=
  let id := s.tenId x.tslot
  match p with
  | .comptroller => true
  | .teller => false
  | .func f => f == 0 || f == x.func
  | .core c => id != 0 && s.tenantOf c == id
  | .remote m t => id != 0 && t == id && fld (s.ten x.tslot 6) 0 10 ≤ m && m ≤ fld (s.ten x.tslot 6) 16 10

/-- QDOOR (R318). -/
def ringDoor (s : State) (p : Party) (q : Nat) (v : Word) : State :=
  let x := s.queue q
  let ok := v.toNat < 2 ^ 32 && x.en && 1 ≤ x.state && x.state ≤ 4 && doorParty s x p
            && (v.toNat + 2 ^ 32 - x.head) % 2 ^ 32 ≤ 2 ^ x.log2n
  if ok then s.setQueue q { x with tail := v.toNat, readyAt := if x.tail = x.head then s.time else x.readyAt }
  else s.setQueue q { x with dberr := true }

/-- Whether a queue stands at a packet boundary (R317). -/
def atBoundary (x : Queue) : Bool := x.pkt.isEmpty || x.wasBlocked || heldByOrdb x

/-- SUSPEND (R317, R372). -/
def suspendQueue (s : State) (q : Nat) : State :=
  let x := s.queue q
  if x.state = 2 then s.setQueue q { x with state := 3 }
  else if x.state = 1 then
    if atBoundary x then s.setQueue q { x with state := 3, pkt := [] } else s.setQueue q { x with suspPend := true }
  else s

/-- What RESUME leaves a queue in (R317, R372): waiting, running, or past a packet whose slots are all satisfied. -/
def resumed (s : State) (q : Nat) (x : Queue) : State :=
  let y := { x with err := 0, cause := 0, dberr := false, suspPend := false, wide := false, readyAt := s.time }
  let waiting := s.tr.slots.filter (fun w => w.q == q)
  if x.wasBlocked then
    if waiting.all (fun w => w.done) then settleQueue (s.setQueue q { y with state := 1 }) q
    else s.setQueue q { y with state := 2 }
  else s.setQueue q { y with state := 1, pkt := [] }

/-- RESUME (R317). -/
def resumeQueue (s : State) (q : Nat) : State :=
  let x := s.queue q
  if x.state = 3 || (x.state = 4 && x.err != 1) then resumed s q x else s

/-! The software wait list (R328). -/

/-- The key of word `w` of entry `i` of the list (R328). -/
def listKey (s : State) (i w : Nat) : Nat := keyOf s.modid (s.tr.wlbase.toNat + 32 * i + 8 * w)

/-- Clears the list entries of a queue (R331). -/
def clearEntries (s : State) (q : Nat) : State :=
  if s.tr.slots.any (fun w => w.q == q && w.onList && !w.done) then
    (List.range 4096).foldl (fun s i =>
      if bit (s.w64 (listKey s i 3)) 0 && fld (s.w64 (listKey s i 2)) 0 10 == q then s.put (listKey s i 3) (leBytes 8 0) else s) s
  else s

/-- A queue's waits end: its slots and its list entries are freed (R329, R331). -/
def dropWaits (s : State) (q : Nat) : State :=
  let t := clearEntries s q
  { t with tr := { t.tr with slots := t.tr.slots.filter (fun w => w.q != q) } }

/-- SKIP (R317): one slot, or two for a 128-B packet whose header was read; of a queue suspended while blocked, it ends the wait, whose
packet QHEAD has passed (R329). (DEDUCED, log 25.) -/
def skipQueue (s : State) (q : Nat) : State :=
  let x := s.queue q
  if isDevQueue q then s
  else if x.state = 4 && x.err != 1 then resumed s q { x with head := (x.head + (if x.wide then 2 else 1)) % 2 ^ 32 }
  else if x.state = 3 && x.wasBlocked then resumed (dropWaits s q) q { x with wasBlocked := false, pkt := [], live := x.live - 1, dlDone := false }
  else s

/-- DESTROY (R331): STATE and KILL now; the destruction at the next boundary. `readyAt` keeps the TIME of the first one, since a wait
satisfied in the same moment completes (R332). (DEDUCED, log 26.) -/
def destroyQueue (s : State) (q : Nat) (kill : Bool) : State :=
  if isDevQueue q then s
  else
    let x := s.queue q
    s.setQueue q { x with state := 5, kill := x.kill || kill, readyAt := if x.state = 5 then x.readyAt else s.time }

/-- A store to QCTL (R317). -/
def writeQctl (s : State) (q : Nat) (v : Word) : State :=
  let cmd := v.toNat % 16
  let kill := bit v 8
  if v.toNat != cmd + 256 * bitNat kill || (kill && cmd != 4) then s
  else
    match cmd with
    | 1 => suspendQueue s q
    | 2 => resumeQueue s q
    | 3 => skipQueue s q
    | 4 => destroyQueue s q kill
    | _ => s

/-- WSAT: the queue's entries on the software list whose SADDR equals the value are satisfied (R314, R328). -/
def writeWsat (s : State) (q : Nat) (v : Word) : State :=
  let a := v.toNat % 2 ^ 56
  let hit (w : WaitSlot) : Bool := w.onList && w.q == q && w.pa == a
  settleQueue { s with tr := { s.tr with slots := s.tr.slots.map (fun w => if hit w then { w with done := true } else w) } } q

/-- A register of a queue page as read (R314-R316). -/
def readQueue (s : State) (q o : Nat) : Word :=
  let x := s.queue q
  match o with
  | 0x00 => x.cfg
  | 0x08 => x.ring
  | 0x10 => wordOf x.head
  | 0x18 => wordOf x.tail
  | 0x20 => x.qstat
  | 0x28 => wordOf x.live
  | _ => 0

/-- A store to a queue page by a party that may make it (R314). -/
def writeQueue (s : State) (p : Party) (q o : Nat) (v : Word) : State :=
  match o with
  | 0x00 => writeQcfg s q v
  | 0x08 => writeQring s q v
  | 0x40 => ringDoor s p q v
  | 0x48 => writeQctl s q v
  | 0x50 => writeWsat s q v
  | _ => s

/-- Whether a queue page refuses a store (R313, R314). -/
def queueRefuses (p : Party) (q o : Nat) : Bool :=
  let policy := match p with
    | .core _ | .remote _ _ => true
    | .func f => f != 0
    | _ => false
  match o with
  | 0x00 | 0x08 | 0x50 => policy || isDevQueue q
  | 0x48 => policy
  | 0x40 => isDevQueue q
  | 0x10 | 0x18 | 0x20 | 0x28 => false
  | _ => true

/-! SWSUSP (R326, R244). -/

/-- Whether a sweep belongs to a tenant slot's ID by its issuing core (R326). -/
def sweepOf (s : State) (slot : Nat) (w : Sweep) : Bool := s.tenId slot != 0 && s.tenantOf w.core == s.tenId slot

/-- GO: every accepted running sweep of the tenant becomes suspending (R244). -/
def suspendSweeps (s : State) (slot : Nat) : State :=
  let hit (w : Sweep) : Bool := sweepOf s slot w && (w.state == 0 || w.state == 4)
  let s1 := { s with eng := { s.eng with sweeps := s.eng.sweeps.map (fun w => if hit w then { w with state := 5 } else w) } }
  (s.eng.sweeps.filter hit).foldl (fun s w => settleSweep s w.id) s1

/-- SWSUSP as read (R326). -/
def readSwsusp (s : State) : Word :=
  wordOf ((s.eng.sweeps.filter (fun w => w.state == 5 && sweepOf s s.tr.swtslot w)).length * 2 ^ 32 + s.tr.swtslot)

/-- A store to SWSUSP. -/
def writeSwsusp (s : State) (v : Word) : State :=
  let s1 := { s with tr := { s.tr with swtslot := v.toNat % 64 } }
  if bit v 8 then suspendSweeps s1 (v.toNat % 64) else s1

/-- A store to TEVHEAD (R333). -/
def writeTevhead (s : State) (v : Word) : State :=
  let n := v.toNat % 2 ^ 32
  if (n + 2 ^ 32 - s.tr.tevhead) % 2 ^ 32 ≤ (s.tr.tevtail + 2 ^ 32 - s.tr.tevhead) % 2 ^ 32 then { s with tr := { s.tr with tevhead := n } }
  else s

/-- A store to EFHEAD (R307). -/
def writeEfhead (s : State) (v : Word) : State :=
  let n := v.toNat % 2 ^ 32
  if (n + 2 ^ 32 - s.xl.efhead) % 2 ^ 32 ≤ (s.xl.eftail + 2 ^ 32 - s.xl.efhead) % 2 ^ 32 then postHeld { s with xl := { s.xl with efhead := n } }
  else s

/-- A store to EFBASE (R307). -/
def writeEfbase (s : State) (v : Word) : State :=
  postHeld { s with xl := { s.xl with efbase := wordOf (v.toNat % 2 ^ 56 / 2 ^ 15 * 2 ^ 15) } }

/-- The walks of waiting engine work, queued again (R307). -/
def rewalk (s : State) (r : EfRec) : List Walk :=
  let inf (e : EngRef) : Bool × Nat × Nat :=
    match e with
    | .copy id => match s.eng.copies.find? (fun c => c.id == id) with | some c => (c.kernel, c.core, tidSlot c.tid) | none => (false, 0, 0)
    | .array n h => match s.arrRun n h with | some a => (a.cmd.kernel, a.cmd.core, a.cmd.slot) | none => (false, 0, 0)
    | .tile w _ | .sweepEnd w => match s.eng.sweeps.find? (fun x => x.id == w) with | some x => (x.kernel, x.core, tidSlot x.tid) | none => (false, 0, 0)
  (r.waiters.filter (fun e => s.waits e.1)).map (fun e => ⟨r.tenant, r.va, (inf e.1).1, e.2, (inf e.1).2.1, (inf e.1).2.2, e.1⟩)

/-- The unanswered record of a token (R307). -/
def efRec (s : State) (token : Nat) : Option EfRec := s.xl.recs.find? (fun r => r.token == token)

/-- Changes a copy. -/
def modCopy (s : State) (id : Nat) (f : Copy → Copy) : State :=
  { s with eng := { s.eng with copies := s.eng.copies.map (fun c => if c.id == id then f c else c) } }

/-- Changes a cluster's running array command, if a handle names it. -/
def modArr (s : State) (n : Nat) (h : Word) (f : ArrRun → ArrRun) : State :=
  match s.arrRun n h with
  | some a => s.setClu n { s.clu n with arr := some (f a) }
  | none => s

/-- Waiting engine work goes on (R204, R224, R239, R232). -/
def resumeEng (s : State) (r : EngRef) : State :=
  match r with
  | .copy id => modCopy s id (fun c => { c with paused := false })
  | .array n h => modArr s n h (fun a => { a with paused := false, again := true })
  | .tile w t => modSweep s w (fun x => { x with paused := x.paused.filter (fun y => y != t), since := (t, s.ckOf x.core) :: x.since.filter (fun y => y.1 != t) })
  | .sweepEnd w => settleSweep (modSweep s w (fun x => { x with endPaused := false })) w

/-- Waiting engine work ends with a cause (R204, R221, R240, R232). -/
def endEng (s : State) (r : EngRef) (cause : Nat) (va : Word) : State :=
  match r with
  | .copy id => modCopy s id (fun c => { c with paused := false, fault := some (cause, va) })
  | .array n h => modArr s n h (fun a => { a with paused := false, ended := some (3, cause, 0, va) })
  | .tile w t => failTileAt s w t cause va
  | .sweepEnd w => settleSweep (modSweep s w (fun x => { x with endPaused := false, ssaf := true, cause := if x.failed = 0 then cause else x.cause })) w

/-- ACTION 1: every waiting engine translates again (R307). -/
def efResolve (s : State) (token : Nat) : State :=
  match efRec s token with
  | some r =>
    (rewalk s r).foldl queueWalk { s with xl := { s.xl with recs := s.xl.recs.filter (fun x => x.token != token) } }
  | none => s

/-- ACTION 2: every waiting engine ends its work with cause 0x06 (R307). -/
def efUnresolvable (s : State) (token : Nat) : State :=
  match efRec s token with
  | some r => r.waiters.foldl (fun s e => endEng s e.1 0x06 r.va) { s with xl := { s.xl with recs := s.xl.recs.filter (fun x => x.token != token) } }
  | none => s

/-- A store to EFRESP (R307). -/
def writeEfresp (s : State) (v : Word) : State :=
  match fld v 32 2 with
  | 1 => efResolve s (v.toNat % 2 ^ 32)
  | 2 => efUnresolvable s (v.toNat % 2 ^ 32)
  | _ => s

end Sys2Proof.Machine
end

