-- ==== Sys2Proof/Machine/Security.lean ====
section
/-! DEFINITION. The security block: images and their verification (R361), SPDM (R362, R363), live update (R364, R370, R371), and bring-up (R365, R366). -/

namespace Sys2Proof.Machine

/-! Images. The places of the copies in boot flash are the model's (log 5). -/

/-- Offset of loader copy 0 or 1 in boot flash. -/
def loaderAt (i : Nat) : Nat := 0x400000 * i
/-- Offset of firmware slot 0 (A) or 1 (B) in boot flash. -/
def slotAt (i : Nat) : Nat := 0x800000 + 0x1000000 * i

/-- A number of `n` bytes of boot flash. -/
def flashNat (s : State) (o n : Nat) : Nat := natAt s.sec.bootFlash o n
/-- Bytes of boot flash. -/
def flashBytes (s : State) (o n : Nat) : List Byte := bytesAt s.sec.bootFlash o n

/-- Digest of bytes as a number, its bytes in digest order (R370). -/
def sm3Nat (bs : List Byte) : Nat := leNat (Sm3.digest bs)

/-- LEN of the image at an offset (R361). -/
def imgLen (s : State) (o : Nat) : Nat := flashNat s (o + 0x10) 8

/-- Whether the header of the image at an offset of a region of `size` bytes is in order (R361). -/
def headerOk (s : State) (o size : Nat) : Bool :=
  flashNat s o 4 == 0x4D395846 && flashNat s (o + 4) 4 == 1
  && flashNat s (o + 0x2C) 20 == 0 && flashNat s (o + 0xA0) 32 == 0 && flashNat s (o + 0x100) 256 == 0
  && imgLen s o ≤ size - 512 && flashNat s (o + 0x18) 8 % 32 == 0 && flashNat s (o + 0x28) 4 ≤ 1

/-- The digest DIGEST must equal: header bytes 0 to 0xBF, DIGEST zeroed, and the body (R361). -/
def imgDigest (s : State) (o : Nat) : Nat :=
  sm3Nat (flashBytes s o 0x80 ++ List.replicate 32 0 ++ flashBytes s (o + 0xA0) 32 ++ flashBytes s (o + 512) (imgLen s o))

/-- VRES of the image at an offset (R361, R364): 1 good. (DEDUCED, log 73.) -/
def verifyImg (s : State) (o size : Nat) : Nat :=
  let key := flashBytes s (o + 0x40) 64
  if !headerOk s o size then 5
  else if sm3Nat key != Config.fusedKeyDigest (flashNat s (o + 0x28) 4) then 6
  else if flashNat s (o + 0x80) 32 != imgDigest s o then 2
  else if !Config.sm2Verify (leNat key) (flashNat s (o + 0x80) 32) (flashNat s (o + 0xC0) 64) then 3
  else if flashNat s (o + 0xC) 4 < Config.fusedSvn () then 4
  else 1

/-- VRES of firmware slot `i`. -/
def verifySlot (s : State) (i : Nat) : Nat := verifyImg s (slotAt i) 0x1000000

/-- The measurement of slot `i` (R363): its header and LEN body bytes. -/
def measure (s : State) (i : Nat) : Nat := sm3Nat (flashBytes s (slotAt i) (512 + min (imgLen s (slotAt i)) 0xFFFE00))

/-- Records a slot's measurement (R363). -/
def setMeas (s : State) (i : Nat) : State :=
  if i = 0 then { s with sec := { s.sec with measA := measure s 0 } } else { s with sec := { s.sec with measB := measure s 1 } }

/-- IMGVER of a slot's image. -/
def imgVer (s : State) (i : Nat) : Nat := flashNat s (slotAt i + 8) 4 % 65536

/-- The pieces of `n` bytes from a physical address, which the interleaved view of HBM spreads over the channels (R55). -/
def paPieces (s : State) (a n : Nat) : List (Nat × Nat) :=
  match resolvePieces (fun ea => .ok (keyOf s.modid ea.toNat)) (pieceFuel n) (wordOf a) n with
  | .ok l => l
  | .error _ => []

/-- `n` bytes from a physical address. -/
def paBytes (s : State) (a n : Nat) : List Byte := piecesBytes s (paPieces s a n)

/-- Whether a line of `n` bytes from a physical address is poisoned (R153). -/
def paPoisoned (s : State) (a n : Nat) : Bool := (paPieces s a n).any (fun p => s.poisonedIn p.1 p.2)

/-- Places a slot's image in memory and starts the seven cores at its ENTRY (R364, R365). -/
def startImage (s : State) (i : Nat) (w0 w1 : Word) : State :=
  let base := Config.fwBase i
  let s1 := putPieces s (paPieces s base (imgLen s (slotAt i))) (flashBytes s (slotAt i + 512) (imgLen s (slotAt i)))
  startTreasury (stopTreasury s1) (wordOf (base + flashNat s (slotAt i + 0x18) 8)) w0 w1

/-! Live update. -/

/-- FWSTAT (R364). -/
def fwstat (x : SecSt) : Word :=
  wordOf (x.sres * 2 ^ 60 + x.imgver % 65536 * 2 ^ 32 + x.vres * 2 ^ 12 + x.vslot * 2 ^ 8 + x.state * 16 + x.active)

/-- Whether FWVERIFY and FWSWITCH are ignored (R371). -/
def fwBusy (x : SecSt) : Bool := x.state == 1 || x.state == 2 || x.state == 3

/-- Physical address of HOCOPY (R370). -/
def hocopyPa : Nat := 0x018000180000

/-- Whether the region FWDIG names is legal (R370). -/
def digRegionOk (x : SecSt) (a : Nat) : Bool :=
  x.fwdigl % 64 == 0 && 64 ≤ x.fwdigl && x.fwdigl ≤ 65536
  && (a + x.fwdigl ≤ Config.hbmBytes || (Config.directBase ≤ a && a + x.fwdigl ≤ Config.directBase + Config.hbmBytes))

/-- A store to FWDIG (R370, R371). -/
def writeFwdig (s : State) (v : Word) : State :=
  let x := s.sec
  let a := v.toNat % 2 ^ 56 / 64 * 64
  if x.digBusy then s
  else if digRegionOk x a then { s with sec := { x with digBusy := true, digBad := false, digAddr := a, digLen := x.fwdigl } }
  else { s with sec := { x with digBad := true } }

/-- A store to FWVERIFY (R371). -/
def writeFwverify (s : State) (v : Word) : State :=
  if fwBusy s.sec then s else { s with sec := { s.sec with state := 1, vres := 0, vslot := v.toNat % 2 } }

/-- A store to FWSWITCH (R371). -/
def writeFwswitch (s : State) (v : Word) : State :=
  if fwBusy s.sec then s
  else { s with sec := { s.sec with sres := 0, state := 2, swAddr := v.toNat / 64 * 64, swTarget := v.toNat % 2 } }

/-- Whether a first heartbeat still counts (R364). -/
def inHeartbeat (s : State) : Bool := !timeGe s.time (s.sec.startTime + wordOf (s.sec.fwhbt * 65536000))

/-- A store to FWHB (R364). -/
def writeFwhb (s : State) : State :=
  if s.sec.state = 3 && inHeartbeat s then
    { s with sec := { s.sec with active := s.sec.swTarget, state := 0, imgver := imgVer s s.sec.swTarget } }
  else s

/-- A store to an update register at offset `o` by the comptroller (R364, R370). (DEDUCED, log 72.) -/
def writeUpdate (s : State) (o : Nat) (v : Word) : State :=
  match o with
  | 0x08 => writeFwverify s v
  | 0x10 => writeFwswitch s v
  | 0x18 => writeFwhb s
  | 0x20 => { s with sec := { s.sec with fwhbt := v.toNat % 2 ^ 32 } }
  | 0x28 => { s with sec := { s.sec with fwsel := v.toNat % 2 } }
  | 0x30 => writeFwdig s v
  | 0x38 => { s with sec := { s.sec with fwdigl := v.toNat % 2 ^ 17 } }
  | _ => s

/-- A 64-bit word of a digest. -/
def digWord (d i : Nat) : Word := wordOf (d / 2 ^ (64 * i))

/-- An update register (R364, R370). -/
def readUpdate (s : State) (o : Nat) : Word :=
  match o with
  | 0x00 => fwstat s.sec
  | 0x20 => wordOf s.sec.fwhbt
  | 0x28 => wordOf s.sec.fwsel
  | 0x38 => wordOf s.sec.fwdigl
  | 0x40 => wordOf (2 * bitNat s.sec.digBad + bitNat s.sec.digBusy)
  | _ =>
    if 0x60 ≤ o ∧ o < 0x80 then digWord s.sec.fwdigr ((o - 0x60) / 8)
    else if 0x80 ≤ o ∧ o < 0xA0 then digWord s.sec.measA ((o - 0x80) / 8)
    else if 0xA0 ≤ o ∧ o < 0xC0 then digWord s.sec.measB ((o - 0xA0) / 8)
    else 0

/-- FWVERIFY_DONE (R371): the measurement, then VRES, then STATE 0. -/
def execFwverifyDone (s : State) : Out :=
  if s.sec.state = 1 then
    let i := s.sec.vslot
    let r := verifySlot s i
    let s1 := setMeas s i
    .next { s1 with sec := { s1.sec with vres := r, state := 0, goodA := if i = 0 then r == 1 else s1.sec.goodA,
                                         goodB := if i = 1 then r == 1 else s1.sec.goodB } }
  else .next s

/-- FWDIG_DONE (R371). -/
def execFwdigDone (s : State) : Out :=
  if s.sec.digBusy then
    if paPoisoned s s.sec.digAddr s.sec.digLen then .next { s with sec := { s.sec with digBusy := false, digBad := true } }
    else .next { s with sec := { s.sec with digBusy := false, fwdigr := sm3Nat (paBytes s s.sec.digAddr s.sec.digLen) } }
  else .next s

/-- Whether the handover structure at a physical address can be read (R364). -/
def handoverReadable (s : State) (a n : Nat) : Bool :=
  (paPieces s a n).all (fun p =>
    (match placeOf p.1 with | .hbm _ | .sram _ _ | .cxl => true | _ => false) && backed s p.1 && backed s (p.1 + p.2 - 1) && !s.poisonedIn p.1 p.2)

/-- SRES of a switch (R364): 1 when it is accepted. -/
def switchRes (s : State) : Nat :=
  let x := s.sec
  let at_ (o n : Nat) : Nat := leNat (paBytes s (x.swAddr + o) n)
  let hoin := flashNat s (slotAt x.swTarget + 0x20) 4
  let ver := at_ 0 2
  let len := at_ 8 8
  if !(if x.swTarget = 0 then x.goodA else x.goodB) then 2
  else if 2 ^ 56 ≤ x.swAddr || !handoverReadable s x.swAddr 64 then 5
  else if ver < hoin % 65536 || hoin / 65536 < ver then 3
  else if len < 64 || 65536 < len || len % 64 != 0 || at_ 2 6 != 0 || at_ 48 16 != 0 then 4
  else if !handoverReadable s x.swAddr len then 5
  else if at_ 16 32 != sm3Nat (paBytes s (x.swAddr + 64) (len - 64)) then 4
  else 1

/-- FWSWITCH_DONE (R364, R371): refused with its code, or the structure is kept, the seven cores are halted, each teller at a
packet boundary, and the target image starts. -/
def execFwswitchDone (s : State) : Out :=
  if s.sec.state != 2 then .next s
  else
    let r := switchRes s
    if r != 1 then .next { s with sec := { s.sec with sres := r, state := 0 } }
    else if s.tr.queues.any (fun p => !atBoundary p.2) then .next s
    else
      let hc := paBytes s s.sec.swAddr (leNat (paBytes s (s.sec.swAddr + 8) 8))
      let old := s.sec.active
      let s1 := { s with sec := { s.sec with sres := 1, hocopy := hc, prev := old, state := 3, startTime := s.time } }
      let w1 := if old = s.sec.swTarget then 0 else wordOf hocopyPa
      .next (startImage s1 s.sec.swTarget (wordOf s.sec.swAddr) w1)

/-- FW_ROLLBACK (R364, R371): no first heartbeat within FWHBT µs; measurement 5 tells that the image rolled back to is not good. -/
def execFwRollback (s : State) : Out :=
  if s.sec.state = 3 && !inHeartbeat s then
    let i := s.sec.prev
    let s1 := (setMeas (stopTreasury s) i).traceSys 0 0 0 0
    let s2 := { s1 with sec := { s1.sec with state := 4 } }
    if verifySlot s i = 1 then .next (startImage s2 i (wordOf hocopyPa) 1)
    else .next { s2 with tr := { s2.tr with halted := true }, sec := { s2.sec with bootBad := true } }
  else .next s

/-! Bring-up. -/

/-- BOOTERR of its fields (R366). -/
def booterrOf (step code unit lane ew : Nat) : Word := wordOf (step * 2 ^ 60 + code * 2 ^ 56 + unit * 2 ^ 40 + lane % 65536 * 2 ^ 16 + ew % 256 * 256)

/-- The state that a power-on starts from: what outlives it is boot flash with FWSEL, what is fitted, CXL memory's
contents, and the model's own fields. -/
def powered (s : State) : State :=
  let r := State.reset
  { r with mem := s.mem.filter (fun p => match placeOf p.1 with | .cxl => true | .remote _ _ => true | _ => false)
           sec := { r.sec with bootFlash := s.sec.bootFlash, fwsel := s.sec.fwsel }
           fab := { r.fab with cxlSize := s.fab.cxlSize, flashPages := s.fab.flashPages }
           modid := s.modid, agenda := s.agenda, now := s.now, picks := s.picks }

/-- The eye that training reports for a group, and the lanes moved to spares (R341, R366): what the PHY finds is free; all spares of a group that
fails are used. (DESIGN CHOICE, log 6.) -/
def trainedEye (s : State) (bad : Bool) (n : Nat) : Eye :=
  let v (i : Nat) : Nat := Config.freeNat (s.picks + 4 * n + i)
  { Eye.reset with ew := v 0 % 1024, eh := v 1 % 1024, lane := v 2 % 65536, used := if bad then spares n else v 3 % (spares n + 1) }

/-- Every group below `hi` has been trained (R366), and group `bad` has failed. -/
def trained (s : State) (bad hi : Nat) : State :=
  { s with fab := { s.fab with eyes := ((List.range hi).filter eyeExists).map (fun n => (n, trainedEye s (n == bad) n)) }, picks := s.picks + 284 }

/-- BOOTERR of a group of R341 whose training failed at a step (R366). -/
def groupError (s : State) (step code n : Nat) : Word := booterrOf step code n (s.eye n).lane ((s.eye n).ew / 4)

/-- The link of a group of step 5 failed training: BOOTERR, and a CXL or flash port's link is down (R347, R366). -/
def linkError (s : State) (n : Nat) : State :=
  { s with sec := { s.sec with booterr := groupError s 5 4 n }
           fab := { s.fab with cxlDown := if 64 ≤ n && n < 68 then tset false s.fab.cxlDown (n - 64) true else s.fab.cxlDown
                               flashDown := if 68 ≤ n && n < 70 then tset false s.fab.flashDown (n - 68) true else s.fab.flashDown } }

/-- Step 5 packs CXL memory: the ports whose link is down take no space (R365, R367). -/
def packCxl (s : State) : State := { s with fab := { s.fab with cxlAbsent := s.fab.cxlDown } }

/-- POWER_ON (R365): a group of R341 that fails training, no good loader or no good firmware image stops bring-up. (DEDUCED, log 97.) -/
def execPowerOn (badGroup : Option Nat) (s : State) : Out :=
  let p := powered s
  let loader := (List.range 2).find? (fun i => verifyImg p (loaderAt i) 0x400000 == 1)
  let stop (x : State) (e : Word) : Out := .next { x with sec := { x.sec with booterr := e } }
  let n := badGroup.getD 71
  let t (hi : Nat) : State := trained p n hi
  if loader.isNone then stop p (booterrOf 1 2 0 0 0)
  else if n < 12 then stop (t 12) (groupError (t 12) 2 1 n)
  else if 16 ≤ n && n < 64 then stop (t 64) (groupError (t 64) 3 4 n)
  else
    let links (x : State) : Out :=
      let y := trained x n 71
      .next (packCxl (if 64 ≤ n && n < 71 then linkError y n else y))
    let a := p.sec.fwsel
    let p1 := setMeas p a
    if verifySlot p a = 1 then links (startImage { p1 with sec := { p1.sec with active := a, imgver := imgVer p a } } a 0 0)
    else
      let b := 1 - a
      let p2 := setMeas p1 b
      if verifySlot p b = 1 then links (startImage { p2 with sec := { p2.sec with active := b, imgver := imgVer p b } } b 0 0)
      else stop (trained p2 n 64) (booterrOf 5 3 0 0 0)

/-! SPDM (R363). A reply is held as its code with numbers; the codes are those of the SPDM standard, PRESUMED (log 8). -/

/-- Sets the reply of a request. -/
def spdmReply (s : State) (f : SpdmSt → SpdmSt) (r : Option (Nat × List Nat)) : Out :=
  .next { s with sec := { s.sec with spdm := { f s.sec.spdm with reply := r } } }

/-- GET_VERSION: 1.2 and 1.3; it starts a connection. -/
def execGetVersion (s : State) : Out :=
  spdmReply s (fun x => { x with version := true, caps := false, algs := false, session := 0 }) (some (0x04, [0x12, 0x13]))

/-- GET_CAPABILITIES: no pre-shared keys, no mutual authentication, no certificate setting. -/
def execGetCapabilities (s : State) : Out :=
  if s.sec.spdm.version then spdmReply s (fun x => { x with caps := true }) (some (0x61, [])) else spdmReply s id none

/-- NEGOTIATE_ALGORITHMS: SM2 P256, SM3-256 and SM4-GCM only, written 1 in the request. -/
def execNegotiateAlgorithms (asym hash aead : Nat) (s : State) : Out :=
  if s.sec.spdm.caps && asym = 1 && hash = 1 && aead = 1 then spdmReply s (fun x => { x with algs := true }) (some (0x63, [1, 1, 1]))
  else spdmReply s id none

/-- GET_DIGESTS: the digest of the chain of slot 0. -/
def execGetDigests (s : State) : Out :=
  if s.sec.spdm.algs then spdmReply s id (some (0x01, [sm3Nat (Config.certChain ())])) else spdmReply s id none

/-- GET_CERTIFICATE: bytes of the chain of slot 0 (R362). -/
def execGetCertificate (slot off len : Nat) (s : State) : Out :=
  if s.sec.spdm.algs && slot = 0 then spdmReply s id (some (0x02, (((Config.certChain ()).drop off).take len).map BitVec.toNat))
  else spdmReply s id none

/-- CHALLENGE: signed with the device key (R362). -/
def execChallenge (slot nonce : Nat) (s : State) : Out :=
  if s.sec.spdm.algs && slot = 0 then spdmReply s id (some (0x03, [sm3Nat (Config.certChain ()), Config.sm2Sign nonce])) else spdmReply s id none

/-- A measurement (R363). -/
def measurement (s : State) (i : Nat) : Nat :=
  match i with
  | 1 | 6 => Config.fusedMeasure i
  | 2 => (List.range 2).find? (fun j => verifyImg s (loaderAt j) 0x400000 == 1)
          |>.elim 0 (fun j => sm3Nat (flashBytes s (loaderAt j) (512 + imgLen s (loaderAt j))))
  | 3 => s.sec.measA
  | 4 => s.sec.measB
  | 5 => s.sec.active + 2 * flashNat s (slotAt s.sec.active + 0xC) 4 + 2 ^ 40 * s.sec.booterr.toNat + 2 ^ 104 * bitNat s.sec.bootBad
  | _ => 0

/-- GET_MEASUREMENTS: index 1 to 6, or 0xFF for all; signed. -/
def execGetMeasurements (index nonce : Nat) (s : State) : Out :=
  let is := if index = 0xFF then [1, 2, 3, 4, 5, 6] else [index]
  if s.sec.spdm.algs && is.all (fun i => 1 ≤ i && i ≤ 6) then
    spdmReply s id (some (0x60, is.map (measurement s) ++ [Config.sm2Sign nonce]))
  else spdmReply s id none

/-- KEY_EXCHANGE. -/
def execKeyExchange (share : Nat) (s : State) : Out :=
  if s.sec.spdm.algs && s.sec.spdm.session = 0 then
    spdmReply s (fun x => { x with session := 1 }) (some (0x64, [Config.spdmSecret share, Config.sm2Sign share]))
  else spdmReply s id none

/-- FINISH. -/
def execFinish (_mac : Nat) (s : State) : Out :=
  if s.sec.spdm.session = 1 then spdmReply s (fun x => { x with session := 2 }) (some (0x65, [])) else spdmReply s id none

/-- END_SESSION. -/
def execEndSession (s : State) : Out :=
  if s.sec.spdm.session = 2 then spdmReply s (fun x => { x with session := 0 }) (some (0x6C, [])) else spdmReply s id none

end Sys2Proof.Machine
end

