-- ==== Sys2Proof/Machine/Device.lean ====
section
/-! DEFINITION. Device register space: which register an offset names, which accesses it accepts (R375), what a read returns and what a store does (R8, R53), and the events that are such a store. -/

namespace Sys2Proof.Machine

/-- A register of device register space. -/
inductive DevReg
  | queue (q o : Nat) | tentab (sl w : Nat) | ef (o : Nat) | tev (o : Nat) | ecls (k : Nat) | escrow (o : Nat) | ccsctl
  | fnten (f : Nat) | time (o : Nat) | snapctl | trig (i : Nat) | booterr | update (o : Nat) | power (o : Nat) | isl (n : Nat)
  | hocopy (o : Nat) | rmemb (n : Nat) | eye (n : Nat) | cten (c : Nat) | covf (c : Nat) | snapWin (o : Nat) | cell (n : Nat)
  | ccsWin (o : Nat)
  deriving DecidableEq, Repr

/-- The register or window that holds an offset of device register space; a register has 8 bytes. -/
def devReg (off : Nat) : Option DevReg :=
  let o := off / 8 * 8
  if 0x80000000 ≤ o ∧ o < 0xC0000000 then some (.ccsWin (off - 0x80000000))
  else if 0x180000 ≤ o ∧ o < 0x190000 then some (.hocopy (off - 0x180000))
  else if 0x1000000 ≤ o ∧ o < 0x2000000 then some (.snapWin (off - 0x1000000))
  else if 0x10000000 ≤ o ∧ o < 0x14000000 then some (.queue ((o - 0x10000000) / 65536) (o % 65536))
  else if 0x40000000 ≤ o ∧ o < 0x40080000 then some (.cell ((o - 0x40000000) / 8))
  else if 0x100000 ≤ o ∧ o < 0x101000 then some (.tentab ((o - 0x100000) / 64) (o % 64 / 8))
  else if 0x120000 ≤ o ∧ o ≤ 0x120018 then some (.ef (o - 0x120000))
  else if 0x130000 ≤ o ∧ o ≤ 0x130020 ∨ o = 0x130040 then some (.tev (o - 0x130000))
  else if 0x140100 ≤ o ∧ o < 0x140140 then some (.ecls ((o - 0x140100) / 8))
  else if 0x140180 ≤ o ∧ o ≤ 0x140198 then some (.escrow (o - 0x140000))
  else if o = 0x140200 then some .ccsctl
  else if 0x140400 ≤ o ∧ o < 0x140400 + 8 * 65 then some (.fnten ((o - 0x140400) / 8))
  else if 0x150000 ≤ o ∧ o ≤ 0x150030 then some (.time (o - 0x150000))
  else if o = 0x150100 then some .snapctl
  else if 0x150108 ≤ o ∧ o ≤ 0x150120 then some (.trig ((o - 0x150108) / 8))
  else if o = 0x150200 then some .booterr
  else if 0x160000 ≤ o ∧ o ≤ 0x160040 ∨ 0x160060 ≤ o ∧ o < 0x1600C0 then some (.update (o - 0x160000))
  else if 0x170000 ≤ o ∧ o ≤ 0x170010 then some (.power (o - 0x170000))
  else if 0x170100 ≤ o ∧ o < 0x1701C0 then some (.isl ((o - 0x170100) / 8))
  else if 0x200000 ≤ o ∧ o < 0x200300 then some (.rmemb ((o - 0x200000) / 8))
  else if 0x300000 ≤ o ∧ o < 0x300000 + 8 * 71 ∧ eyeExists ((o - 0x300000) / 8) then some (.eye ((o - 0x300000) / 8))
  else if 0x400000 ≤ o ∧ o < 0x406000 then some (if o % 16 = 0 then .cten ((o - 0x400000) / 16) else .covf ((o - 0x400000) / 16))
  else none

/-- The party a core is (R1, R312). -/
def partyOf (c : Nat) : Party := if c = Config.comptroller then .comptroller else if isHub c then .teller else .core c

/-- Whether a party counts as policy software: the hub cores and the physical function (log 16). -/
def isPolicy : Party → Bool
  | .comptroller | .teller => true
  | .func f => f == 0
  | _ => false

/-- Whether the tables of a tenant below table `t` map the 64-KiB page at a physical address (R301, R303). -/
def mapsPage (s : State) (pa : Nat) : Nat → Nat → Nat → Bool
  | 0, _, _ => false
  | n + 1, t, lv =>
    (List.range (if lv = 0 then 256 else if lv = 4 then 32 else 512)).any (fun i =>
      let e := s.w64 (keyOf s.modid (t + 8 * i))
      bit e 0 && !badEntry e lv && (if bit e 1 then lv = 4 && entryAddr e == pa else mapsPage s pa n (entryAddr e) (lv + 1)))

/-- The wake-cell pages of a function (R262, R346): those that its tenant's tables map. (DEDUCED, log 106.) -/
def cellPageOf (s : State) (f n : Nat) : Bool :=
  let slot := tget 0 s.tr.fnten f
  s.tenId slot != 0 && mapsPage s (Config.devBase + cellBase + n / 8192 * 65536) 5 (s.root slot) 0

/-- Whether a function's BAR0 reaches a register (R346). -/
def bar0Reaches (s : State) (f : Nat) (r : DevReg) : Bool :=
  f == 0 || (match r with
    | .queue q _ => (s.queue q).func == f
    | .cell n => cellPageOf s f n
    | _ => false)

/-- Whether `n` bytes at an offset lie in one register. -/
def inReg (off n : Nat) : Bool := off % 8 + n ≤ 8

/-- Whether a register accepts a load of `n` bytes by a party (R262, R340, R360, R370, R375; log 16). -/
def devReadOk (s : State) (p : Party) (off n : Nat) : Bool :=
  let compute := match p with | .core _ => true | _ => false
  match devReg off with
  | none => false
  | some r =>
    (match p with | .func f => bar0Reaches s f r | _ => true)
    && (match r with
        | .ccsWin _ => ccsEn s && isPolicy p
        | .hocopy _ => !compute
        | .update _ => inReg off n && !compute
        | .snapWin _ => true
        | .cell _ => n == 8
        | _ => inReg off n)

/-- Whether a register accepts a store of `n` bytes by a party (R262, R299, R300, R310, R314, R318, R353, R364, R370, R375; log 16). -/
def devWriteOk (s : State) (p : Party) (off n : Nat) : Bool :=
  match devReg off with
  | none => false
  | some r =>
    inReg off n && (match p with | .func f => bar0Reaches s f r | _ => true)
    && (match r with
        | .queue q o => (o != 0x40 || n == 8) && !queueRefuses p q o
        | .cell _ => n == 8
        | .ecls _ => true
        | .escrow o => if o == 0x198 then isPolicy p else true
        | .cten _ | .covf _ | .time _ | .update _ | .tentab _ _ | .rmemb _ => p == .comptroller
        | .ccsWin o => isPolicy p && ccsFits s (o / 4096) (ccsAsks s)
        | .hocopy _ => p == .comptroller
        | .snapWin _ => false
        | _ => isPolicy p)

/-- Whether a register takes AST.D (R262, R318). -/
def devAtomicStore (off : Nat) : Bool :=
  match devReg off with
  | some (.queue _ 0x40) | some (.cell _) => true
  | _ => false

/-- Whether a register takes ALD.D (R262). -/
def devAtomicLoad (off : Nat) : Bool :=
  match devReg off with
  | some (.cell _) => true
  | _ => false

/-- Writable bits of a word of a tenant slot (R299). -/
def tenMask (w : Nat) : Nat :=
  match w with
  | 0 => 65535 * 65536 + 1
  | 1 => 2 ^ 56 - 2 ^ 11
  | 6 => 1023 * 65536 + 1023
  | 7 => 0
  | _ => 2047

/-- Whether a core is empty: no thread, live or spilled, and no block (R300). -/
def coreEmpty (s : State) (c : Nat) : Bool := (List.range 16).all (fun sl => (s.thread c sl).isNone) && (s.core c).spilled.isEmpty

/-- CTEN (R300). -/
def writeCten (s : State) (c : Nat) (v : Word) : State := if coreEmpty s c then s.setCore c { s.core c with tenant := v.toNat % 65536 } else s

/-- COVF (R60, R300). -/
def writeCovf (s : State) (c : Nat) (v : Word) : State :=
  if coreEmpty s c then s.setCore c { s.core c with ovfptr := wordOf (v.toNat / 65536 * 65536 + v.toNat % 16) } else s

/-- What a read of a register returns (R8); a window has no one register. -/
def regRead (s : State) (r : DevReg) : Nat :=
  match r with
  | .queue q o => (readQueue s q o).toNat
  | .tentab sl w => (s.ten sl w).toNat
  | .ef o => match o with
      | 0x00 => s.xl.efbase.toNat
      | 0x10 => s.xl.efhead
      | 0x18 => s.xl.eftail
      | _ => 0
  | .tev o => match o with
      | 0x00 => s.tr.tevbase.toNat
      | 0x08 => s.tr.tevhead
      | 0x10 => s.tr.tevtail
      | 0x18 => s.tr.tevdrop
      | 0x20 => s.tr.wlbase.toNat
      | _ => (readSwsusp s).toNat
  | .ecls k => (s.ecls k).toNat
  | .escrow o => match o with
      | 0x180 => s.eng.ecxllim
      | 0x188 => s.eng.efllim
      | 0x190 => (epages s).toNat
      | _ => 0
  | .ccsctl => (readCcsctl s).toNat
  | .fnten f => tget 0 s.tr.fnten f
  | .time o => (readTime s o).toNat
  | .snapctl => (snapctl s.snap).toNat
  | .trig i => (trigWord s.snap i).toNat
  | .booterr => s.sec.booterr.toNat
  | .update o => (readUpdate s o).toNat
  | .power o => match o with
      | 0x00 => s.pwr.plim
      | 0x08 => s.pwr.pwr
      | _ => 0x4D390001
  | .isl k => (s.isl k).word.toNat
  | .rmemb k => (s.clu k).rmemb.toNat
  | .eye k => (eyeWord k (s.eye k)).toNat
  | .cten c => s.tenantOf c
  | .covf c => (s.core c).ovfptr.toNat
  | .cell k => (s.cell k).status.toNat
  | .hocopy _ | .snapWin _ | .ccsWin _ => 0

/-- What a load of `n` bytes returns (R8). -/
def devRead (s : State) (off n : Nat) : Nat :=
  match devReg off with
  | none => 0
  | some (.hocopy o) => leNat ((List.range n).map (fun i => s.sec.hocopy.getD (o + i) 0))
  | some (.snapWin o) => (snapWord s o).toNat / 2 ^ (8 * (o % 8)) % 2 ^ (8 * n)
  | some (.ccsWin o) => ccsRead s o n
  | some r => regRead s r / 2 ^ (8 * (off % 8)) % 2 ^ (8 * n)

/-- What a store of a 64-bit value to a register does, by a party it accepts (R8). -/
def devWrite (s : State) (p : Party) (off : Nat) (v : Word) : State :=
  match devReg off with
  | none => s
  | some r =>
    match r with
    | .queue q o => writeQueue s p q o v
    | .tentab sl w => { s with xl := { s.xl with tentab := tset 0 s.xl.tentab (8 * sl + w) (v &&& wordOf (tenMask w)) } }
    | .ef o => match o with
        | 0x00 => writeEfbase s v
        | 0x08 => writeEfresp s v
        | 0x10 => writeEfhead s v
        | _ => s
    | .tev o => match o with
        | 0x00 => { s with tr := { s.tr with tevbase := wordOf (v.toNat % 2 ^ 56 / 65536 * 65536) } }
        | 0x08 => writeTevhead s v
        | 0x20 => { s with tr := { s.tr with wlbase := wordOf (v.toNat % 2 ^ 56) } }
        | 0x40 => writeSwsusp s v
        | _ => s
    | .ecls k => s.setEcls k v
    | .escrow o => writeEscrow s o v
    | .ccsctl => writeCcsctl s v
    | .fnten f => { s with tr := { s.tr with fnten := tset 0 s.tr.fnten f (v.toNat % 64) } }
    | .time o => writeTime s o v
    | .snapctl => writeSnapctl s v
    | .update o => writeUpdate s o v
    | .power o => if o = 0 then { s with pwr := { s.pwr with plim := v.toNat % 4096 } } else s
    | .isl n => writeIsl s n v
    | .rmemb n => s.setClu n { s.clu n with rmemb := v }
    | .eye n => writeEye s n v
    | .cten c => writeCten s c v
    | .covf c => writeCovf s c v
    | .cell n => wakeWrite s n v
    | .trig _ | .booterr | .hocopy _ | .snapWin _ | .ccsWin _ => s

/-- What a narrower store leaves in a register's other bytes: they are written as they read, but for a bit that a 1 would clear (R8;
log 16). -/
def regKeep (s : State) (r : DevReg) : Nat :=
  match r with
  | .eye n => (eyeWord n { s.eye n with low := false }).toNat
  | _ => regRead s r

/-- A store of `n` bytes: the register's other bytes keep what they hold. -/
def devStoreN (s : State) (p : Party) (off n : Nat) (v : Word) : State :=
  match devReg off with
  | none => s
  | some (.ccsWin o) => ccsStore s o n v
  | some r =>
    let lo := 2 ^ (8 * (off % 8))
    let m := 2 ^ (8 * n)
    let old := regKeep s r
    devWrite s p (off / 8 * 8) (if n = 8 then v else wordOf (old - old / lo % m * lo + v.toNat % m * lo))

/-- Whether a write of a function is still behind earlier writes of it, through BAR2: it is performed after them (R318, R346). -/
def behindBar2 (s : State) (p : Party) : Bool :=
  match p with
  | .func f => s.fab.bar2Held.any (fun x => x.1 == f)
  | _ => false

/-- A store by a party, once its turn has come, refused where the register refuses it (R375). -/
def devStore (s : State) (p : Party) (off n : Nat) (v : Word) : State :=
  if !behindBar2 s p && devWriteOk s p off n then devStoreN s p off n v else s

/-- Whether a party's write to a register of the comptroller's has its turn and its right (R8). -/
def policyTurn (s : State) (p : Party) : Bool := !behindBar2 s p && isPolicy p

/-! The events that are one such store. -/

/-- Offset of a register of queue `q`'s page. -/
def queueOff (q o : Nat) : Nat := 0x10000000 + 65536 * q + o

/-- A store to a register of a queue page, for a queue that exists. -/
def queueStore (s : State) (p : Party) (q o : Nat) (v : Word) : State := if q < 1024 then devStore s p (queueOff q o) 8 v else s

def execQdoor (p : Party) (q : Nat) (v : Word) (s : State) : Out := .next (queueStore s p q 0x40 v)
def execQcfgWrite (p : Party) (q : Nat) (v : Word) (s : State) : Out := .next (queueStore s p q 0x00 v)
def execSuspend (p : Party) (q : Nat) (s : State) : Out := .next (queueStore s p q 0x48 1)
def execResume (p : Party) (q : Nat) (s : State) : Out := .next (queueStore s p q 0x48 2)
def execSkip (p : Party) (q : Nat) (s : State) : Out := .next (queueStore s p q 0x48 3)
def execDestroy (p : Party) (q : Nat) (kill : Bool) (s : State) : Out := .next (queueStore s p q 0x48 (wordOf (4 + 256 * bitNat kill)))
def execWsat (p : Party) (q : Nat) (v : Word) (s : State) : Out := .next (queueStore s p q 0x50 v)
def execTevheadWrite (p : Party) (v : Word) (s : State) : Out := .next (devStore s p 0x130008 8 v)
def execEfrespResolve (p : Party) (token : Nat) (s : State) : Out := .next (devStore s p 0x120008 8 (wordOf (2 ^ 32 + token % 2 ^ 32)))
def execEfrespUnresolvable (p : Party) (token : Nat) (s : State) : Out := .next (devStore s p 0x120008 8 (wordOf (2 * 2 ^ 32 + token % 2 ^ 32)))
def execEfheadWrite (p : Party) (v : Word) (s : State) : Out := .next (devStore s p 0x120010 8 v)
def execCtenWrite (p : Party) (core : Nat) (v : Word) (s : State) : Out := .next (if core < Config.nCores then devStore s p (0x400000 + 16 * core) 8 v else s)
def execCovfWrite (p : Party) (core : Nat) (v : Word) (s : State) : Out := .next (if core < Config.nCores then devStore s p (0x400008 + 16 * core) 8 v else s)
def execEcellclr (p : Party) (v : Word) (s : State) : Out := .next (devStore s p 0x140198 8 v)
def execCcsctlWrite (p : Party) (v : Word) (s : State) : Out := .next (devStore s p 0x140200 8 v)
def execRepair (p : Party) (n : Nat) (s : State) : Out := .next (if eyeExists n && policyTurn s p then eyeRepair s n else s)
def execRtrn (p : Party) (n : Nat) (s : State) : Out := .next (if eyeExists n && policyTurn s p then eyeRetrain s n else s)
def execTstep (p : Party) (v : Word) (s : State) : Out := .next (devStore s p 0x150018 8 v)
def execFire (p : Party) (s : State) : Out := .next (if policyTurn s p then snapTrigger s 4 0 0 0 0 0 else s)
def execArm (p : Party) (s : State) : Out := .next (if policyTurn s p then snapArm s else s)
def execFwverify (p : Party) (v : Word) (s : State) : Out := .next (devStore s p 0x160008 8 v)
def execFwswitch (p : Party) (v : Word) (s : State) : Out := .next (devStore s p 0x160010 8 v)
def execFwhb (p : Party) (v : Word) (s : State) : Out := .next (devStore s p 0x160018 8 v)
def execFwdig (p : Party) (v : Word) (s : State) : Out := .next (devStore s p 0x160030 8 v)
def execIslWrite (p : Party) (n : Nat) (v : Word) (s : State) : Out := .next (if n < 24 then devStore s p (0x170100 + 8 * n) 8 v else s)
def execSwsuspGo (tslot : Nat) (s : State) : Out := .next (devStore s .comptroller 0x130040 8 (wordOf (256 + tslot % 64)))

/-- The physical address of a block of the capacity-compressed store's window (R340). -/
def ccsAddr (block : Nat) : Word := wordOf (Config.devBase + 0x80000000 + 4096 * block)

/-- CCS_WINDOW_WRITE: a write of a whole block, which only the comptroller makes. Without free chunks, or with the store off, its thread
takes the protection fault and the block keeps its contents (R340). (DEDUCED, log 109.) -/
def execCcsWindowWrite (p : Party) (block : Nat) (data : List Byte) (chunks : Nat) (s : State) : Out :=
  .next (if p = .comptroller then
      (if ccsTakes s block data chunks then ccsWrite s block data chunks else takeTrap s Config.comptroller 0 0x07 (ccsAddr block))
    else s)

/-- REGISTER_WRITE: a write to a device register by a party (R8, R375). -/
def execRegisterWrite (p : Party) (pa : Nat) (bytes : Nat) (v : Word) (s : State) : Out :=
  match placeOf (keyOf s.modid pa) with
  | .dev off => .next (devStore s p off bytes v)
  | _ => .next s

/-- CXL_LINK_DOWN: the port serves no addresses from now on (R347). -/
def execCxlLinkDown (port : Nat) (s : State) : Out :=
  .next (if port < 4 then { s with fab := { s.fab with cxlDown := tset false s.fab.cxlDown port true } } else s)

/-- PATROL_SCRUB: the visit rewrites a line with the same bytes and clears no poison (R339). -/
def execPatrolScrub (line : Nat) (s : State) : Out :=
  match placeOf (64 * line) with
  | .hbm _ | .sram _ _ => .next { s with mem := setBytes s.mem (64 * line) (bytesAt s.mem (64 * line) 64) }
  | _ => .next s

end Sys2Proof.Machine
end

