-- ==== Sys2Proof/Machine/Frames.lean ====
section
/-! DEFINITION. Frames of a thread's block (R59, R253): where each is, opening one, closing one, and moves to and from the overflow area (R60, R61). -/

namespace Sys2Proof.Machine

/-- Where PEND of a frame stands: the thread's PEND, its saved UPEND, or the CPEND of a link word. -/
inductive PendAt | cur | user | link (key : Nat)
  deriving DecidableEq, Repr

/-- Bytes of a frame's registers on a core. -/
def State.frameRegs (s : State) (c : Nat) : Nat := 8 * s.nregs c

/-- Base of slot `sl`'s overflow area as a virtual address, and its bytes (R60). (DEDUCED, log 28.) -/
def ovfArea (s : State) (c sl : Nat) : Word × Nat :=
  let p := (s.core c).ovfptr
  let n := 65536 * 2 ^ min (fld p 1 3) 4
  (wordOf (p.toNat / 65536 * 65536 + sl * n), n)

/-- The key of an address of a thread's overflow area, if it translates in the thread's context. -/
def ovfKey (s : State) (c : Nat) (acc : Acc) (va : Word) : Option Nat :=
  match resolveEng s (s.tenantOf c) false acc va with
  | .ok k => some k
  | .error _ => none

/-- The key of byte `o` of frame `j` of a thread, counted from the first (0), at bank offset `wp`: in the block, or where the frame was moved. -/
def frameKey (s : State) (c sl : Nat) (t : Thread) (j wp o : Nat) : Option Nat :=
  match t.moved[j]? with
  | some m => ovfKey s c .write ((ovfArea s c sl).1 + wordOf (m.2 + o))
  | none => some (winKey c (wp + o))

/-- A frame of a thread: its number from the first, its bank offset, PEND and where PEND stands. -/
structure FrameAt where
  j : Nat
  wp : Nat
  pend : BitVec 32
  pa : PendAt
  deriving DecidableEq, Repr

/-- The frames below frame `j` at bank offset `wp`, by the links above them (R253). -/
def framesBelow (s : State) (c sl : Nat) (t : Thread) : Nat → Nat → List FrameAt
  | 0, _ => []
  | j + 1, wp =>
    match frameKey s c sl t (j + 1) wp (s.frameRegs c + 8) with
    | none => []
    | some k =>
      let w := s.w64 k
      ⟨j, fld w 0 15, BitVec.ofNat 32 (fld w 32 32), .link k⟩ :: framesBelow s c sl t j (fld w 0 15)

/-- The user frames of a thread in a slot, the current or interrupted one first (R253, R281). -/
def userFrames (s : State) (c sl : Nat) (t : Thread) : List FrameAt :=
  if t.kernel && !isHub c then
    let x := s.slot c sl
    ⟨t.depth - 1, x.uwp, x.upend, .user⟩ :: framesBelow s c sl t (t.depth - 1) x.uwp
  else ⟨t.depth - 1, t.wp, t.pend, .cur⟩ :: framesBelow s c sl t (t.depth - 1) t.wp

/-- Every frame of a thread in a slot: the kernel frame while in kernel mode, then the user frames. -/
def framesOf (s : State) (c sl : Nat) (t : Thread) : List FrameAt :=
  if t.kernel && !isHub c then ⟨t.depth, t.wp, t.pend, .cur⟩ :: userFrames s c sl t else userFrames s c sl t

/-- Bytes of frame `j`: the first has no link (R253). -/
def frameBytes (s : State) (c j : Nat) : Nat := s.frameRegs c + (if j = 0 then 0 else 16)

/-- Whether a frame lies in the workspace bank. -/
def FrameAt.inBank (f : FrameAt) (t : Thread) : Bool := t.moved.length ≤ f.j

/-- Clears PEND bit `n` of a frame where it stands. -/
def clearPend (s : State) (c sl : Nat) (f : FrameAt) (n : Nat) : State :=
  match f.pa with
  | .cur => s.modThread c sl (fun t => { t with pend := clrBit t.pend n })
  | .user => s.setSlot c sl { s.slot c sl with upend := clrBit (s.slot c sl).upend n }
  | .link k => s.setW64 k (wordOf ((s.w64 k).toNat % 2 ^ 32 + (clrBit (BitVec.ofNat 32 ((s.w64 k).toNat / 2 ^ 32)) n).toNat * 2 ^ 32))

/-- TRAPINFO of a workspace overflow (R61). -/
def overflowInfo (full pin : Bool) (nwp need : Nat) : Word :=
  wordOf (0xE * 2 ^ 60 + bitNat full * 2 ^ 59 + bitNat pin * 2 ^ 58 + nwp % 32768 * 2 ^ 32 + need)

/-- Top of the frames held in slot `sl`'s overflow area by its thread and by spilled threads of the slot. -/
def ovfTop (s : State) (c sl : Nat) : Nat :=
  let tops (t : Thread) : List Nat := t.moved.zipIdx.map (fun m => m.1.2 + frameBytes s c m.2)
  let live := match s.thread c sl with | some t => tops t | none => []
  (live ++ ((s.core c).spilled.filter (fun x => x.slot == sl)).flatMap (fun x => tops x.th)).foldl max 0

/-- The frames, oldest first, that must move so that `n` bytes at `p` are free. -/
def mustMove (s : State) (c p n : Nat) : List FrameAt → List FrameAt
  | [] => []
  | f :: l =>
    let hit (g : FrameAt) : Bool := p < g.wp + frameBytes s c g.j && g.wp < p + n
    if (f :: l).any hit then f :: mustMove s c p n l else []

/-- Moves a frame to an offset of the overflow area (R61): cause and TRAPINFO of a failure. (DEDUCED, log 76.) -/
def moveOut (s : State) (c sl : Nat) (f : FrameAt) (off : Nat) : Except (Nat × Word) State :=
  match engWrite s (s.tenantOf c) false ((ovfArea s c sl).1 + wordOf off) (bytesAt s.mem (winKey c f.wp) (frameBytes s c f.j)) with
  | .ok s1 => .ok (s1.modThread c sl (fun t => { t with moved := t.moved ++ [(f.wp, off)] }))
  | .error e => .error (e.1, e.2.1)

/-- Moves frames, oldest first. -/
def moveAll (s : State) (c sl : Nat) : List FrameAt → Nat → Except (Nat × Word) State
  | [], _ => .ok s
  | f :: l, off =>
    match moveOut s c sl f off with
    | .error e => .error e
    | .ok s1 => moveAll s1 c sl l (off + frameBytes s c f.j)

/-- Room for a new frame of a thread (R61, R253): its bank offset, once older frames have moved where they must; or
cause and TRAPINFO, with the state unchanged. A kernel frame has no room above it (R278). (DEDUCED, log 29.) Where the frame does not
fit above the current one it starts at the block's base, while NWP tells the offset above; a block smaller than the frame reports FULL.
(DESIGN CHOICE, log 103.) -/
def frameRoom (s : State) (c sl : Nat) (t : Thread) : Except (Nat × Word) (State × Nat) :=
  let need := s.frameRegs c + 16
  let nwp := t.wp + frameBytes s c (t.depth - 1)
  let fits := nwp + need ≤ t.base + t.size
  if t.kernel then .error (0x07, overflowInfo false false nwp need)
  else if !bit (s.core c).ovfptr 0 then
    if fits then .ok (s, nwp) else .error (0x07, overflowInfo false false nwp need)
  else
    let p := if fits then nwp else t.base
    let l := mustMove s c p need ((userFrames s c sl t).filter (fun f => f.inBank t)).reverse
    let top := ovfTop s c sl
    let full := (ovfArea s c sl).2 < top + (l.map (fun f => frameBytes s c f.j)).foldl (· + ·) 0 || t.size < need
    let pin := l.any (fun f => framePinned s c f.wp)
    if full || pin then .error (0x07, overflowInfo full pin nwp need)
    else
      match moveAll s c sl l top with
      | .ok s1 => .ok (s1, p)
      | .error e => .error e

/-- Opens a frame with its link (R253): the state with WP moved, PEND clear and every register 0. -/
def openFrame (s : State) (c sl : Nat) (rpc : Word) : Except (Nat × Word) State :=
  match s.thread c sl with
  | none => .ok s
  | some t =>
    match frameRoom s c sl t with
    | .error e => .error e
    | .ok (s1, p) =>
      let n := s.frameRegs c
      let s2 := { s1 with mem := setBytes s1.mem (winKey c p) (List.replicate n 0) }
      let s3 := (s2.setW64 (winKey c (p + n)) rpc).setW64 (winKey c (p + n + 8)) (wordOf (t.pend.toNat * 2 ^ 32 + t.wp % 32768))
      let x := s3.slot c sl
      .ok (s3.setSlot c sl { x with ctime := [], thread := x.thread.map (fun t => { t with wp := p, pend := 0, depth := t.depth + 1 }) })

/-- Closes the frames above the one number `j` of the thread's user frames, the lowest of which is brought back to the
block if it has been moved (R61, R253, R254): cause and TRAPINFO of a failure, with the state unchanged; or the state. -/
def closeTo (s : State) (c sl : Nat) (t : Thread) (j : Nat) : Except (Nat × Word) State :=
  let fs := userFrames s c sl t
  match fs.find? (fun f => f.j == j) with
  | none => .ok s
  | some f =>
    let back : Except (Nat × Word) State :=
      match t.moved[j]? with
      | none => .ok s
      | some m =>
        match engRead s (s.tenantOf c) false ((ovfArea s c sl).1 + wordOf m.2) (frameBytes s c j) with
        | .ok bs => .ok { s with mem := setBytes s.mem (winKey c m.1) bs }
        | .error e => .error (e.1, e.2.1)
    match back with
    | .error e => .error e
    | .ok s1 =>
      let s2 := (fs.filter (fun g => j < g.j)).foldl (fun s g => endFrame s c g.wp) s1
      let put (t : Thread) : Thread := { t with depth := j + 1, moved := t.moved.take j, mdepth := if j + 1 < t.mdepth then 0 else t.mdepth }
      let x := s2.slot c sl
      .ok (if t.kernel && !isHub c then s2.setSlot c sl { x with uwp := f.wp, upend := f.pend, thread := x.thread.map put }
           else s2.setSlot c sl { x with thread := x.thread.map (fun t => { put t with wp := f.wp, pend := f.pend }) })

/-- Ends every user frame of the thread in a slot (R46, R254). -/
def endFrames (s : State) (c sl : Nat) : State :=
  match s.thread c sl with
  | some t => (userFrames s c sl t).foldl (fun s g => endFrame s c g.wp) s
  | none => s

end Sys2Proof.Machine
end

