-- ==== Sys2Proof/Machine/Phase.lean ====
section
/-! DEFINITION. Phase consistency (R88-R99): the write buffer of a core and when its entries are performed, what a plain read returns, releases and acquires; and the register words that an access by address reaches (R34, R41). -/

namespace Sys2Proof.Machine

/-! Register words reached by address. -/

/-- Pending registers of the threads of core `c` that bytes `o` to `o + n - 1` of its window touch: slot, frame and register. -/
def pendingAt (s : State) (c o n : Nat) : List (Nat × FrameAt × Nat) :=
  if 0x8000 ≤ o then []
  else
    (List.range 16).flatMap (fun sl =>
      match s.thread c sl with
      | none => []
      | some t => ((framesOf s c sl t).filter (fun f => f.inBank t && f.pend != 0)).flatMap (fun f =>
          ((List.range (s.nregs c)).filter (fun r => f.pend.getLsbD r && f.wp + 8 * r < o + n && o < f.wp + 8 * r + 8)).map (fun r => (sl, f, r))))

/-- Whether a store to bytes `o` to `o + n - 1` of core `c`'s window must wait for a completion (R34, R41): it touches a pending register's
word, and that is not one of a cancelled future whose engine has stopped (R210). (DEDUCED, log 23.) -/
def pendingWord (s : State) (c o n : Nat) : Bool := (pendingAt s c o n).any (fun p => !hStop (s.w64 (regKey c p.2.1.wp p.2.2)))

/-- A store by address to a live register's word is a write of it (R34): it clears its completion-time word (R211), and PEND of a stopped
future (R210). -/
def touchRegs (s : State) (c o n : Nat) : State :=
  if 0x8000 ≤ o then s
  else
    let s1 := (pendingAt s c o n).foldl (fun s p => clearPend s c p.1 p.2.1 p.2.2) s
    (List.range 16).foldl (fun s sl =>
      match s.thread c sl with
      | none => s
      | some t =>
        let x := s.slot c sl
        let ct := (List.range (s.nregs c)).foldl (fun l r => if t.wp + 8 * r < o + n && o < t.wp + 8 * r + 8 then tset 0 l r 0 else l) x.ctime
        if ct = x.ctime then s else s.setSlot c sl { x with ctime := ct }) s1

/-! The write buffer (R91, R95). -/

/-- Whether an entry overlaps one of the ranges. -/
def hitsKeys (ks : List (Nat × Nat)) (k n : Nat) : Bool := ks.any (fun r => r.1 < k + n && k < r.1 + r.2)

/-- Which entries must be performed, from the youngest: those that are roots, earlier stores to a location of a required one
(R91), and what a fence of a thread publishes before a later act of that thread (R95). `tids` are threads with a later
act, `scs` the instances of their fences met so far, `ks` the locations of required stores. -/
def required (root : WEntry → Nat → Bool) :
    List WEntry → Nat → List Word → List (Nat × Scope) → List (Nat × Nat) → List (WEntry × Bool)
  | [], _, _, _, _ => []
  | e :: l, i, tids, scs, ks =>
    match e with
    | .fence t c sc => (e, false) :: required root l (i - 1) tids (if tids.contains t then (c, sc) :: scs else scs) ks
    | .store t k _ d _ =>
      if root e (i - 1) || hitsKeys ks k d.length || scs.any (fun x => covers x.2 x.1 k) then
        (e, true) :: required root l (i - 1) (t :: tids) scs ((k, d.length) :: ks)
      else (e, false) :: required root l (i - 1) tids scs ks

/-- Drops a line from a cluster's slice: its next read is fetched. -/
def dropLine (s : State) (n line : Nat) : State :=
  if Config.nClusters ≤ n then s
  else s.setClu n { s.clu n with slice := (s.clu n).slice.filter (fun x => x.1 != line) }

/-- A buffered store refused where it is performed (R375): discarded, recorded and reported. (DEDUCED, log 69.) -/
def refuseStore (s : State) (c : Nat) (tid : Word) (pa cause : Nat) : State :=
  report (s.traceFor c (tidSlot tid) 4 c (wordOf pa) tid) c tid (wordOf pa) (0x8000 + cause)

/-- Performs a store of core `c` at its ordering point (R89, R310, R375). -/
def performStore (s : State) (c : Nat) (tid : Word) (k pa : Nat) (d : List Byte) : State :=
  match placeOf k with
  | .sram x o =>
    if !s.routed c (cluOf x) then refuseStore s c tid pa 0x08
    else dropLine (touchRegs (s.put k d) x o d.length) (cluOf c) (lineOf k)
  | .dev off =>
    if devWriteOk s (partyOf c) off d.length then devStoreN s (partyOf c) off d.length (wordOf (leNat d)) else refuseStore s c tid pa 0x07
  | _ =>
    if !s.reach k then refuseStore s c tid pa 0x08
    else if (s.remoteCause (s.tenantOf c) k).isSome then refuseStore s c tid pa ((s.remoteCause (s.tenantOf c) k).getD 0x08)
    else if backed s k then dropLine (s.put k d) (cluOf c) (lineOf k)
    else refuseStore s c tid pa 0x07

/-- Whether a store must wait at its ordering point for a completion (R41). -/
def storeWaits (s : State) (k n : Nat) : Bool :=
  match placeOf k with
  | .sram x o => pendingWord s x o n
  | _ => false

/-- Whether a store through a core's port reaches a register word of a thread that issues in this ck: it is performed before the
thread's register write (R127), so it comes too late for this ck. -/
def tooLateFor (s : State) (k n : Nat) : Bool :=
  match placeOf k with
  | .sram x o =>
    o < 0x8000 && (List.range 16).any (fun sl =>
      match s.thread x sl with
      | some t => t.nextCk == s.ckOf x + Config.issueCk && t.wp < o + n && o < t.wp + 8 * s.nregs x
      | none => false)
  | _ => false

/-- Whether a store through a core's port waits there (R41, R127). -/
def portWaits (s : State) (k n : Nat) : Bool := storeWaits s k n || tooLateFor s k n

/-- Performs the required entries from the oldest: the state, the entries that stay, and whether a required store is among those. A
store that waits under R41 holds only its own place, so it stays in the list (DEDUCED, log 20): later stores go on, but not those to its
bytes nor those of its thread behind a fence that publishes it. `held` are the held stores, `shut` the threads with a fence after one of
theirs. -/
def performList (c : Nat) : List (WEntry × Bool) → State → List (Word × Nat × Nat) → List Word → State × List WEntry × Bool
  | [], s, _, _ => (s, [], false)
  | (e, r) :: l, s, held, shut =>
    match e with
    | .store t k pa d _ =>
      if r then
        if portWaits s k d.length || shut.contains t || hitsKeys (held.map (fun h => h.2)) k d.length then
          let (s1, es, _) := performList c l s ((t, k, d.length) :: held) shut
          (s1, .store t k pa d true :: es, true)
        else performList c l (performStore s c t k pa d) held shut
      else
        let (s1, es, b) := performList c l s held shut
        (s1, e :: es, b)
    | .fence t x sc =>
      let (s1, es, b) := performList c l s held
        (if held.any (fun h => h.1 == t && covers sc x h.2.1) then t :: shut else shut)
      (s1, e :: es, b)

/-- Fence marks with no store before them order nothing more. -/
def trimMarks : List WEntry → List WEntry
  | .fence _ _ _ :: l => trimMarks l
  | l => l

/-- Performs what a root set requires: the state, and whether a required store must still wait (R41). -/
def flush (s : State) (c : Nat) (root : WEntry → Nat → Bool) (tids : List Word) (ks : List (Nat × Nat)) : State × Bool :=
  let es := (s.core c).wbuf
  if es.isEmpty then (s, false)
  else
    let (s1, rest, b) := performList c (required root es.reverse es.length tids [] ks).reverse s [] []
    (s1.setCore c { s1.core c with wbuf := trimMarks rest }, b)

/-- A release at the scope `sc` of core `c` for the buffer of core `b` (R95, R97): every covered write of the buffer is performed. -/
def releaseIn (s : State) (b c : Nat) (sc : Scope) : State × Bool :=
  flush s b (fun e _ => match e with | .store _ k _ _ _ => covers sc c k | .fence _ _ _ => false) [] []

/-- A release at scope `sc` for core `c` and its buffer. -/
def releaseAt (s : State) (c : Nat) (sc : Scope) : State × Bool := releaseIn s c c sc

/-- Runs a flush for each of some buffers in turn: whether one of them must wait. -/
def flushEach (f : State → Nat × Word → State × Bool) : List (Nat × Word) → State → State × Bool
  | [], s => (s, false)
  | e :: l, s =>
    let (s1, b1) := f s e
    let (s2, b2) := flushEach f l s1
    (s2, b1 || b2)

/-- The cores whose buffers may hold stores of a thread from before it migrated (R91, R97): as its context says, or, once it has left
every slot, as the module noted then. (DESIGN CHOICE, log 99.) -/
def leftBy (s : State) (tid : Word) : List (Nat × Word) :=
  match s.find tid with
  | some (c, sl) => (match s.thread c sl with | some t => t.left | none => [])
  | none =>
    match s.spilledOf tid with
    | some x => x.th.left
    | none => ((s.eng.trail.find? (fun p => p.1 == tid)).map (fun p => p.2)).getD []

/-- The release of thread `tid` of core `c` at a scope (R95, R97): of its core's buffer, and of those it left behind. -/
def releaseBy (s : State) (c : Nat) (tid : Word) (sc : Scope) : State × Bool :=
  let r := releaseAt s c sc
  let q := flushEach (fun s e => releaseIn s e.1 c sc) (leftBy s tid) r.1
  (q.1, r.2 || q.2)

/-- What a thread's fences publish of some buffers is performed (R95). -/
def forceIn (s : State) (l : List (Nat × Word)) (ks : List (Nat × Nat)) : State × Bool :=
  flushEach (fun s e => flush s e.1 (fun _ _ => false) [e.2] ks) l s

/-- Before a later write, atomic or engine command of a thread: what its fences publish is performed (R95). -/
def forceFences (s : State) (c : Nat) (tid : Word) : State × Bool := forceIn s ((c, tid) :: leftBy s tid) []

/-- Before an atomic of a thread at a location: its fences, and the earlier writes there of its core and in the buffers it left behind
(R95, R98). -/
def forceAt (s : State) (c : Nat) (tid : Word) (k n : Nat) : State × Bool := forceIn s ((c, tid) :: leftBy s tid) [(k, n)]

/-- Before a plain read of a location: the thread's own stores to its line in the buffers it left behind are performed (R92). (DESIGN CHOICE, log 99.) -/
def forceOwn (s : State) (tid : Word) (k : Nat) : State × Bool :=
  let mine (t : Word) (e : WEntry) : Bool := match e with | .store u j _ _ _ => u == t && lineOf j == lineOf k | .fence _ _ _ => false
  match (leftBy s tid).filter (fun e => (s.core e.1).wbuf.any (mine e.2)) with
  | [] => (s, false)
  | l => flushEach (fun s e => flush s e.1 (fun x _ => mine e.2 x) [] []) l s

/-- BUFFERED_WRITE_PERFORMED: entry `n` of a core's buffer is performed, if nothing orders another before it (R91, R95). -/
def execBufferedWritePerformed (core n : Nat) (s : State) : Out :=
  let es := (s.core core).wbuf
  let l := (required (fun _ i => i == n) es.reverse es.length [] [] []).reverse
  if (l.filter (fun x => x.2)).length = 1 then .next (flush s core (fun _ i => i == n) [] []).1 else .next s

/-- Stores held at a port are performed where the completion they wait for has come (R41). -/
def settleHeld (s : State) : State :=
  let isHeld (e : WEntry) : Bool := match e with | .store _ _ _ _ h => h | .fence _ _ _ => false
  (s.cores.filter (fun x => x.2.wbuf.any isHeld)).foldl (fun s x => (flush s x.1 (fun e _ => isHeld e) [] []).1) s

/-- Performs every buffered store of the cores that a test names: whether one must wait (R308, R41). (DEDUCED, log 56.) -/
def forceCores (s : State) (p : Nat → Bool) : State × Bool :=
  (s.cores.filter (fun x => p x.1)).foldl (fun (r : State × Bool) x =>
    let t := flush r.1 x.1 (fun _ _ => true) [] [(0, 2 ^ 64)]
    (t.1, r.2 || t.2)) (s, false)

/-- An event's release at a scope on behalf of a core: what must wait stays buffered. -/
def releaseFor (s : State) (c : Nat) (sc : Scope) : State := (releaseAt s c sc).1

/-! Views (R92-R94). -/

/-- The floor of a location (R92): the latest acquire at a scope whose instance covers it. -/
def floorOf (f : Floors) (c k : Nat) : Nat :=
  let g (sc : Scope) (n : Nat) := if covers sc c k then n else 0
  let own := max (max (g .core f.core) (g .clu f.clu)) (max (max (g .stk f.stk) (g .pkg f.pkg)) (g .dom f.dom))
  f.abroad.foldl (fun m x => if covers x.1 x.2.1 k then max m x.2.2 else m) own

/-- The phase ends for the locations a scope covers: the thread's pins there are dropped (R95). -/
def endPhase (c : Nat) (sc : Scope) (t : Thread) : Thread :=
  { t with pins := t.pins.filter (fun p => !covers sc c (64 * p.1)), views := t.views.filter (fun p => !covers sc c (8 * p.1)) }

/-- The view is refreshed at a scope (R95). -/
def refresh (now : Nat) (sc : Scope) (t : Thread) : Thread := { t with floors := t.floors.at sc now }

/-- How new a copy must be to serve a thread's plain read of a location (R89, R92): no older than its view, nor than a copy of the line it
has read; and a line that it stored to before it migrated is fetched at its first read. -/
def viewFloor (now : Nat) (t : Thread) (c k : Nat) : Nat :=
  if t.stale.contains (lineOf k) then now
  else max (floorOf t.floors c k) (((t.seen.find? (fun p => p.1 == lineOf k)).map (fun p => p.2)).getD 0)

/-- A thread has seen a line as it stood at a stamp (R89). -/
def sees (line stamp : Nat) (t : Thread) : Thread :=
  { t with seen := (line, stamp) :: t.seen.filter (fun p => p.1 != line), stale := t.stale.filter (fun l => l != line) }

/-- A thread has stored to a line. -/
def writes (line : Nat) (t : Thread) : Thread := if t.wrote.contains line then t else { t with wrote := line :: t.wrote }

/-- Replaces bytes of a line's data. -/
def patchLine (d : BitVec 512) (o : Nat) (bs : List Byte) : BitVec 512 :=
  let n := bs.length
  let x := d.toNat
  BitVec.ofNat 512 (x % 2 ^ (8 * o) + leNat bs * 2 ^ (8 * o) + x / 2 ^ (8 * (o + n)) * 2 ^ (8 * (o + n)))

/-- Bytes of a line's data as a number. -/
def lineNat (d : BitVec 512) (o n : Nat) : Nat := d.toNat / 2 ^ (8 * o) % 2 ^ (8 * n)

/-- A line of memory as it stands at its ordering point. -/
def lineData (s : State) (line : Nat) : BitVec 512 := BitVec.ofNat 512 (natAt s.mem (64 * line) 64)

/-- The core's buffered stores to a line, over its data (R91). -/
def overlay (line : Nat) (d : BitVec 512) : List WEntry → BitVec 512
  | [] => d
  | .store _ k _ bs _ :: l => overlay line (if k / 64 = line then patchLine d (k % 64) bs else d) l
  | .fence _ _ _ :: l => overlay line d l

/-- A register as a load sees it: its value, with the core's buffered stores to it over it (R91). -/
def overlayWord (word : Nat) (v : Word) (l : List WEntry) : Word :=
  wordOf (lineNat (overlay (word / 8) (BitVec.ofNat 512 (v.toNat * 2 ^ (64 * (word % 8)))) l) (8 * (word % 8)) 8)

/-- Whether a thread holds a pin or a view that a write at a location touches. -/
def Thread.holds (t : Thread) (k : Nat) : Bool := t.pins.any (fun p => p.1 == k / 64) || t.views.any (fun p => p.1 == k / 8)

/-- The bytes of a write in a thread's pins and views. -/
def Thread.patched (t : Thread) (k : Nat) (bs : List Byte) : Thread :=
  { t with
    pins := t.pins.map (fun p => if p.1 == k / 64 then (p.1, patchLine p.2.1 (k % 64) bs, p.2.2) else p),
    views := t.views.map (fun p => if p.1 == k / 8 then (p.1, wordOf (patchLine (BitVec.ofNat 512 p.2.toNat) (k % 8) bs).toNat) else p) }

/-- A write by a thread of a core replaces the bytes in the pins of the core's threads, live or spilled (R92, R98). -/
def patchPins (s : State) (c k : Nat) (bs : List Byte) : State :=
  let s1 := if (s.core c).spilled.any (fun x => x.th.holds k) then
      s.setCore c { s.core c with spilled := (s.core c).spilled.map (fun x => { x with th := x.th.patched k bs }) }
    else s
  (List.range 16).foldl (fun s sl =>
    match s.thread c sl with
    | none => s
    | some t => if t.holds k then s.setThread c sl (some (t.patched k bs)) else s) s1

/-- Pins held by the threads of a core. -/
def corePins (s : State) (c : Nat) : Nat :=
  ((List.range 16).map (fun sl => match s.thread c sl with | some t => t.pins.length | none => 0)).foldl (· + ·) 0

/-- Whether a new pin has room: the core's guarantee of 128, or the cluster's pool of 22,528 (R24). -/
def pinRoom (s : State) (c : Nat) : Bool :=
  corePins s c < 128
  || ((List.range 16).map (fun i => corePins s (16 * cluOf c + i) - 128)).foldl (· + ·) 0 < 22528

/-- Whether a plain read of a location by core `c` is served by the slice with a pin (R24, R93). A hub core has no slice, and no
slice holds device registers. -/
def pinned (c k : Nat) : Bool :=
  if isHub c || (devOff k).isSome then false
  else
    match placeOf k with
    | .sram x _ => cluOf x != cluOf c
    | .dev _ | .none => false
    | _ => true

/-- Whether a read of a location by core `c` goes to the owning core's port every time (R90, R93). -/
def portRead (c k : Nat) : Bool :=
  match placeOf k with
  | .sram x _ => x == c || (!isHub c && cluOf x == cluOf c)
  | _ => false

/-- The slice's copy of a line that serves a reader with a floor (R92). -/
def sliceFind (s : State) (n line floor : Nat) : Option (Nat × BitVec 512 × Nat × Bool) :=
  (s.clu n).slice.find? (fun x => x.1 == line && floor ≤ x.2.2.1)

/-- Whether the slice holds such a copy. -/
def sliceHas (s : State) (n line floor : Nat) : Bool := (sliceFind s n line floor).isSome

/-- The pins of a cluster's threads: line and stamp. -/
def cluPins (s : State) (n : Nat) : List (Nat × Nat) :=
  (List.range 256).flatMap (fun i => match s.thread (16 * n + i / 16) (i % 16) with | some t => t.pins.map (fun p => (p.1, p.2.2.1)) | none => [])

/-- Drops the last `n` lines of a list that no pin holds. -/
def dropFree (pins : List (Nat × Nat)) : Nat → List (Nat × BitVec 512 × Nat × Bool) → List (Nat × BitVec 512 × Nat × Bool)
  | _, [] => []
  | n, x :: l =>
    let free := !pins.contains (x.1, x.2.2.1)
    let rest := l.filter (fun y => !pins.contains (y.1, y.2.2.1))
    if free && rest.length < n then dropFree pins n l else x :: dropFree pins n l

/-- The slice's stored lines, private shadows of pins included, kept within 32,768: the unpinned line fetched longest ago leaves
(R24). (DESIGN CHOICE, log 14.) -/
def trimSlice (s : State) (n : Nat) (l : List (Nat × BitVec 512 × Nat × Bool)) : List (Nat × BitVec 512 × Nat × Bool) :=
  if l.length ≤ 8192 then l
  else
    let pins := cluPins s n
    let shadows := (pins.filter (fun p => !l.any (fun x => x.1 == p.1 && x.2.2.1 == p.2))).length
    dropFree pins (l.length + shadows - 32768) l

/-- The slice's copy of a line for a reader with a floor, with its stamp, fetched with its poison bit if there is none recent enough
(R24, R92, R338). -/
def sliceLine (s : State) (n line floor : Nat) : (BitVec 512 × Nat) × State :=
  match sliceFind s n line floor with
  | some x => ((x.2.1, x.2.2.1), s)
  | none =>
    let d := lineData s line
    ((d, s.now), s.setClu n { s.clu n with slice := trimSlice s n ((line, d, s.now, s.poisoned line) :: (s.clu n).slice.filter (fun x => x.1 != line)) })

/-- Whether the plain read of a line by a thread meets poison: of the stored copy that serves it, pinned or not, or of the line where it
must be fetched (R153, R337, R338). -/
def readPoison (s : State) (c : Nat) (t : Thread) (k : Nat) : Bool :=
  if portRead c k then s.poisoned (lineOf k)
  else
    match t.pins.find? (fun p => p.1 == lineOf k) with
    | some p => p.2.2.2
    | none =>
      if pinned c k then
        match sliceFind s (cluOf c) (lineOf k) (viewFloor s.now t c k) with
        | some x => x.2.2.2
        | none => s.poisoned (lineOf k)
      else s.poisoned (lineOf k)

/-- Why a request of core `c` for a location is not served where it arrives: the router (R310), a failed link (R344) or the other
module (R311) refuses it; 0 where it is served. -/
def fetchCause (s : State) (c k : Nat) : Nat :=
  match placeOf k with
  | .sram x _ => if s.routed c (cluOf x) then 0 else 0x08
  | _ => if s.reach k then (s.remoteCause (s.tenantOf c) k).getD 0 else 0x09

/-- Whether a location is a wake cell of this module, or of another (R262, R269). -/
def isCell (k : Nat) : Bool :=
  match devOff k with
  | some o => cellBase ≤ o && o < cellBase + 8 * 65536
  | none => false

/-- Runs a flush for the issuing thread: a store that must wait keeps the thread out of the rotation (R35, R41). -/
def flushing (f : State → State × Bool) : M Unit := fun s =>
  let (s1, b) := f s
  if b then .error (.wait .flush s1) else .ok ((), s1)

/-- A device register's 8 bytes as they stand. -/
def devWord (s : State) (k : Nat) : Word := match placeOf k with | .dev off => wordOf (devRead s (off / 8 * 8) 8) | _ => s.w64 (k / 8 * 8)

/-- A plain read of `n` bytes of a device register by the issuing thread: the value it has read in its phase, or the present one with
the core's buffered stores over it (R8, R91, R92). A wake cell answers each read at the escrow engine, after the core's stores to it
(R262, R266). (DEDUCED, log 100.) -/
def readDev (k n : Nat) (ea : Word) : M Nat := do
  let (c, sl) ← me
  let t ← th
  let lo := 8 * (k % 8)
  if isCell k then do
    flushing (fun s => flush s c (fun _ _ => false) [] [(k, n)])
    let lost ← ask (fun s => fetchCause s c k)
    need (lost = 0) lost ea
    let v ← ask (fun s => devWord s k)
    pure (v.toNat / 2 ^ lo % 2 ^ (8 * n))
  else
    match t.views.find? (fun p => p.1 == k / 8) with
    | some p => pure (p.2.toNat / 2 ^ lo % 2 ^ (8 * n))
    | none => do
      let lost ← ask (fun s => fetchCause s c k)
      need (lost = 0) lost ea
      let v ← ask (fun s => overlayWord (k / 8) (devWord s k) (s.core c).wbuf)
      upd (fun s => s.modThread c sl (fun t => { t with views := t.views ++ [(k / 8, v)] }))
      pure (v.toNat / 2 ^ lo % 2 ^ (8 * n))

/-- A plain read of `n` bytes at a location by the issuing thread, after its checks (R90-R93); what must be fetched goes
through the router (R310). (DEDUCED, log 84.) -/
def readPlain (k n : Nat) (ea : Word) : M Nat := do
  let (c, sl) ← me
  let t ← th
  if portRead c k then
    let e ← ask (fun s => overlay (lineOf k) (lineData s (lineOf k)) (s.core c).wbuf)
    pure (lineNat e (k % 64) n)
  else if (devOff k).isSome then readDev k n ea
  else
    match t.pins.find? (fun p => p.1 == lineOf k) with
    | some p => pure (lineNat p.2.1 (k % 64) n)
    | none =>
      let room ← ask (fun s => isHub c || pinRoom s c)
      if !room then
        if t.pins.isEmpty then waitOn .pin else trap 0x17 ea
      else do
        flushing (fun s => forceOwn s (s.tid c sl) k)
        let held ← ask (fun s => pinned c k && sliceHas s (cluOf c) (lineOf k) (viewFloor s.now t c k))
        let lost ← ask (fun s => fetchCause s c k)
        need (held || lost = 0) lost ea
        let d ← (if pinned c k then step1 (fun s => sliceLine s (cluOf c) (lineOf k) (viewFloor s.now t c k))
                 else ask (fun s => (lineData s (lineOf k), s.now)))
        let e ← ask (fun s => overlay (lineOf k) d.1 (s.core c).wbuf)
        upd (fun s => s.modThread c sl (fun t => sees (lineOf k) d.2 { t with pins := t.pins ++ [(lineOf k, e, d.2, false)] }))
        pure (lineNat e (k % 64) n)

/-- Whether a location lies in the issuing core's own window (R90). -/
def owned (c k : Nat) : Bool :=
  match placeOf k with
  | .sram x _ => x == c
  | _ => false

/-- A plain store of bytes at a location by the issuing thread, after its checks (R34, R90, R91): to its own window at once,
elsewhere into the core's write buffer, after what its fences publish in the buffers it left behind (R95). It answers whether the thread
leaves the rotation. -/
def writePlain (k pa : Nat) (bs : List Byte) : M Bool := do
  let (c, sl) ← me
  if owned c k then
    let w ← ask (fun s => storeWaits s k bs.length)
    if w then waitOn (.store k bs.length)
    else
      upd (fun s => touchRegs (s.put k bs) c (k - winKey c 0) bs.length)
      pure false
  else
    flushing (fun s => forceIn s (leftBy s (s.tid c sl)) [])
    upd (fun s =>
      let s1 := s.setCore c { s.core c with wbuf := (s.core c).wbuf ++ [.store (s.tid c sl) k pa bs false] }
      patchPins (s1.modThread c sl (writes (lineOf k))) c k bs)
    pure true

/-- What the thread's buffers left behind no longer hold once a release covers all of them. -/
def settleLeft (sc : Scope) (t : Thread) : Thread := if sc = .dom then { t with left := [] } else t

/-- The release of the issuing thread at a scope (R95). -/
def release (sc : Scope) : M Unit := do
  flushing (fun s => releaseBy s s.cur.core (s.tid s.cur.core s.cur.slot) sc)
  modTh (settleLeft sc)

/-- The end of the issuing thread's phase at a scope. -/
def phaseEnd (sc : Scope) : M Unit := fun s => modTh (endPhase s.cur.core sc) s

/-- The acquire of the issuing thread at a scope (R95). -/
def acquire (sc : Scope) : M Unit := fun s => modTh (fun t => endPhase s.cur.core sc (refresh s.now sc t)) s

/-- What the issuing thread's fences publish is performed before its next act (R95). (DEDUCED, log 83.) -/
def fences : M Unit := fun s => flushing (fun s => forceFences s s.cur.core (s.tid s.cur.core s.cur.slot)) s

/-- The mark of a fence of thread `tid` at the scope of core `c`, in the buffer of core `b`. -/
def markAt (s : State) (b c : Nat) (tid : Word) (sc : Scope) : State :=
  if (s.core b).wbuf.isEmpty then s else s.setCore b { s.core b with wbuf := (s.core b).wbuf ++ [.fence tid c sc] }

/-- A FENCE.REL of a thread (R95): a mark in its core's write buffer, and in those it left behind. -/
def markBy (s : State) (c : Nat) (tid : Word) (sc : Scope) : State :=
  (leftBy s tid).foldl (fun s e => markAt s e.1 c e.2 sc) (markAt s c c tid sc)

/-- A FENCE.REL (R95). -/
def fenceMark (sc : Scope) : M Unit := upd (fun s => markBy s s.cur.core (s.tid s.cur.core s.cur.slot) sc)

/-- The acquire half of a FENCE (R95): later reads of lines not pinned see the present. -/
def fenceAcq (sc : Scope) : M Unit := fun s => modTh (refresh s.now sc) s

/-- TRAPINFO of an atomic that names no atomic-capable location of device register space (R304, R305, REASON 6). -/
def atomicInfo (s : State) (c : Nat) (ea : Word) : Word :=
  if ea.toNat / 2 ^ 56 = 0 then xlInfo ea.toNat (physOf s c ea).2 .rmw 6 else ea

/-! Atomics (R98). -/

/-- Prepares an atomic of the issuing thread at a location: fences and the core's earlier writes there are performed, the
router admits it (R310), and no pending register word is overwritten (R41). -/
def atomicAt (k n : Nat) (ea : Word) (writes : Bool) : M Unit := do
  let (c, sl) ← me
  flushing (fun s => forceAt s c (s.tid c sl) k n)
  let lost ← ask (fun s => fetchCause s c k)
  need (lost = 0) lost ea
  let w ← ask (fun s => writes && (storeWaits s k n || (!owned c k && tooLateFor s k n)))
  if w then waitOn (.store k n) else pure ()
  upd (fun s => if owned c k then s else (dropLine s (cluOf c) (lineOf k)).modThread c sl (sees (lineOf k) s.now))

/-- The value at a location's ordering point. -/
def atomicRead (k n : Nat) : M Nat := ask (fun s => natAt s.mem k n)

/-- Performs an atomic's write, which the thread's core sees in its pins (R98). -/
def atomicWrite (k : Nat) (bs : List Byte) : M Unit := do
  let (c, _) ← me
  upd (fun s =>
    let s1 := patchPins (s.put k bs) c k bs
    match placeOf k with
    | .sram x o => touchRegs s1 x o bs.length
    | _ => s1)

end Sys2Proof.Machine
end

