-- ==== Sys2Proof/Machine/Scalar.lean ====
section
/-! DEFINITION. The integer forms of MAJ 0x00 to 0x04 (R127-R133): arithmetic and logic, immediates, moves, addresses, bit fields and selects. -/

namespace Sys2Proof.Machine

/-! What the operations compute. -/

/-- An operation's result and FLAGS, from its operands and the FLAGS before. -/
abbrev AluFn := Word → Word → Flags → Word × Flags

/-- Addition (R128). -/
def fnAdd : AluFn := fun x y _ => addC x y false
/-- Subtraction (R128). -/
def fnSub : AluFn := fun x y _ => addC x (~~~y) true
/-- Addition with carry (R128). -/
def fnAdc : AluFn := fun x y f => addC x y f.c
/-- Subtraction with carry (R128). -/
def fnSbc : AluFn := fun x y f => addC x (~~~y) f.c
/-- A logical operation with its flags (R128). -/
def fnLogic (g : Word → Word → Word) : AluFn := fun x y _ => (g x y, logicFlags (g x y))
/-- An operation that leaves FLAGS unchanged (R128). -/
def fnPlain (g : Word → Word → Word) : AluFn := fun x y f => (g x y, f)

/-- The shift amount, bits [5:0] (R128). -/
def shAmt (y : Word) : Nat := y.toNat % 64
/-- Unsigned division, 0 for a divisor of 0 (R128). -/
def divU (x y : Word) : Word := BitVec.ofNat 64 (x.toNat / y.toNat)
/-- Signed division truncated toward zero (R128): a divisor of 0 gives 0, and the overflowing quotient wraps. -/
def divS (x y : Word) : Word := BitVec.ofInt 64 (x.toInt.tdiv y.toInt)
/-- Unsigned remainder: the dividend for a divisor of 0 (R128). -/
def remU (x y : Word) : Word := BitVec.ofNat 64 (x.toNat % y.toNat)
/-- Signed remainder (R128). -/
def remS (x y : Word) : Word := BitVec.ofInt 64 (x.toInt.tmod y.toInt)

def gAnd (x y : Word) : Word := x &&& y
def gOr (x y : Word) : Word := x ||| y
def gXor (x y : Word) : Word := x ^^^ y
def gAndn (x y : Word) : Word := x &&& ~~~y
def gShl (x y : Word) : Word := x <<< shAmt y
def gShr (x y : Word) : Word := x >>> shAmt y
def gSar (x y : Word) : Word := x.sshiftRight (shAmt y)
def gRor (x y : Word) : Word := x.rotateRight (shAmt y)
def gMul (x y : Word) : Word := x * y
def gMulhu (x y : Word) : Word := BitVec.ofNat 64 (x.toNat * y.toNat / 2 ^ 64)
def gMulhs (x y : Word) : Word := BitVec.ofInt 64 (x.toInt * y.toInt / 2 ^ 64)
def gMinu (x y : Word) : Word := if x.toNat ≤ y.toNat then x else y
def gMins (x y : Word) : Word := if x.toInt ≤ y.toInt then x else y
def gMaxu (x y : Word) : Word := if x.toNat ≤ y.toNat then y else x
def gMaxs (x y : Word) : Word := if x.toInt ≤ y.toInt then y else x

/-! Operand shapes. -/

/-- `op Wd, Wa, Wb` (R128). -/
def alu3 (f : AluFn) (d a b : WReg) : M Unit := do
  chk [(0, d), (1, a), (2, b)]
  let x ← rd a
  let y ← rd b
  needDst d
  let t ← th
  let (v, g) := f x y t.flags
  wr d v
  setFlags g
  fin 8

/-- `op Wd, Wa, imm` (R130). -/
def aluI (f : AluFn) (d a : WReg) (i : Imm) : M Unit := do
  chk [(0, d), (1, a)]
  let x ← rd a
  needDst d
  let t ← th
  let (v, g) := f x i.sext t.flags
  wr d v
  setFlags g
  fin i.formBytes

/-- `op Wa, Wb`: FLAGS alone (R128). -/
def aluCmp (f : AluFn) (a b : WReg) : M Unit := do
  chk [(1, a), (2, b)]
  let x ← rd a
  let y ← rd b
  let t ← th
  setFlags (f x y t.flags).2
  fin 8

/-- `op Wa, imm`: FLAGS alone (R130). -/
def aluCmpI (f : AluFn) (a : WReg) (i : Imm) : M Unit := do
  chk [(1, a)]
  let x ← rd a
  let t ← th
  setFlags (f x i.sext t.flags).2
  fin i.formBytes

/-- `op Wd, Wa` with a form of `n` bytes: Wd is a function of Wa (R131). -/
def unary (g : Word → Word) (d a : WReg) (n : Nat) : M Unit := do
  chk [(0, d), (1, a)]
  let x ← rd a
  needDst d
  wr d (g x)
  fin n

/-! MAJ 0x00 (R128). -/

def execAdd (d a b : WReg) (s : State) : Out := run (alu3 fnAdd d a b) s
def execSub (d a b : WReg) (s : State) : Out := run (alu3 fnSub d a b) s
def execAdc (d a b : WReg) (s : State) : Out := run (alu3 fnAdc d a b) s
def execSbc (d a b : WReg) (s : State) : Out := run (alu3 fnSbc d a b) s
def execAnd (d a b : WReg) (s : State) : Out := run (alu3 (fnLogic gAnd) d a b) s
def execOr (d a b : WReg) (s : State) : Out := run (alu3 (fnLogic gOr) d a b) s
def execXor (d a b : WReg) (s : State) : Out := run (alu3 (fnLogic gXor) d a b) s
def execAndn (d a b : WReg) (s : State) : Out := run (alu3 (fnLogic gAndn) d a b) s
def execShl (d a b : WReg) (s : State) : Out := run (alu3 (fnPlain gShl) d a b) s
def execShr (d a b : WReg) (s : State) : Out := run (alu3 (fnPlain gShr) d a b) s
def execSar (d a b : WReg) (s : State) : Out := run (alu3 (fnPlain gSar) d a b) s
def execRor (d a b : WReg) (s : State) : Out := run (alu3 (fnPlain gRor) d a b) s
def execMul (d a b : WReg) (s : State) : Out := run (alu3 (fnPlain gMul) d a b) s
def execMulhu (d a b : WReg) (s : State) : Out := run (alu3 (fnPlain gMulhu) d a b) s
def execMulhs (d a b : WReg) (s : State) : Out := run (alu3 (fnPlain gMulhs) d a b) s
def execDivu (d a b : WReg) (s : State) : Out := run (alu3 (fnPlain divU) d a b) s
def execDivs (d a b : WReg) (s : State) : Out := run (alu3 (fnPlain divS) d a b) s
def execRemu (d a b : WReg) (s : State) : Out := run (alu3 (fnPlain remU) d a b) s
def execRems (d a b : WReg) (s : State) : Out := run (alu3 (fnPlain remS) d a b) s
def execMinu (d a b : WReg) (s : State) : Out := run (alu3 (fnPlain gMinu) d a b) s
def execMins (d a b : WReg) (s : State) : Out := run (alu3 (fnPlain gMins) d a b) s
def execMaxu (d a b : WReg) (s : State) : Out := run (alu3 (fnPlain gMaxu) d a b) s
def execMaxs (d a b : WReg) (s : State) : Out := run (alu3 (fnPlain gMaxs) d a b) s
def execCmp (a b : WReg) (s : State) : Out := run (aluCmp fnSub a b) s
def execTst (a b : WReg) (s : State) : Out := run (aluCmp (fnLogic gAnd) a b) s

/-- NEG: AddC(0, NOT A, 1) (R128). -/
def execNeg (d a : WReg) (s : State) : Out := run (do
  chk [(0, d), (1, a)]
  let x ← rd a
  needDst d
  let (v, g) := addC 0 (~~~x) true
  wr d v
  setFlags g
  fin 8) s

/-! MAJ 0x01 (R130). -/

def execAddi (d a : WReg) (i : Imm) (s : State) : Out := run (aluI fnAdd d a i) s
def execSubi (d a : WReg) (i : Imm) (s : State) : Out := run (aluI fnSub d a i) s
def execAdci (d a : WReg) (i : Imm) (s : State) : Out := run (aluI fnAdc d a i) s
def execSbci (d a : WReg) (i : Imm) (s : State) : Out := run (aluI fnSbc d a i) s
def execAndi (d a : WReg) (i : Imm) (s : State) : Out := run (aluI (fnLogic gAnd) d a i) s
def execOri (d a : WReg) (i : Imm) (s : State) : Out := run (aluI (fnLogic gOr) d a i) s
def execXori (d a : WReg) (i : Imm) (s : State) : Out := run (aluI (fnLogic gXor) d a i) s
def execAndni (d a : WReg) (i : Imm) (s : State) : Out := run (aluI (fnLogic gAndn) d a i) s
def execShli (d a : WReg) (i : Imm) (s : State) : Out := run (aluI (fnPlain gShl) d a i) s
def execShri (d a : WReg) (i : Imm) (s : State) : Out := run (aluI (fnPlain gShr) d a i) s
def execSari (d a : WReg) (i : Imm) (s : State) : Out := run (aluI (fnPlain gSar) d a i) s
def execRori (d a : WReg) (i : Imm) (s : State) : Out := run (aluI (fnPlain gRor) d a i) s
def execMuli (d a : WReg) (i : Imm) (s : State) : Out := run (aluI (fnPlain gMul) d a i) s
def execMulhui (d a : WReg) (i : Imm) (s : State) : Out := run (aluI (fnPlain gMulhu) d a i) s
def execMulhsi (d a : WReg) (i : Imm) (s : State) : Out := run (aluI (fnPlain gMulhs) d a i) s
def execDivui (d a : WReg) (i : Imm) (s : State) : Out := run (aluI (fnPlain divU) d a i) s
def execDivsi (d a : WReg) (i : Imm) (s : State) : Out := run (aluI (fnPlain divS) d a i) s
def execRemui (d a : WReg) (i : Imm) (s : State) : Out := run (aluI (fnPlain remU) d a i) s
def execRemsi (d a : WReg) (i : Imm) (s : State) : Out := run (aluI (fnPlain remS) d a i) s
def execMinui (d a : WReg) (i : Imm) (s : State) : Out := run (aluI (fnPlain gMinu) d a i) s
def execMinsi (d a : WReg) (i : Imm) (s : State) : Out := run (aluI (fnPlain gMins) d a i) s
def execMaxui (d a : WReg) (i : Imm) (s : State) : Out := run (aluI (fnPlain gMaxu) d a i) s
def execMaxsi (d a : WReg) (i : Imm) (s : State) : Out := run (aluI (fnPlain gMaxs) d a i) s
def execCmpi (a : WReg) (i : Imm) (s : State) : Out := run (aluCmpI fnSub a i) s
def execTsti (a : WReg) (i : Imm) (s : State) : Out := run (aluCmpI (fnLogic gAnd) a i) s

/-! MAJ 0x02, 0x03 (R131, R132). -/

/-- Leading zero bits of the lowest `n` bits of `x` (R131). -/
def clzN : Nat → Nat → Nat
  | 0, _ => 0
  | n + 1, x => if x / 2 ^ n % 2 = 1 then 0 else 1 + clzN n x

/-- Trailing zero bits of the lowest `n` bits of `x` (R131). -/
def ctzN : Nat → Nat → Nat
  | 0, _ => 0
  | n + 1, x => if x % 2 = 1 then 0 else 1 + ctzN n (x / 2)

/-- One bits among the lowest `n` bits of `x` (R131). -/
def popN : Nat → Nat → Nat
  | 0, _ => 0
  | n + 1, x => x % 2 + popN n (x / 2)

/-- The lowest `n` digits of base `w` of `x`, in reverse order, above `acc` (R131). -/
def revN (w : Nat) : Nat → Nat → Nat → Nat
  | 0, _, acc => acc
  | n + 1, x, acc => revN w n (x / w) (acc * w + x % w)

/-- The length of a bit field: a len field of 0 encodes 64 (R132). -/
def fieldLen (l : BitVec 6) : Nat := if l.toNat = 0 then 64 else l.toNat

/-- The low part of `x` of a size, sign-extended (R131, R150). -/
def signExt (n : Nat) (x : Nat) : Word :=
  let y := x % 2 ^ n
  if 2 ^ (n - 1) ≤ y then BitVec.ofNat 64 (y + 2 ^ 64 - 2 ^ n) else BitVec.ofNat 64 y

/-- Bits pos to pos + len - 1 of a word (R131). -/
def bfxVal (x : Word) (p l : BitVec 6) : Nat := x.toNat / 2 ^ p.toNat % 2 ^ fieldLen l

/-- A word with bits pos to pos + len - 1 replaced (R131). -/
def bfiVal (old x : Word) (p l : BitVec 6) : Word :=
  let k := 2 ^ p.toNat
  let w := 2 ^ fieldLen l
  BitVec.ofNat 64 (old.toNat % k + k * (x.toNat % w) + k * w * (old.toNat / (k * w)))

def execMov (d a : WReg) (s : State) : Out := run (unary id d a 8) s

/-- MOVI (R131). -/
def execMovi (d : WReg) (i : Imm) (s : State) : Out := run (do
  chk [(0, d)]
  needDst d
  wr d i.sext
  fin i.formBytes) s

/-- MOVHI: bits [63:32] of Wd (R131); Wd is read and written. -/
def execMovhi (d : WReg) (v : BitVec 32) (s : State) : Out := run (do
  chk [(0, d)]
  let x ← rd d
  wr d (BitVec.ofNat 64 (v.toNat * 2 ^ 32 + x.toNat % 2 ^ 32))
  fin 12) s

/-- LEA (R131). -/
def execLea (d a : WReg) (i : Imm) (s : State) : Out := run (unary (fun x => x + i.sext) d a i.formBytes) s

/-- LEAX: A + (B << sh) (R131). -/
def execLeax (d a b : WReg) (sh : Fin 5) (s : State) : Out := run (do
  chk [(0, d), (1, a), (2, b)]
  let x ← rd a
  let y ← rd b
  needDst d
  wr d (x + (y <<< sh.val))
  fin 8) s

/-- ADR: the instruction's address plus a signed byte displacement (R131). -/
def execAdr (d : WReg) (i : Imm) (s : State) : Out := run (do
  chk [(0, d)]
  needDst d
  let p ← iaddr
  wr d (p + i.sext)
  fin i.formBytes) s

def execSext (sz : Size) (d a : WReg) (s : State) : Out := run (unary (fun x => signExt (8 * sz.bytes) x.toNat) d a 8) s
def execZext (sz : Size) (d a : WReg) (s : State) : Out := run (unary (fun x => wordOf (x.toNat % 2 ^ (8 * sz.bytes))) d a 8) s
def execClz (d a : WReg) (s : State) : Out := run (unary (fun x => wordOf (clzN 64 x.toNat)) d a 8) s
def execCtz (d a : WReg) (s : State) : Out := run (unary (fun x => wordOf (ctzN 64 x.toNat)) d a 8) s
def execPopc (d a : WReg) (s : State) : Out := run (unary (fun x => wordOf (popN 64 x.toNat)) d a 8) s
def execBswap (d a : WReg) (s : State) : Out := run (unary (fun x => wordOf (revN 256 8 x.toNat 0)) d a 8) s
def execBrev (d a : WReg) (s : State) : Out := run (unary (fun x => wordOf (revN 2 64 x.toNat 0)) d a 8) s
def execBfx (d a : WReg) (p l : BitVec 6) (s : State) : Out := run (unary (fun x => wordOf (bfxVal x p l)) d a 12) s
def execBfxs (d a : WReg) (p l : BitVec 6) (s : State) : Out := run (unary (fun x => signExt (fieldLen l) (bfxVal x p l)) d a 12) s

/-- BFI: Wd is read and written (R131). -/
def execBfi (d a : WReg) (p l : BitVec 6) (s : State) : Out := run (do
  chk [(0, d), (1, a)]
  let x ← rd a
  let o ← rd d
  wr d (bfiVal o x p l)
  fin 12) s

/-! MAJ 0x04 (R133). -/

/-- CSEL: FLAGS are read at issue (R133). -/
def execCsel (c : Cond) (d a b : WReg) (s : State) : Out := run (do
  chk [(0, d), (1, a), (2, b)]
  let x ← rd a
  let y ← rd b
  needDst d
  let t ← th
  wr d (if Cond.holds c t.flags then x else y)
  fin 8) s

/-- CSET (R133). -/
def execCset (c : Cond) (d : WReg) (s : State) : Out := run (do
  chk [(0, d)]
  needDst d
  let t ← th
  wr d (if Cond.holds c t.flags then 1 else 0)
  fin 8) s

end Sys2Proof.Machine
end

