-- ==== Sys2Proof/Machine/MemOps.lean ====
section
/-! DEFINITION. Loads, stores and atomics, MAJ 0x0C, 0x0D and 0x10-0x13 (R148-R159), and the events of memory (R24, R35). -/

namespace Sys2Proof.Machine

/-- The register fields of an operand of a size: a pair for Q (R149). -/
def pairFields (f : Nat) (r : WReg) (sz : Size) : List FReg :=
  match sz with
  | .q => [(f, r), (f, r + 1)]
  | _ => [(f, r)]

/-- Reads an operand of a size: a pair for Q (R149). -/
def rdSz (r : WReg) (sz : Size) : M Nat := do
  let lo ← rd r
  match sz with
  | .q =>
    let hi ← rd (r + 1)
    pure (lo.toNat + 2 ^ 64 * hi.toNat)
  | _ => pure lo.toNat

/-- A destination of a size is free to be written (R41). -/
def needDstSz (r : WReg) (sz : Size) : M Unit := do
  needDst r
  match sz with
  | .q => needDst (r + 1)
  | _ => pure ()

/-- A destination of a size that the reply writes (R35, R149). -/
def wrSz (r : WReg) (sz : Size) (v : Nat) : M Unit := do
  wrLate r (wordOf v)
  match sz with
  | .q => wrLate (r + 1) (wordOf (v / 2 ^ 64))
  | _ => pure ()

/-- The party that core `c` is for a register at a location: to another module it is a remote one (R53, R54). -/
def partyAt (s : State) (c k : Nat) : Party :=
  match placeOf k with
  | .remote _ _ => .remote s.modid (s.tenantOf c)
  | _ => partyOf c

/-- The device register check of an access of the issuing thread (R375): a load or a store. -/
def devCheck (k n : Nat) (ea : Word) (store : Bool) : M Unit := do
  let (c, _) ← me
  match devOff k with
  | some off =>
    let ok ← ask (fun s => let p := partyAt s c k; if store then devWriteOk s p off n else devReadOk s p off n)
    need ok 0x07 ea
  | none => pure ()

/-- The device register check of an atomic (R155, R304): AST.D and ALD.D where the register takes them. -/
def devAtomic (k n : Nat) (ea : Word) (ld st : Bool) : M Unit := do
  let (c, _) ← me
  match devOff k with
  | some off =>
    let ok ← ask (fun s => let p := partyAt s c k
                           n == 8 && ((ld && devAtomicLoad off && devReadOk s p off n) || (st && devAtomicStore off && devWriteOk s p off n)))
    let info ← ask (fun s => atomicInfo s c ea)
    need ok 0x07 info
  | none => pure ()

/-! Loads and stores (R150-R152). -/

/-- A plain read that meets poison takes the poison fault (R148, R153, R338). -/
def plainPoison (k : Nat) (ea : Word) : M Unit := do
  let (c, _) ← me
  let t ← th
  let p ← ask (fun s => readPoison s c t k)
  need (!p) 0x09 ea

/-- The checks and the read of a load at an address (R148). (DESIGN CHOICE, log 11.) -/
def loadAt (ea : Word) (n : Nat) : M Nat := do
  let k ← locate .read ea n n
  devCheck k n ea false
  plainPoison k ea
  readPlain k n ea

/-- The result of a load: zero-extended, or sign-extended. -/
def loadVal (signed : Bool) (n v : Nat) : Nat := if signed then (signExt (8 * n) v).toNat else v

/-- A load with an offset (R150); the thread leaves the rotation until the reply (R35). -/
def load (signed : Bool) (sz : Size) (d a : WReg) (o : Imm) : M Unit := do
  chk (pairFields 0 d sz ++ [(1, a)])
  let x ← rd a
  needDstSz d sz
  let v ← loadAt (x + o.sext) sz.bytes
  wrSz d sz (loadVal signed sz.bytes v)
  finWait o.formBytes .reply

/-- A post-increment load (R150, R151). -/
def loadPost (signed : Bool) (sz : Size) (d a : WReg) : M Unit := do
  chk (pairFields 0 d sz ++ [(1, a)])
  let x ← rd a
  needDstSz d sz
  let v ← loadAt x sz.bytes
  wrSz d sz (loadVal signed sz.bytes v)
  wr a (x + wordOf sz.bytes)
  finWait 8 .reply

def execLd (sz : Size) (d a : WReg) (o : Imm) (s : State) : Out := run (load false sz d a o) s
def execLds (sz : Size) (d a : WReg) (o : Imm) (s : State) : Out := run (load true sz d a o) s
def execLdPostinc (sz : Size) (d a : WReg) (s : State) : Out := run (loadPost false sz d a) s
def execLdsPostinc (sz : Size) (d a : WReg) (s : State) : Out := run (loadPost true sz d a) s

/-- The checks and the write of a store at an address (R148, R153): whether the thread leaves the rotation (R152). -/
def storeAt (ea : Word) (n v : Nat) : M Bool := do
  let k ← locate .write ea n n
  devCheck k n ea true
  let (c, _) ← me
  let pa ← ask (fun s => (physOf s c ea).1)
  writePlain k pa (leBytes n v)

/-- ST (R150). -/
def execSt (sz : Size) (a : WReg) (o : Imm) (b : WReg) (s : State) : Out := run (do
  chk ((1, a) :: pairFields 2 b sz)
  let x ← rd a
  let v ← rdSz b sz
  let out ← storeAt (x + o.sext) sz.bytes v
  if out then finWait o.formBytes .reply else fin o.formBytes) s

/-- ST with post-increment (R150, R151): A = B stores the value before the increment. -/
def execStPostinc (sz : Size) (a b : WReg) (s : State) : Out := run (do
  chk ((1, a) :: pairFields 2 b sz)
  let x ← rd a
  let v ← rdSz b sz
  let out ← storeAt x sz.bytes v
  wr a (x + wordOf sz.bytes)
  if out then finWait 8 .reply else fin 8) s

/-! Atomics (R155-R159). -/

/-- The release an ORD carries, performed before its access and ending the phase there (R98). -/
def ordRelease (r : OrdScope) : M Unit := if r.ord.hasRel then do release r.scope; phaseEnd r.scope else pure ()

/-- The acquire an ORD carries, performed after its access (R98). -/
def ordAcquire (r : OrdScope) : M Unit := if r.ord.hasAcq then acquire r.scope else pure ()

/-- ALD (R156): one read at the ordering point. -/
def execAld (sz : Size) (d a : WReg) (o : Imm) (r : OrdScope) (s : State) : Out := run (do
  chk (pairFields 0 d sz ++ [(1, a)])
  let x ← rd a
  let ea := x + o.sext
  needDstSz d sz
  let k ← locate .ald ea sz.bytes sz.bytes
  devAtomic k sz.bytes ea true false
  poisonCheck k ea
  ordRelease r
  atomicAt k sz.bytes ea false
  let v ← (match placeOf k with
    | .dev off => ask (fun s => devRead s off sz.bytes)
    | _ => atomicRead k sz.bytes)
  ordAcquire r
  wrSz d sz v
  finWait o.formBytes .reply) s

/-- AST at an address (R156): one write at the ordering point. -/
def atomicStore (ea : Word) (n v : Nat) (r : OrdScope) : M Unit := do
  let (c, _) ← me
  let k ← locate .rmw ea n n
  devAtomic k n ea false true
  poisonCheck k ea
  ordRelease r
  atomicAt k n ea true
  (match placeOf k with
    | .dev off => upd (fun s => patchPins (devStoreN s (partyOf c) off n (wordOf v)) c k (leBytes n v))
    | _ => atomicWrite k (leBytes n v))
  ordAcquire r

def execAst (sz : Size) (a : WReg) (o : Imm) (b : WReg) (r : OrdScope) (s : State) : Out := run (do
  chk ((1, a) :: pairFields 2 b sz)
  let x ← rd a
  let v ← rdSz b sz
  atomicStore (x + o.sext) sz.bytes v r
  finWait o.formBytes .reply) s

/-- Prepares a read-modify-write of the issuing thread: its checks, its release, and the old value (R155, R157). -/
def rmwOpen (ea : Word) (n : Nat) (r : OrdScope) : M (Nat × Nat) := do
  let k ← locate .rmw ea n n
  devAtomic k n ea false false
  poisonCheck k ea
  ordRelease r
  atomicAt k n ea true
  let v ← atomicRead k n
  pure (k, v)

/-- A read-modify-write form (R157): `f` on N-bit numbers. -/
def rmw (f : Nat → Nat → Nat → Nat) (sz : Size) (d a : WReg) (o : Imm) (b : WReg) (r : OrdScope) : M Unit := do
  chk [(0, d), (1, a), (2, b)]
  let x ← rd a
  let y ← rd b
  needDst d
  let (k, old) ← rmwOpen (x + o.sext) sz.bytes r
  let m := 2 ^ (8 * sz.bytes)
  atomicWrite k (leBytes sz.bytes (f m old (y.toNat % m)))
  ordAcquire r
  wrLate d (wordOf old)
  finWait o.formBytes .reply

/-- An N-bit number as two's complement, `m` being 2^N. -/
def sgn (m x : Nat) : Int := if m ≤ 2 * x then (x : Int) - m else x

def execAswp (sz : Size) (d a : WReg) (o : Imm) (b : WReg) (r : OrdScope) (s : State) : Out := run (rmw (fun _ _ y => y) sz d a o b r) s
def execAadd (sz : Size) (d a : WReg) (o : Imm) (b : WReg) (r : OrdScope) (s : State) : Out := run (rmw (fun m x y => (x + y) % m) sz d a o b r) s
def execAand (sz : Size) (d a : WReg) (o : Imm) (b : WReg) (r : OrdScope) (s : State) : Out := run (rmw (fun _ x y => x &&& y) sz d a o b r) s
def execAor (sz : Size) (d a : WReg) (o : Imm) (b : WReg) (r : OrdScope) (s : State) : Out := run (rmw (fun _ x y => x ||| y) sz d a o b r) s
def execAxor (sz : Size) (d a : WReg) (o : Imm) (b : WReg) (r : OrdScope) (s : State) : Out := run (rmw (fun _ x y => x ^^^ y) sz d a o b r) s
def execAminu (sz : Size) (d a : WReg) (o : Imm) (b : WReg) (r : OrdScope) (s : State) : Out := run (rmw (fun _ x y => min x y) sz d a o b r) s
def execAmaxu (sz : Size) (d a : WReg) (o : Imm) (b : WReg) (r : OrdScope) (s : State) : Out := run (rmw (fun _ x y => max x y) sz d a o b r) s
def execAmins (sz : Size) (d a : WReg) (o : Imm) (b : WReg) (r : OrdScope) (s : State) : Out := run (rmw (fun m x y => if sgn m x ≤ sgn m y then x else y) sz d a o b r) s
def execAmaxs (sz : Size) (d a : WReg) (o : Imm) (b : WReg) (r : OrdScope) (s : State) : Out := run (rmw (fun m x y => if sgn m x ≤ sgn m y then y else x) sz d a o b r) s

/-- ACAS (R158): Wd holds the expected value and receives the old one. -/
def execAcas (sz : Size) (d a : WReg) (o : Imm) (b : WReg) (r : OrdScope) (s : State) : Out := run (do
  chk (pairFields 0 d sz ++ (1, a) :: pairFields 2 b sz)
  let x ← rd a
  let y ← rdSz b sz
  let e ← rdSz d sz
  let n := sz.bytes
  let m := 2 ^ (8 * n)
  let (k, old) ← rmwOpen (x + o.sext) n r
  let eq := old == e % m
  if eq then atomicWrite k (leBytes n (y % m)) else pure ()
  ordAcquire r
  wrSz d sz old
  setFlags ⟨eq, false, false, false⟩
  finWait o.formBytes .reply) s

/-- AFADD (R159): one rounding under RMODE; flags in the issuing thread's IFLAGS. -/
def execAfadd (t : FFmt) (d a : WReg) (o : Imm) (b : WReg) (r : OrdScope) (s : State) : Out := run (do
  chk [(0, d), (1, a), (2, b)]
  let x ← rd a
  let y ← rd b
  needDst d
  let p ← th
  let n := t.width / 8
  let (k, old) ← rmwOpen (x + o.sext) n r
  let (v, g) := fAdd t p.rmode (t.opnd (wordOf old)) (t.opnd y)
  atomicWrite k (leBytes n v)
  ordAcquire r
  wrLate d (wordOf old)
  raise g
  finWait o.formBytes .reply) s

/-! Events. -/

/-- MEMORY_REPLY: the reply reaches the core, which writes the value it brings, and the thread re-enters (R35). -/
def execMemoryReply (core slot : Nat) (s : State) : Out :=
  match s.thread core slot with
  | some t => if t.wait = .reply then .next (takeReply s core slot) else .next s
  | none => .next s

/-- PIN_FREE_RESUME: a pin has room again and the thread re-enters (R24). -/
def execPinFreeResume (core slot : Nat) (s : State) : Out :=
  match s.thread core slot with
  | some t => if t.wait = .pin && pinRoom s core then .next (setWait s core slot .none) else .next s
  | none => .next s

end Sys2Proof.Machine
end

