-- ==== Sys2Proof/Machine/Barrier.lean ====
section
/-! DEFINITION. Phases and fences, MAJ 0x14 (R95, R160), and barriers, MAJ 0x15 (R161-R166). -/

namespace Sys2Proof.Machine

/-! Phases and fences. -/

/-- Whether a core's buffer holds a write to its own home pseudo-channel, for which alone a PHASE at CORE scope leaves the rotation (R35, R95). -/
def channelWrites (s : State) (c : Nat) : Bool :=
  (s.core c).wbuf.any (fun e => match e with | .store _ k _ _ _ => placeOf k == .hbm c | .fence _ _ _ => false)

/-- Whether a PHASE form at a scope leaves the rotation; `rel` for one that publishes (R35, R95). -/
def phaseLeaves (s : State) (sc : Scope) (rel : Bool) : Bool := sc != .core || (rel && channelWrites s s.cur.core)

/-- A PHASE form is over: the thread re-enters at the last acknowledgement, or stays in the rotation (R35). -/
def finPhase (leaves : Bool) : M Unit := if leaves then finWait 8 .reply else fin 8

/-- PHASE.REL (R95). -/
def execPhaseRel (sc : Scope) (s : State) : Out := run (do
  let out ← ask (fun s => phaseLeaves s sc true)
  release sc
  phaseEnd sc
  finPhase out) s

/-- PHASE.ACQ (R95). -/
def execPhaseAcq (sc : Scope) (s : State) : Out := run (do
  let out ← ask (fun s => phaseLeaves s sc false)
  acquire sc
  finPhase out) s

/-- PHASE (R95): as PHASE.REL, then as PHASE.ACQ. -/
def execPhase (sc : Scope) (s : State) : Out := run (do
  let out ← ask (fun s => phaseLeaves s sc true)
  release sc
  acquire sc
  finPhase out) s

/-- FENCE.REL (R95): ordered, not awaited. -/
def execFenceRel (sc : Scope) (s : State) : Out := run (do
  let _ ← th
  fenceMark sc
  fin 8) s

/-- FENCE.ACQ (R95). -/
def execFenceAcq (sc : Scope) (s : State) : Out := run (do
  fenceAcq sc
  finWait 8 .reply) s

/-- FENCE.ACQ.REL (R160): FENCE.REL, then FENCE.ACQ. -/
def execFenceAcqRel (sc : Scope) (s : State) : Out := run (do
  let _ ← th
  fenceMark sc
  fenceAcq sc
  finWait 8 .reply) s

/-! Barrier records (R161). -/

/-- A barrier record's four words. -/
structure BarRec where
  w0 : Word
  w1 : Word
  w2 : Word
  w3 : Word
  deriving DecidableEq, Repr

def BarRec.kind (b : BarRec) : Nat := fld b.w0 60 4
def BarRec.broken (b : BarRec) : Bool := bit b.w0 59
def BarRec.posted (b : BarRec) : Bool := bit b.w0 58
def BarRec.scope (b : BarRec) : Nat := fld b.w0 55 3
def BarRec.nxt (b : BarRec) : Nat := fld b.w0 16 16
def BarRec.ph (b : BarRec) : Nat := fld b.w0 0 16
def BarRec.ndrops (b : BarRec) : Nat := fld b.w1 48 16
def BarRec.drops (b : BarRec) : Nat := fld b.w1 32 16
def BarRec.cnt (b : BarRec) : Nat := fld b.w1 16 16
def BarRec.exp (b : BarRec) : Nat := fld b.w1 0 16

/-- Word 0 of its fields. -/
def barW0 (kind : Nat) (broken posted : Bool) (scope nxt ph : Nat) : Word :=
  wordOf (kind * 2 ^ 60 + bitNat broken * 2 ^ 59 + bitNat posted * 2 ^ 58 + scope * 2 ^ 55 + nxt % 65536 * 65536 + ph % 65536)

/-- Word 1 of a counting record of its fields. -/
def barW1 (ndrops drops cnt exp : Nat) : Word :=
  wordOf (ndrops % 65536 * 2 ^ 48 + drops % 65536 * 2 ^ 32 + cnt % 65536 * 65536 + exp % 65536)

/-- The record at a location. -/
def barAt (s : State) (k : Nat) : BarRec := ⟨s.w64 k, s.w64 (k + 8), s.w64 (k + 16), s.w64 (k + 24)⟩

/-- The record's bytes. -/
def BarRec.bytes (b : BarRec) : List Byte := leBytes 8 b.w0.toNat ++ leBytes 8 b.w1.toNat ++ leBytes 8 b.w2.toNat ++ leBytes 8 b.w3.toNat

/-- Whether a form that expects one of some kinds finds its record valid (R161): no reserved bit is set. -/
def BarRec.valid (b : BarRec) (kinds : List Nat) : Bool := kinds.contains b.kind && fld b.w0 32 23 == 0 && b.w3 == 0

/-- TRAPINFO of a barrier fault (R161). -/
def barInfo (ea : Word) (invrec scmis waiter : Bool) : Word :=
  wordOf (ea.toNat / 32 * 32 + 4 * bitNat invrec + 2 * bitNat scmis + bitNat waiter)

/-- The cause a broken record of a kind gives (R166). -/
def barCause (kind : Nat) : Nat := if kind = 2 then 0x10 else 0x0F

/-- Whether phase `q` is complete when the record shows phase `ph` (R164). -/
def waitDone (ph q : Nat) : Bool :=
  let d := (ph + 65536 - q % 65536) % 65536
  1 ≤ d && d ≤ 32768

/-- The registered waiters of a record: core, slot, address, phase, acquire (R164). -/
def barWaiters (s : State) (k : Nat) : List (Nat × Nat × Word × Nat × Option Scope) :=
  s.slots.filterMap (fun p =>
    match p.2.thread with
    | some t =>
      match t.wait with
      | .barrier key va q acq => if key = k then some (p.1 / 16, p.1 % 16, va, q, acq) else none
      | _ => none
    | none => none)

/-- A wait that returns (R104, R164): the acquire, the PC past the wait, REPCNT clear. -/
def barReturn (s : State) (c sl : Nat) (acq : Option Scope) : State :=
  s.modThread c sl (fun t =>
    let t1 := match acq with
      | some sc => endPhase c sc (refresh s.now sc t)
      | none => t
    { t1 with pc := t1.pc + 8, repcnt := 0, wait := .none })

/-- Phases up to `ph` are complete: the waiters they held go on (R164). -/
def releaseWaiters (s : State) (k ph : Nat) : State :=
  (barWaiters s k).foldl (fun s w => if waitDone ph w.2.2.2.1 then barReturn s w.1 w.2.1 w.2.2.2.2 else s) s

/-- A broken barrier's waiters take its fault (R166). -/
def breakWaiters (s : State) (k kind : Nat) : State :=
  (barWaiters s k).foldl (fun s w =>
    takeTrap (s.modThread w.1 w.2.1 (fun t => { t with repcnt := 0 })) w.1 w.2.1 (barCause kind) (barInfo w.2.2.1 false false true)) s

/-- Completed phases of a counting record, from the loop of R163; two can complete at once. -/
def completePhases : Nat → BarRec → BarRec
  | 0, b => b
  | n + 1, b =>
    if 0 < b.exp ∧ b.cnt = b.exp then
      completePhases n { b with w0 := barW0 b.kind b.broken b.posted b.scope 0 (b.ph + 1),
                                w1 := barW1 0 b.ndrops b.nxt (b.exp + 65536 - b.drops) }
    else b

/-- An arrival for phase `q` at a counting record (R163); none for an over-arrival. -/
def arriveCount (b : BarRec) (q drop : Nat) : Option BarRec :=
  if q = b.ph ∧ b.cnt < b.exp then
    some (completePhases 2 { b with w1 := barW1 b.ndrops (b.drops + drop) (b.cnt + 1) b.exp })
  else if q = (b.ph + 1) % 65536 ∧ b.nxt < b.exp - b.drops then
    some (completePhases 2 { b with w0 := barW0 b.kind b.broken b.posted b.scope (b.nxt + 1) b.ph,
                                    w1 := barW1 (b.ndrops + drop) b.drops b.cnt b.exp })
  else none

/-- The record broken now (R166). -/
def BarRec.break (b : BarRec) (time : Word) : BarRec :=
  { b with w0 := barW0 b.kind true b.posted b.scope b.nxt b.ph, w2 := time }

/-- A byte-counting record after its counter became `v` (R165): complete, break, or neither. -/
def byteRec (b : BarRec) (v : Int) (posted : Bool) (time : Word) : BarRec × Bool :=
  let b1 : BarRec := { b with w0 := barW0 b.kind b.broken posted b.scope b.nxt b.ph, w1 := BitVec.ofInt 64 v }
  if posted && 0 < v then (b1.break time, false)
  else if posted && v = 0 then ({ b1 with w0 := barW0 b.kind b.broken false b.scope b.nxt (b.ph + 1) }, true)
  else (b1, true)

/-- Arrival of `n` bytes (R165): the record and whether it stands unbroken. -/
def arriveBytes (b : BarRec) (n : Nat) (time : Word) : BarRec × Bool := byteRec b (b.w1.toInt + n) b.posted time

/-- A posted expectation of `e` bytes (R165). -/
def postExpect (b : BarRec) (e : Nat) (time : Word) : BarRec × Bool :=
  if b.posted then (b.break time, false) else byteRec b (b.w1.toInt - e) true time

/-- Stores a record and lets go, or breaks, the waiters it decides. -/
def settleBarrier (s : State) (k : Nat) (b : BarRec) (ok : Bool) : State :=
  if ok then releaseWaiters s k b.ph else breakWaiters s k b.kind

/-- A copy's arrival of `n` bytes at a location (R165, R201): whether it counted. -/
def engineArrive (s : State) (k n : Nat) : State × Bool :=
  let b := barAt s k
  if !b.valid [2] || b.broken || s.poisoned (lineOf k) then (s, false)
  else
    let (b1, ok) := arriveBytes b n s.time
    (settleBarrier (s.put k b1.bytes) k b1 ok, ok)

/-! Barrier forms (R162). -/

/-- Finds a barrier record for a form of the issuing thread (R148, R161); device register space, of this module or another, holds none. -/
def barLocate (ea : Word) : M Nat := do
  let k ← locate .rmw ea 32 32
  need (devOff k).isNone 0x07 ea
  poisonCheck k ea
  atomicAt k 32 ea true
  pure k

/-- Opens a barrier form other than BINIT: its record, checked for kind, then for scope (R161, R162); a form looks at BROKEN only after
both, an order that R166 leaves open (DESIGN CHOICE, log 119). WAITER of its faults is 1 for a
form that only waits, as for a broken record (R166; log 17). -/
def barOpen (ea : Word) (kinds : List Nat) (r : OrdScope) (waiter : Bool) : M (Nat × BarRec) := do
  let k ← barLocate ea
  let b ← ask (fun s => barAt s k)
  need (b.valid kinds) 0x07 (barInfo ea true false waiter)
  need (r.ord == .none || r.scope.code == b.scope) 0x07 (barInfo ea false true waiter)
  pure (k, b)

/-- Stores a record by an arriving form and settles its waiters; a broken one faults (R163, R165). -/
def barStore (ea : Word) (k : Nat) (b : BarRec) (ok : Bool) : M Unit := do
  atomicWrite k b.bytes
  upd (fun s => settleBarrier s k b ok)
  need ok (barCause b.kind) (barInfo ea false false false)

/-- One counting arrival with its release (R163). (DEDUCED, log 85.) -/
def barArrive (ea : Word) (q drop : Nat) (r : OrdScope) : M (Nat × BarRec) := do
  let (k, _) ← barOpen ea [1] r false
  if r.ord.hasRel then do release r.scope; phaseEnd r.scope else pure ()
  let b ← ask (fun s => barAt s k)
  need (!b.broken) 0x0F (barInfo ea false false false)
  match arriveCount b q drop with
  | some b1 =>
    barStore ea k b1 true
    pure (k, b1)
  | none =>
    let time ← ask (fun s => s.time)
    barStore ea k (b.break time) false
    pure (k, b)

/-- The wait for phase `q` (R164): it returns now, or the thread registers. -/
def barWait (ea : Word) (k : Nat) (b : BarRec) (q : Nat) (r : OrdScope) (rep : Nat) : M Unit :=
  if b.broken then do
    modTh (fun t => { t with repcnt := 0 })
    trap (barCause b.kind) (barInfo ea false false true)
  else if waitDone b.ph q then do
    if r.ord.hasAcq then acquire r.scope else pure ()
    modTh (fun t => { t with repcnt := 0 })
    finWait 8 .reply
  else do
    modTh (fun t => { t with repcnt := rep })
    waitOn (.barrier k ea q (if r.ord.hasAcq then some r.scope else none))

/-- BINIT (R162): waiters already registered are first broken. -/
def execBinit (byt : Bool) (sc : Scope) (a b : WReg) (s : State) : Out := run (do
  chk (if byt then [(1, a)] else [(1, a), (2, b)])
  let x ← rd a
  let e ← (if byt then pure 0 else rd b)
  if !byt && (e.toNat = 0 || 65535 < e.toNat) then outOfRange 26 else pure ()
  let k ← barLocate x
  let old ← ask (fun s => barAt s k)
  upd (fun s => breakWaiters s k old.kind)
  atomicWrite k (BarRec.bytes ⟨barW0 (if byt then 2 else 1) false false sc.code 0 0, if byt then 0 else barW1 0 0 0 e.toNat, 0, 0⟩)
  finWait 8 .reply) s

/-- BARR (R162, R163). -/
def execBarr (a b : WReg) (r : OrdScope) (s : State) : Out := run (do
  chk [(1, a), (2, b)]
  let x ← rd a
  let q ← rd b
  let _ ← barArrive x (q.toNat % 65536) 0 r
  finWait 8 .reply) s

/-- BARDROP (R162, R163). -/
def execBardrop (a b : WReg) (r : OrdScope) (s : State) : Out := run (do
  chk [(1, a), (2, b)]
  let x ← rd a
  let q ← rd b
  let _ ← barArrive x (q.toNat % 65536) 1 r
  finWait 8 .reply) s

/-- BWAIT (R162, R164). -/
def execBwait (a b : WReg) (r : OrdScope) (s : State) : Out := run (do
  chk [(1, a), (2, b)]
  let x ← rd a
  let q ← rd b
  let (k, rec) ← barOpen x [1, 2] r true
  barWait x k rec (q.toNat % 65536) r 0) s

/-- REPCNT of the issuing thread clears. (DEDUCED, log 34.) -/
def clearRep (s : State) : State := s.modThread s.cur.core s.cur.slot (fun t => { t with repcnt := 0 })

/-- BSYNC (R162, R164): with REPCNT 1 its arrival is already counted and it only waits; REPCNT clears when it faults. -/
def execBsync (a b : WReg) (r : OrdScope) (s : State) : Out := run (do
  let t ← th
  let counted := t.repcnt = 1
  let faults {α : Type} (m : M α) : M α := if counted then onTrap clearRep m else m
  faults (chk [(1, a), (2, b)])
  let x ← faults (rd a)
  let q ← faults (rd b)
  let n := q.toNat % 65536
  let (k, rec) ← (if counted then onTrap clearRep (barOpen x [1] r true) else barArrive x n 0 r)
  barWait x k rec n r 1) s

/-- The largest byte count of BEXPECT and BARRB (R162). -/
def byteCountOk (v : Word) : Bool := v.toNat != 0 && v.toNat < 2 ^ 47

/-- BEXPECT (R165). -/
def execBexpect (a b : WReg) (s : State) : Out := run (do
  chk [(1, a), (2, b)]
  let x ← rd a
  let e ← rd b
  if byteCountOk e then pure () else outOfRange 26
  let (k, rec) ← barOpen x [2] OrdScope.none false
  need (!rec.broken) 0x10 (barInfo x false false false)
  let time ← ask (fun s => s.time)
  let (b1, ok) := postExpect rec e.toNat time
  barStore x k b1 ok
  finWait 8 .reply) s

/-- BARRB (R165). -/
def execBarrb (a b : WReg) (r : OrdScope) (s : State) : Out := run (do
  chk [(1, a), (2, b)]
  let x ← rd a
  let n ← rd b
  if byteCountOk n then pure () else outOfRange 26
  let (k, _) ← barOpen x [2] r false
  if r.ord.hasRel then do release r.scope; phaseEnd r.scope else pure ()
  let rec ← ask (fun s => barAt s k)
  need (!rec.broken) 0x10 (barInfo x false false false)
  let time ← ask (fun s => s.time)
  let (b1, ok) := arriveBytes rec n.toNat time
  barStore x k b1 ok
  finWait 8 .reply) s

end Sys2Proof.Machine
end

