-- ==== Sys2Proof/Machine/Future.lean ====
section
/-! DEFINITION. Futures: making a handle (R40, R207), delivering a completion (R40, R209-R211, R253, R292), and the flags of engine work (R76). -/

namespace Sys2Proof.Machine

/-- A future handle of its fields (R207). -/
def futHandle (srck core slot seq : Nat) : Word :=
  wordOf (0xF * 2 ^ 60 + srck * 2 ^ 56 + core * 2 ^ 45 + slot * 2 ^ 41 + seq % 65536 * 2 ^ 25)

/-- SRCK of a handle (R207). -/
def futSrck (h : Word) : Nat := fld h 56 4
/-- CORE of a future handle. -/
def futCore (h : Word) : Nat := fld h 45 11
/-- SLOT of a future handle. -/
def futSlot (h : Word) : Nat := fld h 41 4
/-- The handle as it was issued, CAN and STOP clear. -/
def futBase (h : Word) : Word := wordOf (h.toNat / 2 ^ 25 * 2 ^ 25)

/-- The frame of a thread whose registers its instructions name. -/
def Thread.frameNo (t : Thread) : Option Nat := if t.kernel then none else some (t.depth - 1)

/-- Writes a new future into register `d` of the thread in a slot, with PEND set, as one event (R40). -/
def placeFuture (s : State) (c sl srck d : Nat) : State × Word :=
  match s.thread c sl with
  | none => (s, 0)
  | some t =>
    let x := s.slot c sl
    let h := futHandle srck c sl x.seq
    let s1 := (s.setSlot c sl { x with seq := (x.seq + 1) % 65536 }).setReg c sl d h
    let s2 := s1.modThread c sl (fun t => { t with pend := setBit t.pend d })
    ({ s2 with eng := { s2.eng with futs := s2.eng.futs ++ [⟨h, .reg (s.tid c sl) t.frameNo d, false, false⟩] } }, h)

/-- A new future in a destination of the issuing thread. (DESIGN CHOICE, log 39.) -/
def newFuture (srck : Nat) (d : WReg) : M Word := step1 (fun s => let r := placeFuture s s.cur.core s.cur.slot srck d.val; (r.2, r.1))

/-- A register as it stands, without the wait of R41, and whether it is pending. -/
def peek (r : WReg) : M (Word × Bool) := do
  let (c, _) ← me
  let t ← th
  let v ← ask (fun s => s.reg c t r.val)
  pure (v, t.pends r.val)

/-- The key of byte `o` of a spilled thread's save record (R288), if its page translates. -/
def recordKey (s : State) (x : Spilled) (o : Nat) : Option Nat :=
  let c := tidCore x.tid
  match resolveEng s (s.tenantOf c) true .write (wordOf ((s.core c).savebase.toNat / 65536 * 65536 + 512 * x.entry + o)) with
  | .ok k => some k
  | .error _ => none

/-- What a completion does at a register word: a value, or STOP in the handle. -/
inductive Arrive
  | value (v : Word)
  | stop
  deriving DecidableEq, Repr

/-- A completion at a register of a frame (R40, R210, R211): none where the frame's words cannot be reached now. `filed`: the slot's
completion-time file is the thread's, and the register's word there takes the TIME, whichever frame holds it. (DEDUCED, log 37.) -/
def arriveAt (s : State) (c sl : Nat) (t : Thread) (f : FrameAt) (n : Nat) (a : Arrive) (filed : Bool) : Option State :=
  match frameKey s c sl t f.j f.wp (8 * n) with
  | none => none
  | some k =>
    if !f.pend.getLsbD n then some s
    else
      match a with
      | .stop => some (s.setW64 k (s.w64 k ||| wordOf (2 ^ 23)))
      | .value v =>
        let s1 := clearPend (s.setW64 k v) c sl f n
        some (if filed then s1.setSlot c sl { s1.slot c sl with ctime := tset 0 (s1.slot c sl).ctime n s1.time } else s1)

/-- A completion at a register of a spilled thread (R292): the record's word and PEND for the current frame, the block for one below. -/
def arriveSpilled (s : State) (x : Spilled) (j n : Nat) (a : Arrive) : Option State :=
  let c := tidCore x.tid
  if j + 1 = x.th.depth then
    match recordKey s x (8 * n), recordKey s x (s.frameRegs c + 16) with
    | some k, some kp =>
      if !x.th.pend.getLsbD n then some s
      else
        match a with
        | .stop => some (s.setW64 k (s.w64 k ||| wordOf (2 ^ 23)))
        | .value v =>
          let p := clrBit x.th.pend n
          some (((s.setW64 k v).setW64 kp (wordOf p.toNat)).modSpilled x.tid (fun y => { y with th := { y.th with pend := p } }))
    | _, _ => none
  else
    match (framesBelow s c x.slot x.th (x.th.depth - 1) x.th.wp).find? (fun f => f.j == j) with
    | some f => arriveAt s c x.slot x.th f n a false
    | none => some s

/-- A completion at the register a handle stands in, wherever its thread is (R40); a retired thread's is discarded (R41). (DEDUCED, log 37.) -/
def arriveReg (s : State) (tid : Word) (frame : Option Nat) (n : Nat) (a : Arrive) : Option State :=
  match s.find tid with
  | some (c, sl) =>
    match s.thread c sl with
    | none => some s
    | some t =>
      let fs := framesOf s c sl t
      let f := match frame with
        | none => if t.kernel then fs.head? else none
        | some j => fs.find? (fun f => f.j == j && !(t.kernel && !isHub c && f.pa == .cur))
      match f with
      | some f => arriveAt s c sl t f n a true
      | none => some s
  | none =>
    match s.spilledOf tid, frame with
    | some x, some j => arriveSpilled s x j n a
    | _, _ => some s

/-- A completion at a memory pair (R209): one 16-B write of value and 1; a stopped engine writes 3 into word 1. -/
def arrivePair (s : State) (key : Nat) (a : Arrive) : State :=
  match a with
  | .value v => s.put key (leBytes 8 v.toNat ++ leBytes 8 1)
  | .stop => s.putNat (key + 8) 8 3

/-- Whether a creation is that of a thread on its way, by the identifier it left with (R261). -/
def Creation.brings (tid : Word) (r : Creation) : Bool := match r.flit with | some f => f.tid == tid | none => false

/-- The flit of a thread on its way to another core, of this module or of another (R260, R261). -/
def State.flitFor (s : State) (tid : Word) : Option Flit :=
  ((s.eng.flits ++ s.eng.creations ++ s.eng.flitsOut.map (fun p => p.2)).find? (Creation.brings tid)).bind (fun r => r.flit)

/-- The context of a thread that a slot or a spill table holds. -/
def State.context (s : State) (tid : Word) : Option Thread :=
  match s.find tid with
  | some (c, sl) => s.thread c sl
  | none => (s.spilledOf tid).map (fun x => x.th)

/-- The rounding mode in force for a thread's restarted work (R75): that of its context, or of the flit that carries it (R261). -/
def State.rmodeOf (s : State) (tid : Word) : Option RMode :=
  match s.context tid with
  | some t => some t.rmode
  | none => (s.flitFor tid).map (fun f => RMode.ofCode (fld f.ctl 17 3))

/-- Changes the flit of a thread on its way. -/
def State.modFlit (s : State) (tid : Word) (g : Flit → Flit) : State :=
  let f (r : Creation) : Creation := if r.brings tid then { r with flit := r.flit.map g } else r
  { s with eng := { s.eng with flits := s.eng.flits.map f, creations := s.eng.creations.map f,
                               flitsOut := s.eng.flitsOut.map (fun p => (p.1, f p.2)) } }

/-- Whether a thread is live, spilled or on its way to another core; one that has gone to another module has not retired here (R46, R209,
R260). -/
def State.exists (s : State) (tid : Word) : Bool :=
  (s.find tid).isSome || (s.spilledOf tid).isSome || (s.flitFor tid).isSome

/-- Flags of engine work reach its thread (R76): its IFLAGS and the tree, its save record (or, while no page maps that, what its fill
adds), the IFLAGS that its flit carries (R261), or the tree alone. -/
def raiseTid (s : State) (tid : Word) (m : IFl) : State :=
  if m = 0 then s
  else
    match s.find tid with
    | some (c, sl) => raiseAt s c sl m
    | none =>
      let c := tidCore tid
      let s1 := treeRaise s (cluOf c) c (tidSlot tid) m
      match s1.spilledOf tid with
      | some x =>
        match recordKey s1 x (s1.frameRegs c + 8) with
        | some k => s1.setW64 k (s1.w64 k ||| wordOf (m.toNat * 2 ^ 20))
        | none => s1.modSpilled tid (fun y => { y with owed := y.owed ||| m })
      | none => s1.modFlit tid (fun f => { f with ctl := f.ctl ||| wordOf (m.toNat * 2 ^ 20) })

end Sys2Proof.Machine
end

