-- ==== Sys2Proof/Machine/Closures.lean ====
section
/-! DEFINITION. Closures and frames, MAJ 0x3B (R247-R259). -/

namespace Sys2Proof.Machine

/-- TRAPINFO of this chapter's faults (R259). -/
def clInfo (reason kreg core env : Nat) : Word := wordOf (reason * 2 ^ 28 + kreg % 4 * 2 ^ 24 + core % 2048 * 2 ^ 13 + env % 128 * 64)

/-- The same for a handle. -/
def hdlInfo (reason kreg : Nat) (h : Word) : Word := clInfo reason kreg (hdlCore h) (hdlEnv h)

/-- A K register of the issuing thread. -/
def rdK (k : KReg) : M Word := do
  let t ← th
  pure t.k[k]

/-- Whether a word has the layout of a handle that names a record of a core (R247); any other is not current (R249). -/
def hdlKind (h : Word) : Bool := fld h 60 4 == 0xC && fld h 0 30 == 0 && hdlCore h < Config.nCores

/-- A record of another core is reached through that core's port (R250, R310): the thread then leaves the rotation. -/
def hdlRemote (c : Nat) (h : Word) : Bool := hdlKind h && hdlCore h != c

/-- The router admits an access to a handle's record (R310). -/
def hdlPort (h : Word) : M Unit := do
  let (c, _) ← me
  let ok ← ask (fun s => !hdlRemote c h || s.routed c (cluOf (hdlCore h)))
  need ok 0x08 h

/-- The instruction of `n` bytes ends, waiting for the reply when the record lies on another core. -/
def finHdl (n : Nat) (remote : Bool) : M Unit := if remote then finWait n .reply else fin n

/-- Writes a K register, releasing the count of its old contents (R251). -/
def wrK (k : KReg) (h : Word) : M Unit := do
  let old ← rdK k
  upd (fun s => dropCount s old)
  modTh (fun t => { t with k := t.k.set k h })

/-- Takes a count on a handle; a full record faults (R250). -/
def addCount (kreg : Nat) (h : Word) : M Unit := do
  let full ← ask (fun s => hdlFull s h)
  need (!full) 0x0C (hdlInfo 6 kreg h)
  upd (fun s => takeCount s h)

/-- KDUP (R252). -/
def execKdup (d b : KReg) (s : State) : Out := run (do
  let h ← rdK b
  if d = b then fin 8
  else do
    hdlPort h
    let old ← rdK d
    hdlPort old
    let (c, _) ← me
    let cur ← ask (fun s => hdlCurrent s h)
    if cur then do addCount b.val h; wrK d h else wrK d 0
    finHdl 8 (hdlRemote c h || hdlRemote c old)) s

/-- KDROP (R252). -/
def execKdrop (b : KReg) (s : State) : Out := run (do
  let h ← rdK b
  hdlPort h
  let (c, _) ← me
  wrK b 0
  finHdl 8 (hdlRemote c h)) s

/-- Opens the memory word of a count form (R252): its location, prepared for an atomic. -/
def hdlWord (a : WReg) (o : BitVec 23) (writes : Bool) : M Nat := do
  chk [(1, a)]
  let x ← rd a
  let ea := x + o.signExtend 64
  let k ← locate .rmw ea 8 8
  let (c, _) ← me
  let info ← ask (fun s => atomicInfo s c ea)
  need (devOff k).isNone 0x07 info
  poisonCheck k ea
  atomicAt k 8 ea writes
  pure k

/-- KST (R252): the count, then the word. -/
def execKst (a : WReg) (o : BitVec 23) (b : KReg) (s : State) : Out := run (do
  let h ← rdK b
  let k ← hdlWord a o true
  hdlPort h
  let cur ← ask (fun s => hdlCurrent s h)
  if cur then addCount 0 h else pure ()
  atomicWrite k (leBytes 8 h.toNat)
  finWait 8 .reply) s

/-- KLD (R252). -/
def execKld (d : KReg) (a : WReg) (o : BitVec 23) (s : State) : Out := run (do
  let k ← hdlWord a o false
  let v ← atomicRead k 8
  let h := wordOf v
  let old ← rdK d
  if fld h 60 4 != 0xC then do
    hdlPort old
    wrK d 0
  else do
    need (fld h 0 30 == 0) 0x0D (hdlInfo 1 0 h)
    hdlPort h
    let cur ← ask (fun s => hdlCurrent s h)
    need cur 0x0D (hdlInfo 2 0 h)
    hdlPort old
    addCount 0 h
    wrK d h
  finWait 8 .reply) s

/-- KRELM (R252): one swap, then the count. -/
def execKrelm (a : WReg) (o : BitVec 23) (s : State) : Out := run (do
  let k ← hdlWord a o true
  let v ← atomicRead k 8
  hdlPort (wordOf v)
  atomicWrite k (leBytes 8 0)
  upd (fun s => dropCount s (wordOf v))
  finWait 8 .reply) s

/-! Capture (R255). -/

/-- TRAPINFO of a captured register out of partition (R118, R255, R258). -/
def capInfo (field reg : Nat) : Word := wordOf (field * 2 ^ 21 + reg % 32 * 2 ^ 16)

/-- The register numbers of a capture window. -/
def capRegs (cmask cbase : Nat) : List (Nat × Nat) :=
  (List.range 14).filterMap (fun j => if cmask / 2 ^ j % 2 = 1 then some (j, cbase + j) else none)

/-- The captured words: a reference is the register word's flat-window address; a value waits for a pending register. -/
def capWords (c wp rmask : Nat) : List (Nat × Nat) → M (List (Nat × Word))
  | [] => pure []
  | (j, r) :: l => do
    let v ← (if rmask / 2 ^ j % 2 = 1 then pure (flatVa c (wp + 8 * r)) else rd (Fin.ofNat 32 r))
    let rest ← capWords c wp rmask l
    pure ((j, v) :: rest)

/-- Whether a record of a core is free for the capture at `pc` of the thread in slot `sl`: unused, and reserved by no other (R255). -/
def freeFor (s : State) (c sl : Nat) (pc : Word) (i : Nat) : Bool :=
  !pUsed (s.purse c i 1)
  && (List.range 16).all (fun x => match s.thread c x with
      | some t => t.reserved.all (fun r => r.2 != i || (x == sl && r.1 == pc))
      | none => true)
  && (s.core c).spilled.all (fun x => x.th.reserved.all (fun r => r.2 != i))

/-- The record for the capture at `pc`: the one it has reserved, or the lowest free one (R255). -/
def captureRecord (s : State) (c sl : Nat) (pc : Word) : Option Nat :=
  match s.thread c sl with
  | none => none
  | some t =>
    match t.reserved.find? (fun r => r.1 == pc) with
    | some r => some r.2
    | none => (List.range 128).find? (freeFor s c sl pc)

/-- The capture at `pc` of a thread reserves record `i`, or reserves none any more (R255). -/
def reserve (pc : Word) (i : Option Nat) (t : Thread) : Thread :=
  { t with reserved := (i.map (fun i => (pc, i))).toList ++ t.reserved.filter (fun r => r.1 != pc) }

/-- CAPT and CAPTR (R255). -/
def capture (n : Nat) (k : KReg) (a : WReg) (cmask rmask cbase : Nat) : M Unit := do
  chk [(1, a)]
  let e ← rd a
  need (canonical e) 0x07 e
  need (e.toNat % 32 = 0) 0x05 e
  let (c, sl) ← me
  let t ← th
  let pc ← iaddr
  let nr ← ask (fun s => s.nregs c)
  let rs := capRegs cmask cbase
  (match rs.find? (fun p => nr ≤ p.2) with
    | some p => trap 0x03 (capInfo 0 p.2)
    | none => pure ())
  let free ← ask (fun s => captureRecord s c sl pc)
  match free with
  | none => trap 0x0C (clInfo 5 k.val c 0)
  | some i =>
    modTh (reserve pc (some i))
    let ws ← onTrap (fun s => s.modThread c sl (reserve pc none)) (capWords c t.wp rmask rs)
    modTh (reserve pc none)
    let old ← rdK k
    hdlPort old
    wrK k 0
    let gen ← ask (fun s => pGen (s.purse c i 0))
    upd (fun s =>
      let s1 := (s.setW64 (purseKey c i 0) (wordOf (e.toNat / 32 % 2 ^ 52 * 4096 + gen))).setW64 (purseKey c i 1)
        (pWord1 1 (t.wp / 8) false true cbase cmask rmask)
      ws.foldl (fun s p => s.setW64 (purseKey c i (2 + p.1)) p.2) s1)
    wrK k (hdlOf c i gen)
    finHdl n (hdlRemote c old)

def execCapt (k : KReg) (a : WReg) (cmask : BitVec 14) (cbase : BitVec 5) (s : State) : Out := run (capture 8 k a cmask.toNat 0 cbase.toNat) s
def execCaptr (k : KReg) (a : WReg) (cmask rmask : BitVec 14) (cbase : BitVec 5) (s : State) : Out :=
  run (capture 12 k a cmask.toNat rmask.toNat cbase.toNat) s

/-! Application (R256-R258). -/

/-- The checks of a handle by APPLY, APPLY.A and PARK (R256): REASON 1 and 2. -/
def hdlCheck (kreg : Nat) (h : Word) : M Unit := do
  need (fld h 60 4 == 0xC && fld h 0 30 == 0) 0x0D (hdlInfo 1 kreg h)
  hdlPort h
  let r ← ask (fun s => hdlReason s h)
  need (r == 0) 0x0D (hdlInfo 2 kreg h)

/-- Word 1 of a current handle's record. -/
def hdlWord1 (s : State) (h : Word) : Word := s.purse (hdlCore h) (hdlEnv h) 1

/-- A record that captures a register at or above `n` faults (R256, R258): FLD 2, VAL the lowest. -/
def hdlRegs (h : Word) (n : Nat) : M Unit := do
  let bad ← ask (fun s => capturedAbove s h n)
  match bad with
  | some r => trap 0x03 (capInfo 2 r)
  | none => pure ()

/-- APPLY (R256). -/
def execApply (b : KReg) (s : State) : Out := run (do
  let (c, sl) ← me
  let h ← rdK b
  hdlCheck b.val h
  let w1 ← ask (fun s => hdlWord1 s h)
  need (pRmask w1 == 0 || !pDead w1) 0x0B (hdlInfo 3 b.val h)
  let n ← ask (fun s => s.nregs c)
  hdlRegs h n
  let a0 ← rd 0
  let a1 ← rd 1
  let a2 ← rd 2
  let a3 ← rd 3
  let p ← iaddr
  let regs ← ask (fun s => captured s (hdlCore h) (hdlEnv h))
  let entry ← ask (fun s => pEntry (s.purse (hdlCore h) (hdlEnv h) 0))
  let r ← ask (fun s => openFrame s c sl (p + 8))
  (match r with
    | .error (cause, info) => trap cause info
    | .ok s1 => upd (fun _ => s1))
  let t ← th
  upd (fun s => setRegs s c t.wp ([(0, a0), (1, a1), (2, a2), (3, a3)] ++ regs))
  jump entry
  if hdlRemote c h then upd (fun s => setWait s c sl .reply) else pure ()) s

/-- RET (R257). (DEDUCED, log 40.) -/
def execRet (s : State) : Out := run (do
  let (c, sl) ← me
  let t ← th
  need (!t.kernel && t.depth != 1 && t.mdepth != t.depth) 0x07 (clInfo 7 0 0 0)
  if t.pend != 0 then waitOn .allPend else pure ()
  let n ← ask (fun s => s.frameRegs c)
  let r0 ← ask (fun s => s.reg c t 0)
  let r1 ← ask (fun s => s.reg c t 1)
  let rpc ← ask (fun s => s.w64 (winKey c (t.wp + n)))
  let r ← ask (fun s => closeTo s c sl t (t.depth - 2))
  (match r with
    | .error (cause, info) => trap cause info
    | .ok s1 => upd (fun _ => s1))
  let pend ← (do let t ← th; pure t.pend)
  wr 0 r0
  wr 1 r1
  modTh (fun t => { t with pend := pend, pc := rpc })) s

/-- The target core of APPLY.A (R258). -/
def applyTarget (b : KReg) (h : Word) (named : Option WReg) : M Nat := do
  let (c, _) ← me
  match named with
  | none => pure (hdlCore h)
  | some a =>
    let x ← rd a
    let t := x.toNat % 2048
    let ok ← ask (fun s => x.toNat < 2048 && t < Config.nCores && s.sameTenant c t)
    need ok 0x07 (clInfo 8 b.val t 0)
    pure t

/-- APPLY.A (R258): the creation is asked for, and the thread goes on. -/
def execApplyA (d : WReg) (b : KReg) (named : Option WReg) (r : OrdScope) (s : State) : Out := run (do
  chk ((0, d) :: (match named with | some a => [(1, a)] | none => []))
  let (c, _) ← me
  let h ← rdK b
  let _ ← (match named with | some a => rd a | none => pure 0)
  needDst d
  hdlCheck b.val h
  let w1 ← ask (fun s => hdlWord1 s h)
  need (pRmask w1 == 0) 0x0B (hdlInfo 4 b.val h)
  let t ← applyTarget b h named
  let same ← ask (fun s => (s.core t).wide == (s.core c).wide)
  need same 0x07 (clInfo 8 b.val t 0)
  let n ← ask (fun s => s.nregs c)
  hdlRegs h n
  let full ← ask (fun s => hdlFull s h)
  need (!full) 0x0C (hdlInfo 6 b.val h)
  if r.ord.hasRel then fenceMark r.scope else pure ()
  fences
  upd (fun s => takeCount s h)
  let f ← newFuture 4 d
  let p ← th
  upd (fun s => { s with eng := { s.eng with creations := s.eng.creations ++ [{
    core := t, entry := pEntry (s.purse (hdlCore h) (hdlEnv h) 0), regs := captured s (hdlCore h) (hdlEnv h), bsize := p.size,
    acq := if r.ord.hasAcq then some r.scope else none, env := some h, origin := .applyA f, cell := none, flit := none }] } })
  fin 8) s

end Sys2Proof.Machine
end

