-- ==== Sys2Proof/Machine/Control.lean ====
section
/-! DEFINITION. Control transfer, NOPs and hints, MAJ 0x08, 0x09 and 0x0B (R119, R138-R141), and the release of an align point (R47). -/

namespace Sys2Proof.Machine

/-- The target of a PC-relative branch at address `p` (R138). -/
def relTarget (p : Word) (disp : BitVec 23) : Word := p + BitVec.ofInt 64 (4 * disp.toInt)

/-- Branches if `c`, else falls through (R138). -/
def branchIf (c : Bool) (disp : BitVec 23) : M Unit := do
  let p ← iaddr
  if c then jump (relTarget p disp) else fin 8

def execNop64 (s : State) : Out := run (do
  let _ ← th
  fin 8) s

def execNop96 (s : State) : Out := run (do
  let _ ← th
  fin 12) s

def execB (disp : BitVec 23) (s : State) : Out := run (branchIf true disp) s

def execBc (c : Cond) (disp : BitVec 23) (s : State) : Out := run (do
  let t ← th
  branchIf (Cond.holds c t.flags) disp) s

/-- BL (R138). -/
def execBl (d : WReg) (disp : BitVec 23) (s : State) : Out := run (do
  chk [(0, d)]
  needDst d
  let p ← iaddr
  wr d (p + 8)
  jump (relTarget p disp)) s

def execCbz (a : WReg) (disp : BitVec 23) (s : State) : Out := run (do
  chk [(1, a)]
  let x ← rd a
  branchIf (x == 0) disp) s

def execCbnz (a : WReg) (disp : BitVec 23) (s : State) : Out := run (do
  chk [(1, a)]
  let x ← rd a
  branchIf (x != 0) disp) s

/-- DBNZ: Wd is read and written (R138). -/
def execDbnz (d : WReg) (disp : BitVec 23) (s : State) : Out := run (do
  chk [(0, d)]
  let x ← rd d
  wr d (x - 1)
  branchIf (x - 1 != 0) disp) s

/-- JR (R138, R139). -/
def execJr (a : WReg) (s : State) : Out := run (do
  chk [(1, a)]
  let t ← rd a
  checkTarget t
  jump t) s

/-- JLR (R138, R139). -/
def execJlr (d a : WReg) (s : State) : Out := run (do
  chk [(0, d), (1, a)]
  let t ← rd a
  checkTarget t
  needDst d
  let p ← iaddr
  wr d (p + 8)
  jump t) s

/-- JMPA (R138, R139). -/
def execJmpa (t : Word) (s : State) : Out := run (do
  let _ ← th
  checkTarget t
  jump t) s

/-- BLA (R138, R139): a 128-bit form. -/
def execBla (d : WReg) (t : Word) (s : State) : Out := run (do
  chk [(0, d)]
  checkTarget t
  needDst d
  let p ← iaddr
  wr d (p + 16)
  jump t) s

/-- HINT.ALIGN (R47, R141): the thread registers at its cluster's align point under (PC, tenant). -/
def execHintAlign (m : BitVec 5) (t : BitVec 16) (s : State) : Out := run (do
  let p ← iaddr
  let n ← ask (fun s => s.tenantOf s.cur.core)
  let k ← ask (fun s => s.ckOf s.cur.core)
  finWait 8 (.align p n m.toNat t.toNat k)) s

/-- Whether a count of cores names a group (R47). -/
def alignGroup (m : Nat) : Bool := 2 ≤ m && m ≤ 16

/-- The threads of a cluster that wait for a group at an align point under a key: core, slot, arrival (R47). -/
def alignWaiters (s : State) (n : Nat) (pc : Word) (tenant : Nat) : List (Nat × Nat × Nat) :=
  (List.range 256).filterMap (fun i =>
    let c := 16 * n + i / 16
    match s.thread c (i % 16) with
    | some t =>
      match t.wait with
      | .align p k m _ since => if p = pc && k = tenant && alignGroup m then some (c, i % 16, since) else none
      | _ => none
    | none => none)

/-- The number of distinct cores in a list that rises by core. -/
def distinctCores : List (Nat × Nat × Nat) → Nat
  | [] => 0
  | [_] => 1
  | x :: y :: l => (if x.1 = y.1 then 0 else 1) + distinctCores (y :: l)

/-- Whether the waiters of a key may leave at ck `now`, by the count `m` and the limit `t` of one of them (R47). -/
def alignDone (now : Nat) (ws : List (Nat × Nat × Nat)) (m t : Nat) : Bool :=
  m ≤ distinctCores ws || ws.any (fun w => w.2.2 + t ≤ now)

/-- ALIGN_POINT_RELEASE: every thread waiting under the key leaves at once; one whose count names no group leaves alone, after its own
limit (R47). -/
def execAlignPointRelease (core slot : Nat) (s : State) : Out :=
  match s.thread core slot with
  | some t =>
    match t.wait with
    | .align p k m lim since =>
      if !alignGroup m then .next (if since + lim ≤ s.ckOf core then setWait s core slot .none else s)
      else
        let ws := alignWaiters s (cluOf core) p k
        if alignDone (s.ckOf core) ws m lim then .next (ws.foldl (fun s w => setWait s w.1 w.2.1 .none) s) else .next s
    | _ => .next s
  | none => .next s

end Sys2Proof.Machine
end

