-- ==== Sys2Proof/Machine/Ctl.lean ====
section
/-! DEFINITION. Control registers, rounding mode, flags, time and trace, MAJ 0x1C-0x1E (R142-R147). -/

namespace Sys2Proof.Machine

/-- A bitmap of 64 tags by a test of each (R197). -/
def tagMap (k : CoreSt) (f : TagSt → Bool) : Nat → Nat
  | 0 => 0
  | n + 1 => tagMap k f n + (if f (tget TagSt.reset k.tags n) then 2 ^ n else 0)

/-- TAGREL or TAGLND of a core (R197). -/
def tagBits (k : CoreSt) (f : TagSt → Bool) : Word := wordOf (tagMap k f 64)

/-- The value RDCTL returns (R142). -/
def ctlVal (s : State) (c sl : Nat) (t : Thread) (r : CtlReg) : Word :=
  match r with
  | .flags => wordOf t.flags.bits.toNat
  | .vl => wordOf t.vl
  | .rmode => wordOf t.rmode.code
  | .iflags => wordOf t.iflags.toNat
  | .pend => wordOf t.pend.toNat
  | .repcnt => 0
  | .tagrel => tagBits (s.core c) TagSt.rel
  | .taglnd => tagBits (s.core c) TagSt.lnd
  | .coreid => wordOf c
  | .slotid => wordOf sl
  | .modid => wordOf s.modid
  | .nregs => wordOf (s.nregs c)

/-- RDCTL (R142). -/
def execRdctl (d : WReg) (r : CtlReg) (s : State) : Out := run (do
  chk [(0, d)]
  needDst d
  let (c, sl) ← me
  let t ← th
  let v ← ask (fun s => ctlVal s c sl t r)
  wr d v
  fin 8) s

/-- WRCTL (R142): FLAGS, VL and RMODE are the writable registers. -/
def execWrctl (r : CtlReg) (a : WReg) (s : State) : Out := run (do
  chk [(1, a)]
  let x ← rd a
  match r with
  | .flags => setFlags (Flags.ofBits (BitVec.ofNat 4 (x.toNat % 16)))
  | .vl =>
    if 4096 < x.toNat then outOfRange 21 else modTh (fun t => { t with vl := x.toNat })
  | .rmode =>
    if 4 < x.toNat then outOfRange 21 else modTh (fun t => { t with rmode := RMode.ofCode x.toNat })
  | _ => outOfRange 41
  fin 8) s

/-- RMSET (R144). -/
def execRmset (m : RMode) (s : State) : Out := run (do
  modTh (fun t => { t with rmode := m })
  fin 8) s

/-- FLGRD (R144). -/
def execFlgrd (d : WReg) (s : State) : Out := run (do
  chk [(0, d)]
  needDst d
  let t ← th
  wr d (wordOf t.iflags.toNat)
  fin 8) s

/-- A cluster form issues only on the supervisor core (R145); TRAPINFO of its fault is 0. (DESIGN CHOICE, log 107.) -/
def supervisor : M Unit := do
  let (c, _) ← me
  need (c % 16 = 0 && !isHub c) 0x07 0

/-- FLGRD.CLU (R144, R145). -/
def execFlgrdClu (d : WReg) (s : State) : Out := run (do
  chk [(0, d)]
  supervisor
  needDst d
  let (c, _) ← me
  let u ← ask (fun s => (s.clu (cluOf c)).u)
  wr d (wordOf u.toNat)
  fin 8) s

/-- FLGCLR (R144). -/
def execFlgclr (m : BitVec 5) (s : State) : Out := run (do
  modTh (fun t => { t with iflags := t.iflags &&& ~~~m })
  fin 8) s

/-- FLGCLR.CLU (R144, R145). -/
def execFlgclrClu (m : BitVec 5) (s : State) : Out := run (do
  supervisor
  let (c, _) ← me
  upd (fun s => treeClear s (cluOf c) m)
  fin 8) s

/-- FLGFT.CLU (R144, R145): FIRST of the flag if its union bit is 1, else 0. -/
def execFlgftClu (d : WReg) (f : Fin 5) (s : State) : Out := run (do
  chk [(0, d)]
  supervisor
  needDst d
  let (c, _) ← me
  let x ← ask (fun s => s.clu (cluOf c))
  wr d (if x.u.getLsbD f.val then tget 0 x.first f.val else 0)
  fin 8) s

/-- TSRD (R146). -/
def execTsrd (d : WReg) (s : State) : Out := run (do
  chk [(0, d)]
  needDst d
  let v ← ask State.time
  wr d v
  fin 8) s

/-- EVMARK (R147, R356). -/
def execEvmark (a b : WReg) (code : BitVec 16) (s : State) : Out := run (do
  chk [(1, a), (2, b)]
  let x ← rd a
  let y ← rd b
  let (c, sl) ← me
  upd (fun s => s.trace (cluOf c) 0x01 c sl code.toNat 0 x y)
  fin 8) s

end Sys2Proof.Machine
end

