-- ==== Sys2Proof/Machine/Transc.lean ====
section
/-! DEFINITION. The one-source functions of R187 that are not algebraic, correctly rounded: a value known to a few units of a binary precision is rounded at both its ends, and the precision doubles until they agree. -/

namespace Sys2Proof

open Machine

/-- Twice a precision, at most `n` times, until `try` answers; `last` otherwise. -/
def ziv {α : Type} (try_ : Nat → Option α) (last : α) : Nat → Nat → α
  | 0, _ => last
  | n + 1, p =>
    match try_ p with
    | some x => x
    | none => ziv try_ last n (2 * p)

/-- The sum of z^k / k! for k from `k`, in units of 2^-p: `t` is the term of index k − 1. -/
def expSeries (p : Nat) (z : Int) : Nat → Nat → Int → Int → Int
  | 0, _, _, acc => acc
  | n + 1, k, t, acc =>
    let u := t * z / (2 ^ p * (k : Int))
    if u = 0 || u = -1 then acc + u else expSeries p z n (k + 1) u (acc + u)

/-- The sum of z^(2k+1) / (2k+1) from index `k`, in units of 2^-p: `t` is z^(2k−1). -/
def atanhSeries (p : Nat) (z2 : Int) : Nat → Nat → Int → Int → Int
  | 0, _, _, acc => acc
  | n + 1, k, t, acc =>
    let u := t * z2 / 2 ^ p
    if u = 0 || u = -1 then acc else atanhSeries p z2 n (k + 1) u (acc + u / (2 * k + 1))

/-- atanh of n/d in units of 2^-p, for a quotient below 1/2 in magnitude. -/
def atanhQ (p : Nat) (n d : Int) : Int :=
  let z := n * 2 ^ p / d
  atanhSeries p (z * z / 2 ^ p) (2 * p) 1 z z

/-- ln 2 in units of 2^-p: 2 atanh(1/3). -/
def ln2 (p : Nat) : Int := 2 * atanhQ p 1 3

/-- `v` × 2^`e` in units of 2^-p, rounded down. -/
def scaleTo (p : Nat) (v : Int) (e : Int) : Int :=
  let k := e + p
  if 0 ≤ k then v * 2 ^ k.toNat else v / 2 ^ (-k).toNat

/-- e^x for x = `v` × 2^`e`, |x| below 2^12: a number and exponent, exact to 2^-(p − 24) of itself. -/
def expApprox (p : Nat) (v e : Int) : Int × Int :=
  let x := scaleTo (p + 16) v e
  let l := ln2 (p + 16)
  let k := (2 * x + l) / (2 * l)
  let r := (x - k * l) / 2 ^ 16
  (expSeries p r (2 * p) 1 (2 ^ p) (2 ^ p), k - p)

/-- Rounds a positive value known to lie within `err` units of `m` (units of 2^`e`), when both ends round alike. -/
def roundIv (f : FFmt) (md : RMode) (neg : Bool) (m err : Int) (e : Int) : Option (Nat × IFl) :=
  if m ≤ err then none
  else
    let lo := f.roundFin md neg (2 * (m - err) + 1).toNat (e - 1)
    let hi := f.roundFin md neg (2 * (m + err) - 1).toNat (e - 1)
    if lo = hi then some lo else none

/-- A value just above (`up`) or below m × 2^e, by less than any rounding can tell apart from any other such value. -/
def justOff (m : Nat) (e : Int) (up : Bool) : Nat × Int :=
  let w := 2 ^ 4096
  (if up then m * w + 1 else m * w - 1, e - 4096)

/-- The rounding of a value just off m × 2^e. -/
def roundOff (f : FFmt) (md : RMode) (neg : Bool) (m : Nat) (e : Int) (up : Bool) : Nat × IFl :=
  let (a, b) := justOff m e up
  f.roundFin md neg a b

/-- A magnitude's exponent: m × 2^e lies below 2^this. -/
def topOf (m : Nat) (e : Int) : Int := (bitLen m : Int) + e

/-- e^x of a nonzero finite x = `v` × 2^`e` (R187): past 2^12 it overflows or underflows, below 2^-200 it is just off 1. -/
def expFin (f : FFmt) (md : RMode) (v e : Int) : Nat × IFl :=
  let t := topOf v.natAbs e
  if 12 < t then (if v < 0 then f.roundFin md false 1 (-8192) else f.roundFin md false 1 8192)
  else if t < -200 then roundOff f md false 1 0 (0 < v)
  else
    ziv (fun p => let (m, k) := expApprox p v e; roundIv f md false m (2 ^ 24) k) (f.nanBits, 0) 12 128

/-- ln x of x = m × 2^e other than 1 (R187). -/
def logFin (f : FFmt) (md : RMode) (m : Nat) (e : Int) : Nat × IFl :=
  let n := bitLen m
  -- x = y × 2^k with y = m / 2^j from 0.7 to 1.4
  let hiHalf := 2 ^ (2 * n - 1) ≤ m * m
  let j := if hiHalf then n else n - 1
  let k : Int := e + j
  ziv (fun p =>
    let d : Int := 2 ^ j
    let z := 2 * atanhQ (p + 16) ((m : Int) - d) ((m : Int) + d)
    let v := (k * ln2 (p + 16) + z) / 2 ^ 16
    roundIv f md (v < 0) v.natAbs (2 ^ 20) (-p)) (f.nanBits, 0) 12 128

/-- (e^(2x) − 1) / (e^(2x) + 1) of x = m × 2^e > 0 (R187): from 2^5 it is just below 1, below 2^-100 just below x. -/
def tanhFin (f : FFmt) (md : RMode) (neg : Bool) (m : Nat) (e : Int) : Nat × IFl :=
  let t := topOf m e
  if 6 < t then roundOff f md neg 1 0 false
  else if t < -100 then roundOff f md neg m e false
  else
    ziv (fun p =>
      let q := p + 200
      let (x, k) := expApprox q (m : Int) (e + 1)
      let one := scaleTo 0 1 (-k)
      let v := (x - one) * 2 ^ q / (x + one)
      roundIv f md neg v (2 ^ 34) (-q)) (f.nanBits, 0) 12 128

/-- 1 / (1 + e^−x) of x = v × 2^e, nonzero (R187): from 2^6 just below 1, below −2^12 it underflows, below 2^-200 in
magnitude just off 1/2. -/
def sigmFin (f : FFmt) (md : RMode) (v e : Int) : Nat × IFl :=
  let t := topOf v.natAbs e
  if 0 < v && 7 < t then roundOff f md false 1 0 false
  else if 12 < t then f.roundFin md false 1 (-8192)
  else if t < -200 then roundOff f md false 1 (-1) (0 < v)
  else
    ziv (fun p =>
      -- e^x / (1 + e^x), with e^x = x × 2^k
      let (x, k) := expApprox p v e
      if 0 ≤ k then
        let y := x * 2 ^ k.toNat
        roundIv f md false (y * 2 ^ (p + 4) / (y + 1)) (2 ^ 30) (-(p + 4))
      else
        let one : Int := 2 ^ (-k).toNat
        let w := x * 2 ^ (p + 4) / (x + one)
        if x < one then
          -- keep relative precision for a small quotient: scale by the exponent's size
          let sh := (-k).toNat - p
          let w2 := x * 2 ^ (p + 4 + sh) / (x + one)
          roundIv f md false w2 (2 ^ 30) (-(p + 4 + sh))
        else roundIv f md false w (2 ^ 30) (-(p + 4))) (f.nanBits, 0) 12 128

/-- VEXP (R187). -/
def fExp (f : FFmt) (md : RMode) (a : Num) : Nat × IFl :=
  match a with
  | .nan x => (f.nanBits, nvIf x)
  | .inf n => if n then (0, 0) else (f.infBits, 0)
  | .fin n m e => if m = 0 then f.roundTo md (.fin false 1 0) else expFin f md (if n then -(m : Int) else m) e

/-- VLOG (R187). -/
def fLog (f : FFmt) (md : RMode) (a : Num) : Nat × IFl :=
  match a with
  | .nan x => (f.nanBits, nvIf x)
  | .inf n => if n then (f.nanBits, IFl.nv) else (f.infBits, 0)
  | .fin n m e =>
    if m = 0 then (f.signW + f.infBits, IFl.dz)
    else if n then (f.nanBits, IFl.nv)
    else if a.rel (.fin false 1 0) = .eq then (0, 0)
    else logFin f md m e

/-- VTANH (R187). -/
def fTanh (f : FFmt) (md : RMode) (a : Num) : Nat × IFl :=
  match a with
  | .nan x => (f.nanBits, nvIf x)
  | .inf n => f.roundTo md (.fin n 1 0)
  | .fin n m e => if m = 0 then f.roundTo md (.fin n 0 0) else tanhFin f md n m e

/-- VSIGM (R187). -/
def fSigm (f : FFmt) (md : RMode) (a : Num) : Nat × IFl :=
  match a with
  | .nan x => (f.nanBits, nvIf x)
  | .inf n => if n then (0, 0) else f.roundTo md (.fin false 1 0)
  | .fin n m e => if m = 0 then f.roundTo md (.fin false 1 (-1)) else sigmFin f md (if n then -(m : Int) else m) e

/-- VRCP: 1 / a (R187). -/
def fRcp (f : FFmt) (md : RMode) (a : Num) : Nat × IFl := fDiv f md (.fin false 1 0) a

/-- VRSQRT: 1 / √a (R187). -/
def fRsqrt (f : FFmt) (md : RMode) (a : Num) : Nat × IFl :=
  match a with
  | .nan x => (f.nanBits, nvIf x)
  | .inf n => if n then (f.nanBits, IFl.nv) else (0, 0)
  | .fin n m e =>
    if m = 0 then ((if n then f.signW else 0) + f.infBits, IFl.dz)
    else if n then (f.nanBits, IFl.nv)
    else
      -- 1/√(m × 2^e) with an even exponent: √(2^(2k) / m) × 2^(−k − e/2)
      let m0 := if e % 2 = 0 then m else 2 * m
      let e0 := if e % 2 = 0 then e else e - 1
      let k := f.prec + 4 + bitLen m0
      let x := 4 ^ k / m0
      let r := isqrt x
      let exact := r * r * m0 = 4 ^ k
      f.roundFin md false (2 * r + (if exact then 0 else 1)) (-(k : Int) - e0 / 2 - 1)

end Sys2Proof
end

