-- ==== Sys2Proof/Machine/Elem.lean ====
section
/-! DEFINITION. Elements in memory (R62, R68-R71, R74, R175, R176), and the order of sums: TreeMerge (R14, R83) and arrival order (R86). -/

namespace Sys2Proof.Machine

/-! Formats (R62). A format word is a segment's FMT register, or one made of a copy's type fields. -/

/-- TYPE of a format word. -/
def fTy (w : Word) : ETy := ETy.ofCode (fld w 0 4)
/-- WIDTH: planes stored. -/
def fWidth (w : Word) : Nat := fld w 4 4
/-- DEPTH: planes read. -/
def fDepth (w : Word) : Nat := fld w 8 4
/-- RM. -/
def fRm (w : Word) : RMode := RMode.ofCode (fld w 12 3)
/-- CTR. -/
def fCtr (w : Word) : Bool := bit w 15

/-- The format register of a segment of a core (R62). -/
def State.fmt (s : State) (c seg : Nat) : Word := tget fmtReset (s.core c).fmt seg

/-- Bytes of an element; 1 for RAW (R64), and for NP, which is not stored by elements. -/
def eSize : ETy → Nat
  | .fl f => f.bytes
  | .i64 => 8
  | .i32 => 4
  | .np | .raw => 1

/-- The alignment an operand's first byte needs (R177). -/
def eAlign : ETy → Nat
  | .np => 64
  | t => eSize t

/-- Bytes of one plane of `n` elements (R71). -/
def planeBytes (n : Nat) : Nat := 64 * ((n + 511) / 512)

/-- Bytes of `n` elements (R176); `w` is the NP width. -/
def extentOf (t : ETy) (w n : Nat) : Nat :=
  match t with
  | .np => w * planeBytes n
  | t => eSize t * n

/-- The segment a window offset of banks X to Z lies in (R18, R58). -/
def segOf (o : Nat) : Option Nat := if 0x8000 ≤ o && o < 0x5C000 then some ((o - 0x8000) / 28672) else none

/-! Elements. -/

/-- An element as read: a float code, an integer, or the value an NP read yields with its stored width (R71). -/
inductive Elem
  | fl (f : FFmt) (x : Nat)
  | int (v : Int)
  | np (w : Nat) (v : Int)
  deriving DecidableEq, Repr

/-- The exact value of an element. -/
def Elem.num : Elem → Num
  | .fl f x => f.val x
  | .int v | .np _ v => Num.ofInt v

/-- The integer of an element; 0 for a float, which an integer computation never meets. -/
def Elem.toI : Elem → Int
  | .int v | .np _ v => v
  | .fl _ _ => 0

/-- Whether an element is ±0 or integer 0 (R188). -/
def Elem.isZero (x : Elem) : Bool := x.num.isZero

/-- The element of a type in a little-endian code. -/
def elemOf (t : ETy) (x : Nat) : Elem :=
  match t with
  | .fl f => .fl f x
  | .i64 => .int (BitVec.ofNat 64 x).toInt
  | .i32 => .int (BitVec.ofNat 32 x).toInt
  | .np | .raw => .int x

/-- An element's code in `n` bytes. -/
def Elem.code (n : Nat) : Elem → Nat
  | .fl _ x => x
  | .int v | .np _ v => (v % 2 ^ (8 * n)).toNat

/-- The value an NP read at depth `p` yields from the top `p` planes' bits `t` (R71). -/
def npVal (w p : Nat) (ctr : Bool) (t : Nat) : Int :=
  let s : Int := if 2 ^ (p - 1) ≤ t then (t : Int) - 2 ^ p else t
  let v := s * 2 ^ (w - p)
  if ctr && p < w then v + 2 ^ (w - p - 1) else v

/-- The elements of planes, each plane as one number, plane 0 first (R71). -/
def npElems (w p : Nat) (ctr : Bool) (planes : List Nat) (n : Nat) : List Elem :=
  (List.range n).map (fun i => .np w (npVal w p ctr (planes.foldl (fun t x => 2 * t + x / 2 ^ i % 2) 0)))

/-- The planes of elements, each as one number (R71). -/
def npPlanes (w : Nat) (xs : List Elem) : List Nat :=
  (List.range w).map (fun j => (xs.zipIdx.map (fun p => p.1.code 8 / 2 ^ (w - 1 - j) % 2 * 2 ^ p.2)).foldl (· + ·) 0)

/-- The `n` elements of a format in their bytes. -/
def elemsOf (w : Word) (n : Nat) (bs : List Byte) : List Elem :=
  match fTy w with
  | .np => npElems (fWidth w) (fDepth w) (fCtr w) ((chunks (planeBytes n) (fDepth w) bs).map leNat) n
  | t => (chunks (eSize t) n bs).map (fun b => elemOf t (leNat b))

/-- The bytes of elements in a format. -/
def elemsBytes (w : Word) (xs : List Elem) : List Byte :=
  match fTy w with
  | .np => (npPlanes (fWidth w) xs).flatMap (fun p => leBytes (planeBytes xs.length) p)
  | t => xs.flatMap (fun x => leBytes (eSize t) (x.code (eSize t)))

/-! Conversions (R74). -/

/-- An element converted to a type, of NP width `w` (R74): elements of one float format move unchanged (R69). -/
def toElem (t : ETy) (w : Nat) (md : RMode) (x : Elem) : Elem × IFl :=
  match t with
  | .fl g =>
    match x with
    | .fl f c => if f = g then (x, 0) else (let r := toFloat g md (f.val c); (.fl g r.1, r.2))
    | .int v | .np _ v => let r := g.roundTo md (Num.ofInt v); (.fl g r.1, r.2)
  | .i64 =>
    match x with
    | .fl f c => let r := toIntN 64 md (f.val c); (.int r.1, r.2)
    | .int v | .np _ v => (.int v, 0)
  | .i32 =>
    match x with
    | .fl f c => let r := toIntN 32 md (f.val c); (.int r.1, r.2)
    | .int v | .np _ v => let r := toIntN 32 md (Num.ofInt v); (.int r.1, r.2)
  | .np =>
    match x with
    | .fl f c => let r := toIntN w md (f.val c); (.np w r.1, r.2)
    | .int v => let r := toIntN w md (Num.ofInt v); (.np w r.1, r.2)
    | .np w0 v => let r := toIntN w md (.fin (v < 0) v.natAbs ((w : Int) - w0)); (.np w r.1, r.2)
  | .raw => (x, 0)

/-- Elements converted to a type, with the flags of all. -/
def toElems (t : ETy) (w : Nat) (md : RMode) (xs : List Elem) : List Elem × IFl :=
  let rs := xs.map (toElem t w md)
  (rs.map (fun r => r.1), rs.foldl (fun g r => g ||| r.2) 0)

/-! Sums. -/

/-- One level of TreeMerge: neighbours combined, an absent one leaving its partner as it is (R14). -/
def mergeLevel {α : Type} (f : α → α → α × IFl) : List (Option α) → List (Option α) × IFl
  | a :: b :: l =>
    let r := mergeLevel f l
    match a, b with
    | none, y => (y :: r.1, r.2)
    | x, none => (x :: r.1, r.2)
    | some x, some y => (some (f x y).1 :: r.1, (f x y).2 ||| r.2)
  | l => (l, 0)

/-- TreeMerge over at most `n` levels (R14). -/
def mergeN {α : Type} (f : α → α → α × IFl) : Nat → List (Option α) → Option α × IFl
  | 0, l => ((l.head?).join, 0)
  | n + 1, l =>
    match l with
    | [] => (none, 0)
    | [x] => (x, 0)
    | l =>
      let r := mergeLevel f l
      let t := mergeN f n r.1
      (t.1, r.2 ||| t.2)

/-- TreeMerge (R14): none when every leaf is absent. -/
def treeMerge {α : Type} (f : α → α → α × IFl) (l : List (Option α)) : Option α × IFl := mergeN f (bitLen l.length) l

/-- The permutation of a list that a number chooses. -/
def permute {α : Type} : Nat → Nat → List α → List α
  | 0, _, l => l
  | n + 1, x, l =>
    match l[x % l.length]? with
    | some y => y :: permute n (x / l.length) (delAt l (x % l.length))
    | none => []

/-- The left-to-right fold of partials (R86): none when there is none. -/
def foldArr {α : Type} (f : α → α → α × IFl) : List α → Option α × IFl
  | [] => (none, 0)
  | x :: l => let r := l.foldl (fun a y => let t := f a.1 y; (t.1, a.2 ||| t.2)) (x, (0 : IFl)); (some r.1, r.2)

/-- Combines leaves by the tree, or in the arrival order that `pick` chooses (R83, R86). -/
def combine {α : Type} (f : α → α → α × IFl) (arr : Bool) (pick : Nat) (l : List (Option α)) : Option α × IFl :=
  if arr then
    let ps := l.filterMap id
    foldArr f (permute ps.length pick ps)
  else treeMerge f l

end Sys2Proof.Machine
end

