-- ==== Sys2Proof/Machine/EngMem.lean ====
section
/-! DEFINITION. The memory accesses of copy engines, the array and the Mint: places and the router's check (R310), reads and writes up to the first failure (R105, R204), and data-bank operands (R63, R193, R217). -/

namespace Sys2Proof.Machine

/-- Pieces of `n` bytes from an address until the first failure: its cause and address. -/
def piecesUpto (s : State) (x : EngCtx) (acc : Acc) : Nat → Word → Nat → List (Nat × Nat) × Option (Nat × Word)
  | 0, _, _ => ([], none)
  | fuel + 1, ea, n =>
    if n = 0 then ([], none)
    else
      let len := pieceLen ea n
      match resolveFrom s x acc ea with
      | .error e => ([], some (e.1, ea))
      | .ok k =>
        let r := piecesUpto s x acc fuel (ea + wordOf len) (n - len)
        (joinPiece k len r.1, r.2)

/-- Bytes of a piece before its first poisoned line, if it has one. -/
def cleanLen (s : State) (k n : Nat) : Option Nat :=
  match s.poison.find? (fun l => k / 64 ≤ l && l ≤ (k + n - 1) / 64) with
  | some l => some (64 * l - k)
  | none => none

/-- Cuts pieces at the first poisoned line, giving the address there (R153). -/
def cutPoison (s : State) : List (Nat × Nat) → Word → List (Nat × Nat) × Option Word
  | [], _ => ([], none)
  | (k, n) :: l, ea =>
    match cleanLen s k n with
    | some m => ((if m = 0 then [] else [(k, m)]), some (ea + wordOf m))
    | none => let r := cutPoison s l (ea + wordOf n); ((k, n) :: r.1, r.2)

/-- The pieces an engine can read of `n` bytes from an address, and its failure: cause and address. -/
def readUpto (s : State) (x : EngCtx) (ea : Word) (n : Nat) : List (Nat × Nat) × Option (Nat × Word) :=
  let r := piecesUpto s x .read (pieceFuel n) ea n
  let c := cutPoison s r.1 ea
  match c.2 with
  | some a => (c.1, some (0x09, a))
  | none => (r.1, r.2)

/-- An address in every 64-KiB page of `n` bytes from an address. -/
def usedAddrs (ea : Word) (n : Nat) : List Word :=
  (List.range (n / 65536 + 1)).map (fun i => ea + wordOf (65536 * i)) ++ (if n = 0 then [] else [ea + wordOf (n - 1)])

/-- The translations of runs of bytes that an engine has used stand in its cluster's TLB (R306). -/
def noteRuns (s : State) (x : EngCtx) (l : List (Word × Nat)) : State := noteUsed s x (l.flatMap (fun r => usedAddrs r.1 r.2))

/-- Bytes of pieces. -/
def piecesLen (l : List (Nat × Nat)) : Nat := (l.map (fun p => p.2)).foldl (· + ·) 0

/-- Performs an engine's write of bytes at a location: the wait slots see it, the lines it writes whole lose their poison, and
the completion-time words of registers it reaches are cleared (R153, R211, R327). -/
def engPut (s : State) (k : Nat) (bs : List Byte) : State :=
  let s1 := s.putClear k bs
  match placeOf k with
  | .sram c o => touchRegs s1 c o bs.length
  | _ => s1

/-- Whether a write of an engine must wait for a completion in a register word (R41). -/
def piecesWait (s : State) (l : List (Nat × Nat)) : Bool := l.any (fun p => storeWaits s p.1 p.2)

/-- The core and window offset of an address in the data banks of a core of this module (R63, R193, R217): of the flat window,
or through a translation. -/
def bankAt (s : State) (tenant : Nat) (va : Word) : Option (Nat × Nat) :=
  let inBank (c o : Nat) : Option (Nat × Nat) := if c < Config.nCores && 0x8000 ≤ o && o < 0x5C000 then some (c, o) else none
  if Config.flatBase ≤ va.toNat then
    inBank ((va.toNat - Config.flatBase) / Config.windowBytes) ((va.toNat - Config.flatBase) % Config.windowBytes)
  else if !canonical va then none
  else
    match s.tenSlot tenant with
    | none => none
    | some slot =>
      match walk s slot va.toNat with
      | .error _ => none
      | .ok (e, lv) =>
        match placeOf (keyOf s.modid (entryAddr e + va.toNat % 2 ^ pageBits lv)) with
        | .sram c o => inBank c o
        | _ => none

/-- The format word of a side (R193, R217): its segment's FMT, or a type code. -/
def sideFmt (s : State) (bank : Option (Nat × Nat)) (code : Nat) : Word :=
  match bank with
  | some (c, o) => s.fmt c ((segOf o).getD 0)
  | none => wordOf (0x880 + code % 16)

/-- Whether rows of `n` bytes at a stride from window offset `o` stay in the segment of `o` (R195, R217). -/
def spanInSeg (o rows : Nat) (stride : Int) (n : Nat) : Bool :=
  let b : Int := (o - 0x8000) / 28672 * 28672 + 0x8000
  let last : Int := (o : Int) + (rows - 1 : Nat) * stride
  let lo := min (o : Int) last
  let hi := max (o : Int) last + n
  decide (b ≤ lo ∧ hi ≤ b + 28672)

/-- A 32-bit stride, signed (R192, R219). -/
def stride32 (w : Word) (lo : Nat) : Int := (BitVec.ofNat 32 (fld w lo 32)).toInt

end Sys2Proof.Machine
end

