-- ==== Sys2Proof/Machine/MatCalc.lean ====
section
/-! DEFINITION. What the matrix array computes (R79-R81, R84, R219-R221, R228), apart from where the operands stand. -/

namespace Sys2Proof.Machine

/-! The type table (R219). -/

/-- The rows of the type table. -/
inductive MRow | f64 | f32 | half | f8 | np | scaled | planes
  deriving DecidableEq, Repr

/-- ATYPE a row needs. -/
def MRow.atype : MRow → Nat
  | .f64 => 0
  | .np | .planes => 7
  | _ => 1

/-- K indices of a row's group; a scaled block is the whole K (R81). -/
def MRow.group (r : MRow) (k : Nat) : Nat :=
  match r with
  | .f64 => 1
  | .f32 => 8
  | .scaled => k
  | _ => 32

/-- Whether a type is BF16 or F16. -/
def isHalf : ETy → Bool
  | .fl .bf16 | .fl .f16 => true
  | _ => false

/-- The row of two types without flags. -/
def plainRow (a b : ETy) : Option MRow :=
  if a = .fl .f64 && b = .fl .f64 then some .f64
  else if a = .fl .f32 && b = .fl .f32 then some .f32
  else if a = .fl .f8 && b = .fl .f8 then some .f8
  else if (isHalf a || a == .fl .f8) && (isHalf b || b == .fl .f8) then some .half
  else if a = .np && b = .np then some .np
  else none

/-- Whether a type may be scaled. -/
def isScalable (t : ETy) : Bool := t == .fl .f8 || t == .np

/-- The row of two types under the flags, or the REASON of check 1 or 2 that fails (R217, R219, R228). -/
def rowOf (sc pp sparse : Bool) (a b : ETy) : Except Nat MRow :=
  if sc && pp then .error 1
  else if sc then
    if isScalable a && isScalable b then .ok .scaled
    else if (plainRow a b).isSome || (a == .raw && b == .raw) then .error 1 else .error 2
  else if pp then
    if a = .raw && b = .raw then .ok .planes
    else if (plainRow a b).isSome || (isScalable a && isScalable b) then .error 1 else .error 2
  else
    match plainRow a b with
    | some r => if sparse && (r == .f64 || r == .np) then .error 2 else .ok r
    | none => .error 2

/-! Groups (R81, R221). An element of A that MMAS skips is absent (R228). -/

/-- The exact sum of a group's products, and whether it is invalid. -/
def prodSum (ps : List (Elem × Elem)) (s0 : Sum) : Sum × Bool :=
  ps.foldl (fun t p =>
    let x := p.1.num
    let y := p.2.num
    let q := x.mul y
    (t.1.add q.1, t.2 || q.2 || x.sig || y.sig)) (s0, false)

/-- A sum that starts from the accumulator, when there is one. -/
def accSum (f : FFmt) (acc : Option Nat) : Sum :=
  match acc with
  | some c => Sum.zero.add (f.val c)
  | none => Sum.zero

/-- Whether the accumulator is a signalling NaN. -/
def accSig (f : FFmt) (acc : Option Nat) : Bool :=
  match acc with
  | some c => (f.val c).sig
  | none => false

/-- One group of a float row: one rounding of the exact sum of its products and the accumulator (R81). -/
def floatGroup (f : FFmt) (md : RMode) (ps : List (Elem × Elem)) (acc : Option Nat) : Nat × IFl :=
  let t := prodSum ps (accSum f acc)
  let r := f.roundSum md t.1
  (r.1, r.2 ||| nvIf (t.2 || accSig f acc))

/-- An F64 product into the accumulator (R81). -/
def fmaGroup (md : RMode) (a b : Elem) (acc : Option Nat) : Nat × IFl :=
  match acc with
  | some c => fFma .f64 md a.num b.num (FFmt.val .f64 c)
  | none => fMul .f64 md a.num b.num

/-- An integer clamped to 32 bits, with overflow (R84). -/
def sat32 (v : Int) : Int × IFl := if 2 ^ 31 - 1 < v then (2 ^ 31 - 1, IFl.of) else if v < -2 ^ 31 then (-2 ^ 31, IFl.of) else (v, 0)

/-- One group of an integer row (R84). -/
def intGroup (ps : List (Elem × Elem)) (acc : Option Nat) : Nat × IFl :=
  let g := ps.foldl (fun t p => t + p.1.toI * p.2.toI) (0 : Int)
  let r := sat32 ((match acc with | some c => (BitVec.ofNat 32 c).toInt | none => 0) + g)
  ((BitVec.ofInt 32 r.1).toNat, r.2)

/-- The value of an S16 scale with bit 15 clear (R68, R70). -/
def scaleVal (c : Nat) : Num :=
  match FFmt.val .bf16 c with
  | .nan _ => .nan false
  | x => x

/-- D of a scaled block: the exact sum of the products, an integer for NP with NP (R79). -/
def blockSum (md : RMode) (ps : List (Elem × Elem)) : Num × Bool :=
  if ps.all (fun p => match p.1, p.2 with | .np _ _, .np _ _ => true | _, _ => false) then
    (Num.ofInt (ps.foldl (fun t p => t + p.1.toI * p.2.toI) (0 : Int)), false)
  else
    let t := prodSum ps Sum.zero
    let v := t.1.val md
    (v.1, t.2 || v.2)

/-- BlockTerm (R79): the term and whether it is invalid. -/
def blockTerm (md : RMode) (ps : List (Elem × Elem)) (sa sb : Nat) : Num × Bool :=
  if 2 ^ 15 ≤ sa || 2 ^ 15 ≤ sb then (.nan false, true)
  else
    let d := blockSum md ps
    let x := scaleVal sa
    let y := scaleVal sb
    if d.1.isNan || x.isNan || y.isNan then (.nan false, d.2)
    else if sa = 0 || sb = 0 then
      match d.1 with
      | .inf _ => (.nan false, true)
      | v => (.fin v.neg 0 0, d.2)
    else
      let p := d.1.mul x
      let q := p.1.mul y
      (q.1, d.2 || p.2 || q.2)

/-- A scaled block into the accumulator (R79). -/
def scaledGroup (md : RMode) (ps : List (Elem × Elem)) (sa sb : Nat) (acc : Option Nat) : Nat × IFl :=
  let t := blockTerm md ps sa sb
  let r := FFmt.roundSum .f32 md ((accSum .f32 acc).add t.1)
  (r.1, r.2 ||| nvIf (t.2 || accSig .f32 acc))

/-- The pairs of a group whose product is not skipped. -/
def present : List (Option Elem) → List Elem → List (Elem × Elem)
  | some a :: as, b :: bs => (a, b) :: present as bs
  | none :: as, _ :: bs => present as bs
  | _, _ => []

/-- One output element over its groups, in ascending K (R221, R228). -/
def dotGroups (r : MRow) (md : RMode) (sa sb : Nat) : List (List (Option Elem)) → List (List Elem) → Option Nat → Option Nat × IFl
  | a :: as, b :: bs, acc =>
    let ps := present a b
    if ps.isEmpty then dotGroups r md sa sb as bs acc
    else
      let x := match r with
        | .f64 => (match ps with | p :: _ => fmaGroup md p.1 p.2 acc | [] => (0, 0))
        | .np | .planes => intGroup ps acc
        | .scaled => scaledGroup md ps sa sb acc
        | _ => floatGroup .f32 md ps acc
      let t := dotGroups r md sa sb as bs (some x.1)
      (t.1, x.2 ||| t.2)
  | _, _, acc => (acc, 0)

/-- Cuts a list into groups of at most `k`. -/
def cutGroups {α : Type} (k : Nat) : Nat → List α → List (List α)
  | 0, _ => []
  | n + 1, l => if l.isEmpty then [] else l.take k :: cutGroups k n (l.drop k)

/-- One output element; one with no product and no accumulator is 0 (R228). -/
def dotElem (r : MRow) (md : RMode) (a : List (Option Elem)) (b : List Elem) (sa sb : Nat) (acc : Option Nat) : Nat × IFl :=
  let g := r.group a.length
  let t := dotGroups r md sa sb (cutGroups g a.length a) (cutGroups g b.length b) acc
  (t.1.getD 0, t.2)

/-- A row of outputs: the columns of B, their scales, and the row's accumulators. -/
def dotRow (r : MRow) (md : RMode) (a : List (Option Elem)) (sa : Nat) : List (List Elem) → List Nat → List (Option Nat) → List Nat × IFl
  | b :: bs, sb :: ss, c :: cs =>
    let x := dotElem r md a b sa sb c
    let t := dotRow r md a sa bs ss cs
    (x.1 :: t.1, x.2 ||| t.2)
  | _, _, _ => ([], 0)

/-- Column `j` of each row. -/
def column (rows : List (List Elem)) (j : Nat) : List Elem := rows.map (fun r => r.getD j (.int 0))

/-! Plane-pair rows (R219) and sparse rows (R228). -/

/-- The bits of a bit vector as elements. -/
def bitElems (n : Nat) (bs : List Byte) : List Elem := let x := leNat bs; (List.range n).map (fun i => .int (x / 2 ^ i % 2 : Nat))

/-- Whether numbers strictly rise. -/
def rising : List Nat → Bool
  | a :: b :: l => a < b && rising (b :: l)
  | _ => true

/-- The kept indices a group's metadata names; none where it breaks R228's rules. -/
def metaIdx (pat8 : Bool) (m : Nat) : Option (List Nat) :=
  let l := if pat8 then [m % 8, m / 8 % 8, m / 64 % 8, m / 512 % 8] else [m % 4, m / 4 % 4]
  if rising l && (!pat8 || m < 4096) then some l else none

/-- One group expanded: dropped positions, and kept zeros, are absent. -/
def expandGroup (g : Nat) (idx : List Nat) (kept : List Elem) : List (Option Elem) :=
  (List.range g).map (fun p =>
    match (idx.zip kept).find? (fun q => q.1 == p) with
    | some q => if q.2.isZero then none else some q.2
    | none => none)

/-- A compressed row expanded to `n` groups; none where its metadata is not legal (R228). -/
def expandRow (pat8 : Bool) : Nat → List Elem → Nat → Option (List (Option Elem))
  | 0, _, _ => some []
  | n + 1, kept, m =>
    let g := if pat8 then 8 else 4
    let w := if pat8 then 65536 else 16
    match metaIdx pat8 (m % w), expandRow pat8 n (kept.drop (g / 2)) (m / w) with
    | some idx, some rest => some (expandGroup g idx (kept.take (g / 2)) ++ rest)
    | _, _ => none

end Sys2Proof.Machine
end

