-- ==== Sys2Proof/Machine/Matrix.lean ====
section
/-! DEFINITION. The matrix array, MAJ 0x34 (R25, R213-R228): tiles, commands and their checks, the queue, row blocks and completion. MCOMP runs in the vector pipe. -/

namespace Sys2Proof.Machine

/-! Tiles (R213, R214). -/

/-- The descriptor of a tile of a cluster, VALID in bit 63. -/
def State.tile (s : State) (n t : Nat) : Word := tget 0 (s.clu n).tiles t

def dValid (d : Word) : Bool := bit d 63
def dM (d : Word) : Nat := fld d 0 7 + 1
def dN (d : Word) : Nat := fld d 7 10 + 1
def dAty (d : Word) : Nat := fld d 17 4
def dBase (d : Word) : Nat := fld d 22 13 * 64
/-- Bytes of an element of ATYPE. -/
def dSz (d : Word) : Nat := if dAty d = 0 then 8 else 4
/-- Bytes of a core's share. -/
def dShare (d : Word) : Nat := 8 * dN d * dSz d

/-- Whether a share lies wholly within one data bank (R213). -/
def shareInBank (d : Word) : Bool :=
  0x8000 ≤ dBase d && dBase d + dShare d ≤ 0x5C000 && (dBase d - 0x8000) / 0x1C000 == (dBase d + dShare d - 1 - 0x8000) / 0x1C000

/-- Whether two tiles' shares have a byte in common. -/
def sharesMeet (d e : Word) : Bool := dBase d < dBase e + dShare e && dBase e < dBase d + dShare d

/-- The key of row `i` of a tile of cluster `n`. -/
def rowKey (n : Nat) (d : Word) (i : Nat) : Nat := winKey (16 * n + i / 8) (dBase d + i % 8 * (dN d * dSz d))

/-- Rows `lo` to `hi - 1` as runs of rows of one core: key and rows. -/
def rowRuns (n : Nat) (d : Word) (lo hi : Nat) : List (Nat × Nat) :=
  (List.range 16).filterMap (fun c =>
    let a := max lo (8 * c)
    let b := min hi (8 * c + 8)
    if a < b then some (rowKey n d a, b - a) else none)

/-- The bytes of rows `lo` to `hi - 1`, in row-major order. -/
def tileBytes (s : State) (n : Nat) (d : Word) (lo hi : Nat) : List Byte :=
  (rowRuns n d lo hi).flatMap (fun r => bytesAt s.mem r.1 (r.2 * (dN d * dSz d)))

/-- The first poisoned line of rows `lo` to `hi - 1`, as a key. -/
def tilePoison (s : State) (n : Nat) (d : Word) (lo hi : Nat) : Option Nat :=
  (rowRuns n d lo hi).findSome? (fun r => (cleanLen s r.1 (r.2 * (dN d * dSz d))).map (fun m => (r.1 + m) / 64 * 64))

/-- Writes rows from `lo` upward, in row-major order: runs of one core are written whole. -/
def putRows (s : State) (n : Nat) (d : Word) (lo hi : Nat) (bs : List Byte) : State :=
  ((rowRuns n d lo hi).foldl (fun t r =>
    let m := r.2 * (dN d * dSz d)
    (t.1.putClear r.1 (t.2.take m), t.2.drop m)) (s, bs)).1

/-! Commands. -/

/-- A multiply-accumulate command: its operand fields, what F holds, and its ordering. -/
structure MmaOp where
  o : MOps
  sc : Bool
  pp : Bool
  sparse : Bool
  pat8 : Bool
  r : OrdScope
  deriving DecidableEq, Repr

/-- The multiply-accumulate command of an instruction. -/
def mmaOf (i : Instr) : Option MmaOp :=
  match i with
  | .mma sc pp o r => some ⟨o, sc, pp, false, false, r⟩
  | .mmas pat8 o r => some ⟨o, false, false, true, pat8, r⟩
  | _ => none

/-- Whether the F field is used (R219). -/
def MmaOp.useF (m : MmaOp) : Bool := m.sc || m.sparse
/-- K. -/
def MmaOp.k (m : MmaOp) : Nat := m.o.km1.toNat + 1
/-- The register fields used, in R115's order. -/
def MmaOp.fields (m : MmaOp) : List FReg := [(0, m.o.d), (1, m.o.a), (2, m.o.b), (3, m.o.e)] ++ (if m.useF then [(4, m.o.f)] else [])

/-- Bytes of a row of `n` elements of an operand (R219): a bit vector for plane pairs. -/
def mRowBytes (pp : Bool) (fmt : Word) (n : Nat) : Nat := if pp then planeBytes n else extentOf (fTy fmt) (fWidth fmt) n

/-- The alignment of an operand's addresses and strides (R217). -/
def mAlign (pp : Bool) (t : ETy) : Nat := if pp then 64 else eAlign t

/-- Bytes of a metadata row (R228). -/
def metaRow (pat8 : Bool) (k : Nat) : Nat := if pat8 then k / 4 else k / 8

/-- The formats of A and B (R217). -/
def mmaFmts (s : State) (tenant : Nat) (m : MmaOp) (av bv : Word) : Word × Word :=
  (sideFmt s (bankAt s tenant av) m.o.ta.toNat, sideFmt s (bankAt s tenant bv) m.o.tb.toNat)

/-- Checks 1 and 2 of R217 for formats of A and B: the row of the type table, or cause, REASON and OPND. -/
def mmaRow (s : State) (tenant : Nat) (m : MmaOp) (f : Word × Word) (av bv : Word) (d : Word) : Except (Nat × Nat × Nat) MRow :=
  let loose (v fmt : Word) : Bool := (bankAt s tenant v).isNone && (fTy fmt == .np || fTy fmt == .raw)
  if !dValid d then .error (0x07, 1, 4)
  else if m.sparse && m.k % 8 != 0 then .error (0x07, 1, 0)
  else
    match rowOf m.sc m.pp m.sparse (fTy f.1) (fTy f.2) with
    | .error r => .error (0x07, r, 0)
    | .ok row =>
      if loose av f.1 then .error (0x07, 2, 0)
      else if loose bv f.2 then .error (0x07, 2, 1)
      else if dAty d != row.atype then .error (0x07, 2, 4)
      else .ok row

/-- The checks of R217 on a multiply-accumulate: cause, REASON and OPND of the first that fails. (DEDUCED, log 50.) -/
def mmaCheck (s : State) (tenant n : Nat) (m : MmaOp) (av bv ev fv : Word) : Option (Nat × Nat × Nat) :=
  let d := s.tile n m.o.t.val
  let f := mmaFmts s tenant m av bv
  match mmaRow s tenant m f av bv d with
  | .error e => some e
  | .ok _ =>
    let alA := mAlign m.pp (fTy f.1)
    let alB := mAlign m.pp (fTy f.2)
    let ka := if m.sparse then m.k / 2 else m.k
    let seg (v : Word) (rows : Nat) (st : Int) (b : Nat) : Bool :=
      match bankAt s tenant v with
      | some (_, o) => spanInSeg o rows st b
      | none => true
    if av.toNat % alA != 0 || fld ev 0 32 % alA != 0 then some (0x05, 3, 0)
    else if bv.toNat % alB != 0 || fld ev 32 32 % alB != 0 then some (0x05, 3, 1)
    else if m.sc && fv.toNat % 2 != 0 then some (0x05, 3, 2)
    else if m.sparse && fv.toNat % 8 != 0 then some (0x05, 3, 3)
    else if !seg av (dM d) (stride32 ev 0) (mRowBytes m.pp f.1 ka) then some (0x05, 4, 0)
    else if !seg bv m.k (stride32 ev 32) (mRowBytes m.pp f.2 (dN d)) then some (0x05, 4, 1)
    else if m.sc && !seg fv 1 0 (2 * (dM d + dN d)) then some (0x05, 4, 2)
    else if m.sparse && !seg fv 1 0 (dM d * metaRow m.pat8 m.k) then some (0x05, 4, 3)
    else if !shareInBank d then some (0x05, 4, 4)
    else none

/-- The checks of R217 on MCFG's operand. (DEDUCED, log 82.) -/
def mcfgCheck (s : State) (n t : Nat) (v : Word) : Option (Nat × Nat × Nat) :=
  if fld v 35 29 != 0 || bit v 21 || !(dAty v == 0 || dAty v == 1 || dAty v == 7) then some (0x07, 1, 4)
  else if !shareInBank v then some (0x05, 4, 4)
  else if (List.range 4).any (fun u => u != t && dValid (s.tile n u) && sharesMeet v (s.tile n u)) then some (0x07, 6, 4)
  else none

/-- TRAPINFO of R217. (DEDUCED, log 44.) -/
def mInfo (reason opnd : Nat) : Word := wordOf (reason * 2 ^ 28 + opnd * 2 ^ 24)

/-- Faults when a check fails. -/
def mNeed (r : Option (Nat × Nat × Nat)) : M Unit :=
  match r with
  | some (cause, reason, opnd) => trap cause (mInfo reason opnd)
  | none => pure ()

/-- Whether the array queue of a cluster has no place: one command runs and four wait (R25). -/
def arrFull (x : CluSt) : Bool := 5 ≤ x.arrQ.length + bitNat x.arr.isSome

/-- Whether a command must wait for a place: the queue is full, or follow-ons wait before it (R25). -/
def arrTaken (x : CluSt) : Bool := arrFull x || !x.arrWait.isEmpty

/-- Appends a command to the array queue of its cluster (R216). -/
def pushArr (s : State) (a : ArrCmd) : State :=
  let n := cluOf a.core
  s.setClu n { s.clu n with arrQ := (s.clu n).arrQ ++ [a] }

/-- An engine command's acquire begins as a FENCE.REL by its core (R100). (DEDUCED, log 74.) -/
def cmdFence (r : OrdScope) : M Unit := if r.ord.hasAcq then fenceMark r.scope else pure ()

/-- The queue has a place, or the thread waits for one (R216). -/
def needArr : M Unit := do
  let (c, _) ← me
  let full ← ask (fun s => arrTaken (s.clu (cluOf c)))
  if full then waitOn .arrayFull else pure ()

/-- MCFG (R215-R218); its SEQ in the row-progress register is 0. (DESIGN CHOICE, log 125.) -/
def execMcfg (keep : Bool) (t : Fin 4) (a : WReg) (r : OrdScope) (s : State) : Out := run (do
  let (c, sl) ← me
  chk [(1, a)]
  let v ← rd a
  let p ← th
  let bad ← ask (fun s => mcfgCheck s (cluOf c) t.val v)
  mNeed bad
  needArr
  cmdFence r
  upd (fun s => pushArr s ⟨.mcfg keep t a r, c, sl, s.tid c sl, 0, 0, p.rmode, p.kernel, v, 0, 0, 0, 0, 0, false⟩)
  waitOn .array) s

/-- MZERO (R215-R218); its SEQ in the row-progress register is 0. (DESIGN CHOICE, log 125.) -/
def execMzero (t : Fin 4) (r : OrdScope) (s : State) : Out := run (do
  let (c, sl) ← me
  let p ← th
  let d ← ask (fun s => s.tile (cluOf c) t.val)
  mNeed (if dValid d then none else some (0x07, 1, 4))
  needArr
  cmdFence r
  upd (fun s => pushArr s ⟨.mzero t r, c, sl, s.tid c sl, 0, 0, p.rmode, p.kernel, 0, 0, 0, 0, 0, 0, false⟩)
  waitOn .array) s

/-- MMA and MMAS (R216, R219, R228): a future of source kind 1 or 2. -/
def mmaIssue (i : Instr) (m : MmaOp) : M Unit := do
  let (c, sl) ← me
  chk m.fields
  let av ← rd m.o.a
  let bv ← rd m.o.b
  let ev ← rd m.o.e
  let fv ← (if m.useF then rd m.o.f else pure 0)
  needDst m.o.d
  let p ← th
  let bad ← ask (fun s => mmaCheck s (s.tenantOf c) (cluOf c) m av bv ev fv)
  mNeed bad
  needArr
  cmdFence m.r
  let f ← ask (fun s => mmaFmts s (s.tenantOf c) m av bv)
  let h ← newFuture (if m.sparse then 2 else 1) m.o.d
  upd (fun s => pushArr s ⟨i, c, sl, s.tid c sl, h, fld h 25 16, p.rmode, p.kernel, av, bv, ev, fv, f.1, f.2, false⟩)
  fin 16

def execMma (sc pp : Bool) (o : MOps) (r : OrdScope) (s : State) : Out := run (mmaIssue (.mma sc pp o r) ⟨o, sc, pp, false, false, r⟩) s
def execMmas (pat8 : Bool) (o : MOps) (r : OrdScope) (s : State) : Out := run (mmaIssue (.mmas pat8 o r) ⟨o, false, false, true, pat8, r⟩) s

/-- MSTAT (R214, R215). -/
def execMstat (d : WReg) (t : Fin 4) (s : State) : Out := run (do
  let (c, _) ← me
  chk [(0, d)]
  needDst d
  let v ← ask (fun s => s.tile (cluOf c) t.val)
  wr d v
  fin 8) s

/-- The row-progress register of a cluster (R223). -/
def State.mprogWord (s : State) (n : Nat) : Word :=
  match (s.clu n).arr with
  | some r => if r.paused then (s.clu n).mprog ||| 32 else (s.clu n).mprog
  | none => (s.clu n).mprog

/-- MPROG (R215, R223). -/
def execMprog (d : WReg) (s : State) : Out := run (do
  let (c, _) ← me
  chk [(0, d)]
  needDst d
  let v ← ask (fun s => s.mprogWord (cluOf c))
  wr d v
  fin 8) s

/-! Running. -/

/-- The tile number of a command. -/
def ArrCmd.tileNo (a : ArrCmd) : Nat :=
  match a.i with
  | .mcfg _ t _ _ => t.val
  | .mzero t _ => t.val
  | i => match mmaOf i with | some m => m.o.t.val | none => 0

/-- The row-progress register's contents for a command (R223); SEQ of MCFG and MZERO, which have no future, is 0. (DESIGN CHOICE, log 125.) -/
def ArrCmd.progress (a : ArrCmd) (rows : Nat) (busy : Bool) : Word :=
  wordOf (a.core * 2 ^ 45 + a.slot * 2 ^ 41 + a.seq % 65536 * 2 ^ 25 + rows * 512 + a.tileNo * 128 + bitNat busy * 64)

/-- On whose behalf a command's engine acts. -/
def ArrCmd.ctx (a : ArrCmd) (s : State) : EngCtx := ⟨s.tenantOf a.core, a.kernel, a.core, a.slot, false⟩

/-- Replaces the running command of a cluster, with its progress. -/
def setArr (s : State) (n : Nat) (r : ArrRun) : State :=
  s.setClu n { s.clu n with arr := some r, mprog := r.cmd.progress r.rows true }

/-- A command begins with a tile's descriptor. -/
def beginArr (a : ArrCmd) (d : Word) (img : List Byte) (ended : Option (Nat × Nat × Nat × Word)) : ArrRun := ⟨a, d, 0, false, ended, false, img, false, 0⟩

/-- The completion value (R221). -/
def mmaValue (st cause reason rows : Nat) : Word := wordOf (st * 2 ^ 60 + cause * 2 ^ 52 + reason * 2 ^ 48 + rows * 2 ^ 40)

/-- The engine issues a follow-on that has a place in the queue: its checks (R217), then its fence (R100) and its formats (R63). -/
def admitFollow (s : State) (a : ArrCmd) : State :=
  match mmaOf a.i with
  | none => s
  | some m =>
    let t := s.tenantOf a.core
    match mmaCheck s t (cluOf a.core) m a.av a.bv a.ev a.fv with
    | some (cause, reason, _) => pushDone (engFault s a.core a.slot a.tid cause 2 a.h 0) a.h (mmaValue 3 cause reason 0)
    | none =>
      let f := mmaFmts s t m a.av a.bv
      pushArr (if m.r.ord.hasAcq then markBy s a.core a.tid m.r.scope else s) { a with fa := f.1, fb := f.2 }

/-- Follow-ons that wait for a place take those that are free, oldest first (R25). -/
def admitWaiting (clu : Nat) : List ArrCmd → State → State
  | [], s => s
  | a :: l, s =>
    if arrFull (s.clu clu) then s.setClu clu { s.clu clu with arrWait := a :: l }
    else admitWaiting clu l (admitFollow s a)

/-- A place of the queue has become free. -/
def admitFollows (s : State) (clu : Nat) : State :=
  admitWaiting clu (s.clu clu).arrWait (s.setClu clu { s.clu clu with arrWait := [] })

/-- The engine issues a landed copy's follow-on, or keeps it until the queue has a place (R25, R202). -/
def issueFollow (s : State) (a : ArrCmd) : State :=
  let n := cluOf a.core
  if arrTaken (s.clu n) then s.setClu n { s.clu n with arrWait := (s.clu n).arrWait ++ [a] } else admitFollow s a

/-- ARRAY_COMMAND_START: the array takes the next command of its queue, after its acquire, and checks the descriptor in force
(R100, R216-R218). MCFG.KEEP reads the old tile; a poisoned line of it is the issuing thread's precise fault. -/
def execArrayCommandStart (clu : Nat) (s : State) : Out :=
  let x := s.clu clu
  match x.arr, x.arrQ with
  | none, a :: rest =>
    let (s0, stuck) := forceFences s a.core a.tid
    if stuck then .next s
    else
      let s1 := s0.setClu clu { s0.clu clu with arrQ := rest }
      let d := s1.tile clu a.tileNo
      match a.i with
      | .mcfg keep _ _ _ =>
        if keep && dValid d then
          match tilePoison s1 clu d 0 ((dM d + 7) / 8 * 8) with
          | some k =>
            let s2 := s1.setClu clu { s1.clu clu with mprog := a.progress 0 false }
            .next (admitFollows (takeTrap s2 a.core a.slot 0x09 (wordOf (Config.flatBase + (k - Config.sramBase)))) clu)
          | none => .next (setArr s1 clu (beginArr a d (tileBytes s1 clu d 0 (dM d)) none))
        else .next (setArr s1 clu (beginArr a d [] none))
      | .mzero _ _ => .next (setArr s1 clu (beginArr a d [] none))
      | i =>
        match mmaOf i with
        | none => .next s1
        | some m =>
          let t := s1.tenantOf a.core
          let own (v : Word) : Bool := match bankAt s1 t v with | some (c, _) => cluOf c == clu | none => false
          match mmaRow s1 t m (a.fa, a.fb) a.av a.bv d with
          | .error e => .next (setArr s1 clu (beginArr a d [] (some (3, 0x07, e.2.1, 0))))
          | .ok _ =>
            if !shareInBank d then .next (setArr s1 clu (beginArr a d [] (some (3, 0x07, 4, 0))))
            else .next (setArr s1 clu (beginArr a d (if own a.av || own a.bv then tileBytes s1 clu d 0 (dM d) else []) none))
  | _, _ => .next s

/-- One line of an operand that lies in a share the command has already written: the bytes before or after that write (R221). -/
def ownLine (s : State) (clu : Nat) (r : ArrRun) (k n : Nat) : List Byte × State :=
  let now := bytesAt s.mem k n
  match placeOf k with
  | .sram c o =>
    let d := r.desc
    let i := c % 16
    if r.img.isEmpty || cluOf c != clu || r.rows ≤ 8 * i || o + n ≤ dBase d || dBase d + dShare d ≤ o then (now, s)
    else
      let (x, s1) := s.pick
      if x % 2 = 0 then (now, s1)
      else
        let old := now.zipIdx.map (fun p =>
          let q := o + p.2
          if dBase d ≤ q && q < dBase d + dShare d then r.img.getD (i * dShare d + (q - dBase d)) p.1 else p.1)
        (old, s1)
  | _ => (now, s)

/-- The bytes of a piece, line by line. -/
def ownPiece (s : State) (clu : Nat) (r : ArrRun) : Nat → Nat → Nat → List Byte × State
  | 0, _, _ => ([], s)
  | fuel + 1, k, n =>
    if n = 0 then ([], s)
    else
      let m := min n (64 - k % 64)
      let (b, s1) := ownLine s clu r k m
      let (t, s2) := ownPiece s1 clu r fuel (k + m) (n - m)
      (b ++ t, s2)

/-- An operand's bytes, or the cause and address of the failure. -/
def arrRead (s : State) (clu : Nat) (r : ArrRun) (ea : Word) (n : Nat) : Except (Nat × Word) (List Byte) × State :=
  let p := readUpto s (r.cmd.ctx s) ea n
  match p.2 with
  | some e => (.error e, s)
  | none =>
    if r.img.isEmpty then (.ok (piecesBytes s p.1), s)
    else
      let t := p.1.foldl (fun (t : List Byte × State) q => let b := ownPiece t.2 clu r 64 q.1 q.2; (t.1 ++ b.1, b.2)) ([], s)
      (.ok t.1, t.2)

/-- The rows of an operand: `n` rows of `bytes` from an address at a stride. -/
def arrRows (s : State) (clu : Nat) (r : ArrRun) (stride : Int) (bytes : Nat) : Nat → Word → Except (Nat × Word) (List (List Byte)) × State
  | 0, _ => (.ok [], s)
  | n + 1, ea =>
    match arrRead s clu r ea bytes with
    | (.error e, s1) => (.error e, s1)
    | (.ok b, s1) =>
      match arrRows s1 clu r stride bytes n (ea + BitVec.ofInt 64 stride) with
      | (.error e, s2) => (.error e, s2)
      | (.ok l, s2) => (.ok (b :: l), s2)

/-- The elements of a row. -/
def mRowElems (pp : Bool) (fmt : Word) (n : Nat) (bs : List Byte) : List Elem := if pp then bitElems n bs else elemsOf fmt n bs

/-- Halfwords of bytes. -/
def halves : Nat → List Byte → List Nat
  | 0, _ => []
  | n + 1, l => leNat (l.take 2) :: halves n (l.drop 2)

/-- What a row block's reads give: rows of A, rows of B, scale codes, and the failure of illegal metadata. -/
structure BlockIn where
  a : List (List (Option Elem))
  b : List (List Elem)
  scales : List Nat

/-- Bytes of a row that a read at a format's depth touches. -/
def mReadBytes (pp : Bool) (fmt : Word) (n : Nat) : Nat :=
  if pp then planeBytes n else match fTy fmt with | .np => fDepth fmt * planeBytes n | t => extentOf t 0 n

/-- Reads what rows `lo` to `hi - 1` of the tile need (R219, R220, R228). -/
def readBlock (s : State) (clu : Nat) (r : ArrRun) (m : MmaOp) (lo hi : Nat) : Except (Nat × Word) BlockIn × State :=
  let a := r.cmd
  let sa := stride32 a.ev 0
  let nn := dN r.desc
  let ka := if m.sparse then m.k / 2 else m.k
  match arrRows s clu r sa (mReadBytes m.pp a.fa ka) (hi - lo) (a.av + BitVec.ofInt 64 (sa * lo)) with
  | (.error e, s1) => (.error e, s1)
  | (.ok ra, s1) =>
    match arrRows s1 clu r (stride32 a.ev 32) (mReadBytes m.pp a.fb nn) m.k a.bv with
    | (.error e, s2) => (.error e, s2)
    | (.ok rb, s2) =>
      let ea := ra.map (mRowElems m.pp a.fa ka)
      let eb := rb.map (mRowElems m.pp a.fb nn)
      if m.sc then
        match arrRead s2 clu r a.fv (2 * (dM r.desc + nn)) with
        | (.error e, s3) => (.error e, s3)
        | (.ok sb, s3) => (.ok ⟨ea.map (fun l => l.map some), eb, halves (dM r.desc + nn) sb⟩, s3)
      else if m.sparse then
        let w := metaRow m.pat8 m.k
        match arrRows s2 clu r w w (hi - lo) (a.fv + wordOf (w * lo)) with
        | (.error e, s3) => (.error e, s3)
        | (.ok mb, s3) =>
          let xs := (ea.zip mb).map (fun p => expandRow m.pat8 (m.k / (if m.pat8 then 8 else 4)) p.1 (leNat p.2))
          if xs.any (fun x => x.isNone) then (.error (0x07, a.fv), s3) else (.ok ⟨xs.filterMap id, eb, []⟩, s3)
      else (.ok ⟨ea.map (fun l => l.map some), eb, []⟩, s2)

/-- A row block's results in row-major order, with the flags (R221). -/
def blockOut (row : MRow) (md : RMode) (x : BlockIn) (lo m n : Nat) (accs : List (List (Option Nat))) : List Nat × IFl :=
  let cols := (List.range n).map (column x.b)
  let ss := (List.range n).map (fun j => x.scales.getD (m + j) 0)
  let rs := (x.a.zip accs).zipIdx.map (fun p => dotRow row md p.1.1 (x.scales.getD (lo + p.2) 0) cols ss p.1.2)
  (rs.flatMap (fun r => r.1), rs.foldl (fun g r => g ||| r.2) 0)

/-- The codes of a row-major byte string. -/
def codesOf (sz : Nat) : Nat → List Byte → List Nat
  | 0, _ => []
  | n + 1, l => leNat (l.take sz) :: codesOf sz n (l.drop sz)

/-- The command ends where it stands with a cause. -/
def arrFail (s : State) (clu : Nat) (r : ArrRun) (cause : Nat) (va : Word) : State :=
  if cause = 0x06 then
    queueWalk (s.setClu clu { s.clu clu with arr := some { r with paused := true } })
      ⟨s.tenantOf r.cmd.core, va, r.cmd.kernel, 0, r.cmd.core, r.cmd.slot, .array clu r.cmd.h⟩
  else s.setClu clu { s.clu clu with arr := some { r with ended := some (3, cause, 0, va) } }

/-- Runs of bytes that a row block's reads name: address and length. -/
def blockRuns (r : ArrRun) (m : MmaOp) (lo hi : Nat) : List (Word × Nat) :=
  let a := r.cmd
  let sa := stride32 a.ev 0
  let sb := stride32 a.ev 32
  let ka := if m.sparse then m.k / 2 else m.k
  (List.range (hi - lo)).map (fun i => (a.av + BitVec.ofInt 64 (sa * (lo + i : Nat)), mReadBytes m.pp a.fa ka))
  ++ (List.range m.k).map (fun i => (a.bv + BitVec.ofInt 64 (sb * (i : Nat)), mReadBytes m.pp a.fb (dN r.desc)))
  ++ (if m.sc then [(a.fv, 2 * (dM r.desc + dN r.desc))] else [])
  ++ (if m.sparse then [(a.fv + wordOf (metaRow m.pat8 m.k * lo), metaRow m.pat8 m.k * (hi - lo))] else [])

/-- A command that resumes after a page fault: its acquire is performed again (R105, R224), and it reads the formats and the rounding
mode again (R63, R65, R75). Formats that make no row of the type table end it as they would at its start. (DESIGN CHOICE, log 104.) -/
def resumeArr (s : State) (r : ArrRun) (m : MmaOp) : State × ArrRun :=
  let (s1, stuck) := forceFences s r.cmd.core r.cmd.tid
  if stuck then (s, r)
  else
    let f := mmaFmts s1 (s1.tenantOf r.cmd.core) m r.cmd.av r.cmd.bv
    let md := (s1.rmodeOf r.cmd.tid).getD r.cmd.rmode
    let r1 := { r with again := false, cmd := { r.cmd with fa := f.1, fb := f.2, rmode := md } }
    match mmaRow s1 (s1.tenantOf r.cmd.core) m f r.cmd.av r.cmd.bv r.desc with
    | .error e => (s1, { r1 with ended := some (3, 0x07, e.2.1, 0) })
    | .ok _ => (s1, r1)

/-- The next block of a command is computed and written (R221). -/
def rowBlock (s : State) (clu : Nat) (r : ArrRun) (m : MmaOp) : State :=
  let d := r.desc
  let hi := min (r.rows + 16) (dM d)
  let n := dN d
  match rowOf m.sc m.pp m.sparse (fTy r.cmd.fa) (fTy r.cmd.fb) with
  | .error _ => s
  | .ok row =>
    match readBlock s clu r m r.rows hi with
    | (.error e, s1) => arrFail s1 clu r e.1 e.2
    | (.ok x, s1) =>
      match if m.o.acc then tilePoison s1 clu d r.rows hi else none with
      | some k => arrFail s1 clu r 0x09 (wordOf (Config.flatBase + (k - Config.sramBase)))
      | none =>
        let old := if m.o.acc then (codesOf (dSz d) ((hi - r.rows) * n) (tileBytes s1 clu d r.rows hi)).map some
                   else List.replicate ((hi - r.rows) * n) none
        let accs := (List.range (hi - r.rows)).map (fun i => (old.drop (i * n)).take n)
        let o := blockOut row r.cmd.rmode x r.rows (dM d) n accs
        let s2 := putRows (noteRuns s1 (r.cmd.ctx s1) (blockRuns r m r.rows hi)) clu d r.rows hi (o.1.flatMap (leBytes (dSz d)))
        setArr (raiseTid s2 r.cmd.tid o.2) clu { r with rows := hi }

/-- ROW_BLOCK_WRITE: the next block of 16 rows is computed and written (R221); a page fault pauses the command (R224) and
any other failure ends it (R225). A cancelled command ends with the block in progress (R226). -/
def execRowBlockWrite (clu : Nat) (s : State) : Out :=
  match (s.clu clu).arr with
  | none => .next s
  | some r =>
    match mmaOf r.cmd.i with
    | none => .next s
    | some m =>
      if r.paused || (r.cancel && r.stopAt ≤ r.rows) || r.ended.isSome || dM r.desc ≤ r.rows then .next s
      else if r.again then
        let (s1, r1) := resumeArr s r m
        .next (if r1.again then s1
               else if r1.ended.isSome then s1.setClu clu { s1.clu clu with arr := some r1 }
               else rowBlock (s1.setClu clu { s1.clu clu with arr := some r1 }) clu r1 m)
      else .next (rowBlock s clu r m)

/-- The command leaves the array. -/
def closeArr (s : State) (clu : Nat) (r : ArrRun) : State :=
  s.setClu clu { s.clu clu with arr := none, mprog := r.cmd.progress r.rows false }

/-- The thread of a synchronous command goes on past it (R216). -/
def arrReturn (s : State) (a : ArrCmd) : State :=
  match s.find a.tid with
  | some (c, sl) => s.modThread c sl (fun t => if t.wait = .array then { t with pc := t.pc + 8, wait := .none } else t)
  | none => s

/-- MCFG's effect (R218). -/
def configTile (s : State) (clu : Nat) (a : ArrCmd) (img : List Byte) : State :=
  let d := a.av ||| wordOf (2 ^ 63)
  let n := dM d * (dN d * dSz d)
  let bs := img.take n ++ List.replicate (n - img.length) 0
  putRows (s.setClu clu { s.clu clu with tiles := tset 0 (s.clu clu).tiles a.tileNo d }) clu d 0 (dM d) bs

/-- ARRAY_COMMAND_END: the last byte is written, the release is performed, and the future completes or the thread goes on
(R216, R218, R221, R225, R226). A cancelled command that a page fault has paused ends at once, with the rows before its block (DESIGN
CHOICE, log 120). -/
def execArrayCommandEnd (clu : Nat) (s : State) : Out :=
  match (s.clu clu).arr with
  | none => .next s
  | some r =>
    let a := r.cmd
    match a.i with
    | .mcfg _ _ _ _ => .next (admitFollows (arrReturn (closeArr (configTile s clu a r.img) clu { r with rows := dM a.av }) a) clu)
    | .mzero _ _ =>
      let n := dM r.desc * (dN r.desc * dSz r.desc)
      let s1 := if dValid r.desc then putRows s clu r.desc 0 (dM r.desc) (List.replicate n 0) else s
      .next (admitFollows (arrReturn (closeArr s1 clu { r with rows := if dValid r.desc then dM r.desc else 0 }) a) clu)
    | _ =>
      match r.ended with
      | some (st, cause, reason, va) =>
        let s1 := engFault s a.core a.slot a.tid cause 2 a.h va
        .next (admitFollows (pushDone (closeArr s1 clu r) a.h (mmaValue st cause reason r.rows)) clu)
      | none =>
        if r.cancel && (r.paused || r.stopAt ≤ r.rows) then .next (admitFollows (pushStopped (closeArr s clu r) a.h) clu)
        else if dM r.desc ≤ r.rows then .next (admitFollows (pushDone (closeArr s clu r) a.h (mmaValue 1 0 0 r.rows)) clu)
        else .next s

end Sys2Proof.Machine
end

