-- ==== Sys2Proof/Machine/Threads.lean ====
section
/-! DEFINITION. The life of a thread: creation where its place frees (R36), EXIT and retirement (R46, R206), and what retirement tells whoever awaits it (R240, R258, R322). -/

namespace Sys2Proof.Machine

/-- Changes a queue. -/
def State.modQueue (s : State) (q : Nat) (f : Queue → Queue) : State := s.setQueue q (f (s.queue q))

/-- One packet or entry of a queue is no longer started and incomplete (R314): a packet that waits for the last of them under ORDB is ready
from now on (R325). -/
def liveDown (s : State) (q : Nat) : State :=
  s.modQueue q (fun x => { x with live := x.live - 1, readyAt := if x.live = 1 && !isDevQueue q && !fetchable s x then s.time else x.readyAt })

/-- Marks a started packet as ready to complete (R320). -/
def readyPkt (s : State) (id : Nat) : State :=
  { s with tr := { s.tr with pkts := s.tr.pkts.map (fun p => if p.id == id then { p with ready := true } else p) } }

/-- The thread a future was issued by, while its handle has a place. -/
def futTid (s : State) (h : Word) : Word :=
  match s.fut h with
  | some f => (match f.loc with | .reg t _ _ => t | .pair _ t => t | .gone => 0)
  | none => 0

/-- An engine fault of work that a future stands for (R286). -/
def futFault (s : State) (h : Word) (cause eng : Nat) : State := engFault s (futCore h) (futSlot h) (futTid s h) cause eng h 0

/-- Every task of a launch has retired (R297, R320). -/
def finishLaunch (s : State) (l : Launch) : State :=
  let s1 := { s with tr := { s.tr with launches := s.tr.launches.filter (fun x => x.id != l.id) } }
  match l.pkt, l.h with
  | some p, _ => readyPkt s1 p
  | none, some h =>
    let s2 := if l.ended = 0 then s1 else futFault s1 h l.cause 6
    pushDone (liveDown s2 l.q) h (wordOf ((if l.ended = 0 then 1 else 3) * 2 ^ 60 + l.cause * 2 ^ 52 + l.ended % 2 ^ 32))
  | none, none => s1

/-- Changes a launch. -/
def modLaunch (s : State) (id : Nat) (f : Launch → Launch) : State :=
  { s with tr := { s.tr with launches := s.tr.launches.map (fun l => if l.id == id then f l else l) } }

/-- The launch of a number. -/
def State.launch (s : State) (id : Nat) : Option Launch := s.tr.launches.find? (fun l => l.id == id)

/-- A task of a launch has retired. -/
def taskEnded (s : State) (id : Nat) (exited : Bool) (cause : Nat) : State :=
  let s1 := modLaunch s id (fun l => { l with left := l.left - 1, ended := if exited then l.ended else l.ended + 1,
                                              cause := if !exited && l.ended = 0 then cause else l.cause })
  match s1.launch id with
  | some l => if l.left = 0 then finishLaunch s1 l else s1
  | none => s1

/-- What awaits a thread learns of its retirement: `w0` is its W0, `cause` its TRAPCAUSE if it did not EXIT. -/
def originEnded (s : State) (o : Origin) (exited : Bool) (cause : Nat) (w0 : Word) : State :=
  match o with
  | .none => s
  | .applyA h => if exited then pushDone s h w0 else pushDone (futFault s h cause 5) h (wordOf (0xE000000000000000 + cause))
  | .task id => taskEnded s id exited cause
  | .tile sw t => bodyEnded s sw t exited cause
  | .packet id => readyPkt s id

/-- A tag with no owner (R197). -/
def TagSt.freed (t : TagSt) : TagSt := { t with owner := none, orphan := false }

/-- The tags of a retiring thread: landed ones are free, the rest are freed as they land (R197, R206). -/
def orphanTags (s : State) (c : Nat) (tid : Word) : State :=
  let k := s.core c
  s.setCore c { k with tags := (k.tags.map (fun p =>
    if p.2.owner == some tid then (p.1, if p.2.lnd then p.2.freed else { p.2 with orphan := true }) else p)).filter (fun p => p.2 != TagSt.reset) }

/-- Buffers, with identifiers, that hold anything. -/
def fullBufs (s : State) (l : List (Nat × Word)) : List (Nat × Word) := l.filter (fun e => !(s.core e.1).wbuf.isEmpty)

/-- Notes the buffers that may hold stores of a thread that leaves every slot (R91, R97). -/
def noteTrail (s : State) (tid : Word) (l : List (Nat × Word)) : State :=
  let keep := (s.eng.trail.map (fun p => (p.1, fullBufs s p.2))).filter (fun p => p.1 != tid && !p.2.isEmpty)
  let new := fullBufs s l
  { s with eng := { s.eng with trail := if new.isEmpty then keep else keep ++ [(tid, new)] } }

/-- The packet that a retiring thread's work belongs to (R320). -/
def originPkt (s : State) (o : Origin) : Option Nat :=
  match o with
  | .packet id => some id
  | .task l => (s.launch l).bind (fun x => x.pkt)
  | _ => none

/-- A packet's release must publish what its retired threads have left in write buffers (R320). -/
def noteRan (s : State) (o : Origin) (l : List (Nat × Word)) : State :=
  match originPkt s o with
  | some id => { s with tr := { s.tr with pkts := s.tr.pkts.map (fun p => if p.id == id && p.rscope != 0 then { p with ran := p.ran ++ fullBufs s l } else p) } }
  | none => s

/-- Retires the thread of a slot (R46): its counts, frames, slot and block. -/
def retire (s : State) (c sl : Nat) (exited : Bool) (cause : Nat) : State :=
  match s.thread c sl with
  | none => s
  | some t =>
    let w0 := s.reg c t 0
    let s0 := noteTrail (noteRan s t.origin ((c, s.tid c sl) :: t.left)) (s.tid c sl) t.left
    let s1 := t.k.toList.foldl dropCount s0
    let s2 := endFrames s1 c sl
    let s3 := orphanTags s2 c (s.tid c sl)
    let s4 := s3.setSlot c sl { s3.slot c sl with thread := none, cset := CopySet.zero, ctime := [], upend := 0, uwp := 0, trep := 0, tfl := 0 }
    originEnded s4 t.origin exited cause w0

/-- EXIT (R46). -/
def execExit (s : State) : Out := run (do
  let (c, sl) ← me
  let _ ← th
  release .pkg
  upd (fun s => retire s c sl true 0)) s

/-- Array commands and parks of a thread that has migrated stand for its new identifier (R76, R300). -/
def renameCmds (s : State) (old new : Word) : State :=
  let f (a : ArrCmd) : ArrCmd := if a.tid == old then { a with tid := new } else a
  { s with clus := s.clus.map (fun p => (p.1, { p.2 with
             arrQ := p.2.arrQ.map f, arrWait := p.2.arrWait.map f, arr := p.2.arr.map (fun r => { r with cmd := f r.cmd }) }))
           eng := { s.eng with parks := s.eng.parks.map (fun r => if r.tid == old then { r with tid := new } else r) } }

/-- What a migrated thread's flit brings to its new place (R261; one from another module has left nothing here, and comes under
identifier 0): the carve bytes are 0, what its futures and commands stand for is its
new identifier (R76, R209), its stores in the buffers it left behind are still its own (R91), what it has read in phases still open it reads again, under its new
core's stores (R92), and it issues after 8 ck at the earliest (R17). (DESIGN CHOICE, log 98.) -/
def bringFlit (s : State) (c sl : Nat) (f : Flit) : State :=
  match s.thread c sl with
  | none => s
  | some t =>
    let s0 := zeroWin s c (t.base + 8 * s.nregs c) (t.size - 8 * s.nregs c)
    let s1 := s0.modThread c sl (fun t => { t with
      flags := Flags.ofBits (BitVec.ofNat 4 (fld f.ctl 0 4)), vl := fld f.ctl 4 13, rmode := RMode.ofCode (fld f.ctl 17 3),
      iflags := BitVec.ofNat 5 (fld f.ctl 20 5), k := f.k,
      left := if f.tid = 0 then [] else fullBufs s ((tidCore f.tid, f.tid) :: leftBy s f.tid),
      pins := f.pins.map (fun p => (p.1, overlay p.1 p.2.1 (s.core c).wbuf, p.2.2)),
      views := f.views.map (fun p => (p.1, overlayWord p.1 p.2 (s.core c).wbuf)), seen := f.seen, stale := f.stale,
      nextCk := s.ckOf c + Config.issueCk })
    let s2 := s1.setShadow c sl 0 f.hvec
    let s3 := (f.scratch.zipIdx).foldl (fun s p => s.setShadow c sl (0x40 + 8 * p.2) p.1) s2
    let id := s3.tid c sl
    let s4 := if f.tid = 0 then s3 else renameCmds s3 f.tid id
    { s4 with eng := { s4.eng with trail := s4.eng.trail.filter (fun p => p.1 != f.tid)
                                   futs := s4.eng.futs.map (fun x => match x.loc with
        | .pair k o => if o == f.tid && f.tid != 0 then { x with loc := .pair k id } else x
        | _ => x) } }

/-- The floors of a waiting creation's thread (R36, R92): of the acquire made for it, and those a flit brings. -/
def Creation.floors (r : Creation) (now : Nat) : Floors :=
  let born := bornFloors r.acq (r.stamp.getD now)
  match r.flit with
  | some f => f.floors.join born
  | none => born

/-- Whether the router of a creation's cluster admits its packet (R310): one that comes from another cluster, or from the Treasury, needs the
bit of its sender's tenant slot. -/
def Creation.admitted (s : State) (r : Creation) : Bool :=
  let n := cluOf r.core
  let slotBit (id : Nat) : Bool := match s.tenSlot id with | some k => bit (s.clu n).rmemb k | none => false
  match r.flit, r.origin with
  | some f, _ => (f.tid != 0 && cluOf (tidCore f.tid) == n) || slotBit f.tenant
  | none, .applyA h => s.routed (futCore h) n
  | none, .packet id => r.cell.isSome || (match s.tr.pkts.find? (fun p => p.id == id) with | some p => bit (s.clu n).rmemb (s.queue p.q).tslot | none => true)
  | none, _ => true

/-- A creation whose packet the router rejects ends with cause 0x08 (R310): its counts are released, and whoever awaits its thread learns the
cause; the queue of an APPLY packet halts. (DESIGN CHOICE, log 113.) -/
def rejectCreation (s : State) (r : Creation) : State :=
  let s1 := match r.env with | some h => dropCount s h | none => s
  let s2 := match r.flit with | some f => f.k.toList.foldl dropCount s1 | none => s1
  match r.origin with
  | .packet id =>
    let s3 := readyPkt s2 id
    (match s3.tr.pkts.find? (fun p => p.id == id) with | some p => haltAtBoundary s3 p.q 0x08 | none => s3)
  | o => originEnded s2 o false 0x08 0

/-- Performs a creation where its place has freed: none while it must wait, for a place (R36) or for an aged tile to take it (R239). -/
def performCreation (s : State) (r : Creation) : Option (State × Nat) :=
  match create s r.core r.entry r.bsize (r.regs.filter (fun p => p.1 < s.nregs r.core)) r.origin (r.floors s.now) with
  | none => none
  | some (s1, sl) =>
   if heldForTile s1 r.core then none
   else
    let s2 := match r.flit with | some f => bringFlit s1 r.core sl f | none => s1
    let s3 := match r.env with | some h => dropCount s2 h | none => s2
    let s4 := match r.cell with
      | some n => { s3 with eng := { s3.eng with cells := (let x := tget Cell.reset s3.eng.cells n
                                                           tset Cell.reset s3.eng.cells n { x with state := 8, tchg := wordOf (s3.time.toNat / 65536) }) } }
      | none => s3
    some (s4, sl)

/-- THREAD_CREATION: waiting creation `n` finds a free slot and room (R36), and its packet the router's leave (R310). -/
def execThreadCreation (n : Nat) (s : State) : Out :=
  match s.eng.creations[n]? with
  | none => .next s
  | some r =>
    if !r.admitted s then .next (rejectCreation { s with eng := { s.eng with creations := delAt s.eng.creations n } } r)
    else
    match performCreation s r with
    | some (s1, _) => .next { s1 with eng := { s1.eng with creations := delAt s1.eng.creations n } }
    | none => .next s

end Sys2Proof.Machine
end

