-- ==== Sys2Proof/Machine/VecCalc.lean ====
section
/-! DEFINITION. What vector instructions compute from elements (R175, R186-R190, R227), apart from where the elements stand. -/

namespace Sys2Proof.Machine

/-- The computation type of a destination format (R175). -/
def ctOf (fd : Word) : ETy :=
  match fTy fd with
  | .np => .i32
  | t => t

/-- Bits of an integer computation type (R186). -/
def ctBits (ct : ETy) : Nat := if ct = .i64 then 64 else 32

/-- An integer modulo 2^w, as two's complement (R175). -/
def wrapI (w : Nat) (v : Int) : Int := (BitVec.ofInt w v).toInt

/-- The code of a float element. -/
def Elem.bits : Elem → Nat
  | .fl _ x => x
  | .int _ | .np _ _ => 0

/-- A broadcast operand: the low bits of its register, read as the computation type (R175). -/
def bcElem (ct : ETy) (v : Word) : Elem := elemOf ct (v.toNat % 2 ^ (8 * eSize ct))

/-- An elementwise function. -/
inductive EwFn
  | mov
  | bin (g : FFmt → RMode → Num → Num → Nat × IFl) (h : Nat → Int → Int → Int)
  | fma
  | una (g : FFmt → RMode → Nat → Nat × IFl) (h : Int → Int)
  | cmp (c : Cond)
  | sel

/-- VCMP's condition on the relation of two values (R188). -/
def cmpHolds (c : Cond) (r : Rel) : Bool :=
  match c with
  | .eq => r == .eq
  | .ne => r != .eq
  | .vs => r == .un
  | .vc => r != .un
  | .ge => r == .gt || r == .eq
  | .lt => r == .lt
  | .gt => r == .gt
  | .le => r == .lt || r == .eq
  | _ => false

/-- A shift amount (R186). -/
def vShAmt (w : Nat) (b : Int) : Nat := (b % w).toNat

def vShl (w : Nat) (a b : Int) : Int := wrapI w (a * 2 ^ vShAmt w b)
def vShr (w : Nat) (a b : Int) : Int := wrapI w ((BitVec.ofInt w a).toNat / 2 ^ vShAmt w b)
def vSar (w : Nat) (a b : Int) : Int := a / 2 ^ vShAmt w b
def vAnd (w : Nat) (a b : Int) : Int := (BitVec.ofInt w a &&& BitVec.ofInt w b).toInt
def vOr (w : Nat) (a b : Int) : Int := (BitVec.ofInt w a ||| BitVec.ofInt w b).toInt
def vXor (w : Nat) (a b : Int) : Int := (BitVec.ofInt w a ^^^ BitVec.ofInt w b).toInt
def vAdd (w : Nat) (a b : Int) : Int := wrapI w (a + b)
def vSub (w : Nat) (a b : Int) : Int := wrapI w (a - b)
def vMul (w : Nat) (a b : Int) : Int := wrapI w (a * b)
def vDiv (w : Nat) (a b : Int) : Int := wrapI w (a.tdiv b)
def vMin (_ : Nat) (a b : Int) : Int := min a b
def vMax (_ : Nat) (a b : Int) : Int := max a b

/-- No float result: integer forms meet no float computation type. -/
def noFlt2 (f : FFmt) (_ : RMode) (_ _ : Num) : Nat × IFl := (f.nanBits, 0)

/-- A float function of the value alone. -/
def ofVal (g : FFmt → RMode → Num → Nat × IFl) (f : FFmt) (md : RMode) (x : Nat) : Nat × IFl := g f md (f.val x)

/-- An element as an operation produces it (R69): a NaN is canonical, and one whose operand was signalling raises invalid. -/
def canonElem (r : Elem × IFl) : Elem × IFl :=
  match r.1 with
  | .fl f x => if (f.val x).isNan then (.fl f f.nanBits, r.2 ||| nvIf (f.val x).sig) else r
  | .int _ | .np _ _ => r

/-- One element of an elementwise form: `a` and `b` as read, `d` the destination's element as read (R175, R186-R188).
(DEDUCED, log 41.) -/
def ewElem (k : EwFn) (fd : Word) (md : RMode) (bca : Bool) (d a b : Elem) : Elem × IFl :=
  let ct := ctOf fd
  let w := ctBits ct
  -- the source converted to ct, and the result put into the destination's type
  let src (x : Elem) : Elem × IFl := toElem ct 0 md x
  let out (r : Elem × IFl) : Elem × IFl := let y := toElem (fTy fd) (fWidth fd) md r.1; (y.1, r.2 ||| y.2)
  match k with
  | .mov => canonElem (if bca then out (a, 0) else toElem (fTy fd) (fWidth fd) md a)
  | .bin g h =>
    let x := src a
    let y := src b
    match ct with
    | .fl f => let r := g f md x.1.num y.1.num; out (.fl f r.1, x.2 ||| y.2 ||| r.2)
    | _ => out (.int (h w x.1.toI y.1.toI), x.2 ||| y.2)
  | .fma =>
    let x := src a
    let y := src b
    let z := src d
    match ct with
    | .fl f => let r := fFma f md x.1.num y.1.num z.1.num; out (.fl f r.1, x.2 ||| y.2 ||| z.2 ||| r.2)
    | _ => out (.int (wrapI w (x.1.toI * y.1.toI + z.1.toI)), x.2 ||| y.2 ||| z.2)
  | .una g h =>
    let x := src a
    match ct with
    | .fl f => let r := g f md x.1.bits; out (.fl f r.1, x.2 ||| r.2)
    | _ => out (.int (wrapI w (h x.1.toI)), x.2)
  | .cmp c =>
    let one := cmpHolds c (a.num.rel b.num)
    let r : Elem := match ct with
      | .fl f => .fl f (if one then (f.roundTo md (.fin false 1 0)).1 else 0)
      | _ => .int (if one then 1 else 0)
    out (r, nvIf (a.num.sig || b.num.sig))
  | .sel => canonElem (out (src (if d.isZero then b else a)))

/-- Elementwise results of the lists of operands. -/
def ewList (k : EwFn) (fd : Word) (md : RMode) (bca : Bool) : List Elem → List Elem → List Elem → List Elem × IFl
  | d :: ds, a :: as, b :: bs =>
    let r := ewElem k fd md bca d a b
    let t := ewList k fd md bca ds as bs
    (r.1 :: t.1, r.2 ||| t.2)
  | _, _, _ => ([], 0)

/-! Reductions (R189). -/

/-- The combination of a reduction. -/
inductive RedFn | sum | max | min | dot
  deriving DecidableEq, Repr

/-- Combines two leaves in the computation type. -/
def redComb (k : RedFn) (ct : ETy) (md : RMode) (x y : Elem) : Elem × IFl :=
  match ct with
  | .fl f =>
    let r := match k with
      | .sum | .dot => fAdd f md x.num y.num
      | .max => fMax f md x.num y.num
      | .min => fMin f md x.num y.num
    (.fl f r.1, r.2)
  | _ =>
    (.int (match k with
      | .sum | .dot => wrapI (ctBits ct) (x.toI + y.toI)
      | .max => max x.toI y.toI
      | .min => min x.toI y.toI), 0)

/-- A leaf: the element, or the rounded product of VDOT. -/
def redLeaf (k : RedFn) (ct : ETy) (md : RMode) (a b : Elem) : Elem × IFl :=
  let x := toElem ct 0 md a
  match k with
  | .dot =>
    let y := toElem ct 0 md b
    match ct with
    | .fl f => let r := fMul f md x.1.num y.1.num; (.fl f r.1, x.2 ||| y.2 ||| r.2)
    | _ => (.int (wrapI (ctBits ct) (x.1.toI * y.1.toI)), x.2 ||| y.2)
  | _ => canonElem x

/-- The zero of a type. -/
def zeroElem (ct : ETy) : Elem :=
  match ct with
  | .fl f => .fl f 0
  | _ => .int 0

/-- The leaves with their flags: absent under a zero mask element. -/
def redLeaves (k : RedFn) (msk : Bool) (ct : ETy) (md : RMode) : List Elem → List Elem → List (Option Elem) × IFl
  | a :: as, b :: bs =>
    let t := redLeaves k msk ct md as bs
    if msk && b.isZero then (none :: t.1, t.2)
    else let r := redLeaf k ct md a b; (some r.1 :: t.1, r.2 ||| t.2)
  | _, _ => ([], 0)

/-- A reduction's element (R189). -/
def redVal (k : RedFn) (arr msk : Bool) (pick : Nat) (fd : Word) (md : RMode) (as bs : List Elem) : Elem × IFl :=
  let ct := ctOf fd
  let ls := redLeaves k msk ct md as bs
  let r := combine (redComb k ct md) arr pick ls.1
  let y := toElem (fTy fd) (fWidth fd) md (r.1.getD (zeroElem ct))
  (y.1, ls.2 ||| r.2 ||| y.2)

/-! The online-softmax merge (R190), on codes of one float format. -/

/-- The larger of two codes in the order where −0 lies below +0. -/
def maxCode (f : FFmt) (x y : Nat) : Nat := if (f.val x).below (f.val y) then y else x

/-- RoundTo(e^(x − m)) with an exact argument: of finite values, or −∞ below a finite maximum. -/
def expDiff (f : FFmt) (md : RMode) (x m : Num) : Nat × IFl :=
  match x with
  | .fin .. =>
    let d := (Sum.zero.add x).add m.negate
    if d.v = 0 then f.roundTo md (.fin false 1 0) else expFin f md d.v d.e
  | _ => (0, 0)

/-- RoundTo(a × b + t), or RoundTo(a × b) when `t` is absent. -/
def fusedOpt (f : FFmt) (md : RMode) (a b : Nat) (t : Option Nat) : Nat × IFl :=
  match t with
  | some t => fFma f md (f.val a) (f.val b) (f.val t)
  | none => fMul f md (f.val a) (f.val b)

/-- A sum of codes. -/
def addCode (f : FFmt) (md : RMode) (x y : Nat) : Nat × IFl := fAdd f md (f.val x) (f.val y)

/-- Weighted leaves: absent where the weight is +0. -/
def weighted (f : FFmt) (md : RMode) : List Nat → List Nat → List (Option Nat) × IFl
  | w :: ws, v :: vs =>
    let t := weighted f md ws vs
    if w = 0 then (none :: t.1, t.2) else let r := fMul f md (f.val w) (f.val v); (some r.1 :: t.1, r.2 ||| t.2)
  | _, _ => ([], 0)

/-- VSMAX on a record m, s, acc with scores `xs` and rows of values `vs` (R190): a NaN score raises invalid, and so does a signalling
NaN at m, which the operation reads (R69). (DEDUCED, log 43.) -/
def smaxCode (f : FFmt) (md : RMode) (m s : Nat) (acc xs : List Nat) (vs : List (List Nat)) : List Nat × IFl :=
  let bad := xs.any (fun x => (f.val x).isNan)
  if (f.val m).isNan || bad then (List.replicate (2 + acc.length) f.nanBits, nvIf (bad || (f.val m).sig))
  else
    let mn := xs.foldl (maxCode f) m
    let v := f.val mn
    let one := (f.roundTo md (.fin false 1 0)).1
    let ws : List (Nat × IFl) :=
      if v = .inf false then xs.map (fun x => (if f.val x = .inf false then one else 0, 0))
      else if v = .inf true then xs.map (fun _ => (0, 0))
      else xs.map (fun x => expDiff f md (f.val x) v)
    let sc : Nat × IFl :=
      if v = .inf false then (if f.val m = .inf false then one else 0, 0)
      else if v = .inf true then (one, 0)
      else expDiff f md (f.val m) v
    let w := ws.map (fun r => r.1)
    let t := treeMerge (addCode f md) (w.map (fun x => if x = 0 then none else some x))
    let part (old : Nat) (u : Option Nat × IFl) : Nat × IFl :=
      if sc.1 = 0 then (u.1.getD 0, u.2) else (let r := fusedOpt f md old sc.1 u.1; (r.1, u.2 ||| r.2))
    let s1 := part s t
    let cols := acc.zipIdx.map (fun p =>
      let l := weighted f md w (vs.map (fun r => r.getD p.2 0))
      let u := treeMerge (addCode f md) l.1
      part p.1 (u.1, l.2 ||| u.2))
    (mn :: s1.1 :: cols.map (fun r => r.1),
     ws.foldl (fun g r => g ||| r.2) 0 ||| sc.2 ||| s1.2 ||| cols.foldl (fun g r => g ||| r.2) 0)

/-- VSMAXF: the normalised row, its flags, and Z (R190). -/
def smaxfCode (f : FFmt) (md : RMode) (s : Nat) (acc : List Nat) : List Nat × IFl × Bool :=
  if (f.val s).isZero then (acc.map (fun _ => 0), 0, true)
  else
    let rs := acc.map (fun a => fDiv f md (f.val a) (f.val s))
    (rs.map (fun r => r.1), rs.foldl (fun g r => g ||| r.2) 0, false)

/-! MCOMP (R227). -/

/-- Whether element `x` of index `i` ranks above element `y` of index `j`. -/
def ranksAbove (f : FFmt) (x i y j : Nat) : Bool :=
  let a := f.absBits x
  let b := f.absBits y
  let na := (f.val a).isNan
  let nb := (f.val b).isNan
  if na || nb then (na && !nb) || (na && nb && i < j)
  else if a = b then i < j else b < a

/-- The indices a group keeps, ascending: the `h` that rank highest. -/
def keptOf (f : FFmt) (g : List Nat) (h : Nat) : List Nat :=
  (List.range g.length).filter (fun i =>
    ((List.range g.length).filter (fun j => j != i && ranksAbove f (g.getD j 0) j (g.getD i 0) i)).length < h)

/-- The metadata number of kept indices: 2 bits each for two of four, 3 bits each for four of eight. -/
def metaOf (b : Nat) : List Nat → Nat
  | [] => 0
  | i :: l => i + 2 ^ b * metaOf b l

/-- The metadata bytes of a row of groups' kept indices. -/
def metaBytes (pat8 : Bool) : List (List Nat) → List Byte
  | [] => []
  | k :: l =>
    if pat8 then leBytes 2 (metaOf 3 k) ++ metaBytes pat8 l
    else
      match l with
      | [] => leBytes 1 (metaOf 2 k)
      | k2 :: l2 => leBytes 1 (metaOf 2 k + 16 * metaOf 2 k2) ++ metaBytes pat8 l2

/-- Pieces of a list. -/
def groupsOf {α : Type} (k : Nat) : Nat → List α → List (List α)
  | 0, _ => []
  | n + 1, l => l.take k :: groupsOf k n (l.drop k)

/-- A row compressed: the kept codes and the metadata bytes. -/
def compRow (f : FFmt) (pat8 : Bool) (row : List Nat) : List Nat × List Byte :=
  let k := if pat8 then 8 else 4
  let gs := groupsOf k (row.length / k) row
  let ks := gs.map (fun g => keptOf f g (k / 2))
  ((gs.zip ks).flatMap (fun p => p.2.map (fun i => p.1.getD i 0)), metaBytes pat8 ks)

end Sys2Proof.Machine
end

