-- ==== Sys2Proof/Machine/Vector.lean ====
section
/-! DEFINITION. Memory-to-memory vector, MAJ 0x20-0x24, and MCOMP of MAJ 0x34 (R173-R190, R227): operands and their checks, the pipe and its queue, and the forms. -/

namespace Sys2Proof.Machine

/-! Forms. -/

/-- What a vector form does. -/
inductive VKind
  | ew (k : EwFn)
  | red (k : RedFn) (arr msk : Bool)
  | smax (dv : Nat)
  | smaxf (dv : Nat)
  | comp (pat8 : Bool) (k rows : Nat)

/-- A vector form: its operands, which it uses, the types it takes, and the elements of D, A and B for a length. MCOMP's
metadata stands in the place of B. -/
structure VForm where
  kind : VKind
  d : WReg
  a : WReg
  b : WReg
  x : VExt
  useA : Bool
  useB : Bool
  dOk : ETy → Bool
  sOk : ETy → ETy → Bool
  bOk : ETy → ETy → Bool
  cnt : Nat → Nat × Nat × Nat
  readsD : Bool
  exact : Bool
  len : Nat

def notRaw : ETy → Bool
  | .raw => false
  | _ => true
def isFloat : ETy → Bool
  | .fl _ => true
  | _ => false
def isInteger : ETy → Bool
  | .i64 | .i32 | .np => true
  | _ => false
def isF3264 : ETy → Bool
  | .fl .f32 | .fl .f64 => true
  | _ => false
/-- The types MCOMP takes (R227). -/
def isSparse : ETy → Bool
  | .fl .f64 => false
  | .fl _ => true
  | _ => false

/-- An elementwise form (R186-R188). -/
def ewForm (k : EwFn) (o : VOps) (useB : Bool) (ok : ETy → Bool) (readsD : Bool) : VForm :=
  ⟨.ew k, o.d, o.a, o.b, o.x, true, useB, ok, fun _ t => notRaw t, fun _ t => notRaw t, fun n => (n, n, n), readsD, true, 12⟩

/-- A two-source form. -/
def ew2 (g : FFmt → RMode → Num → Num → Nat × IFl) (h : Nat → Int → Int → Int) (ok : ETy → Bool) (o : VOps) : VForm :=
  ewForm (.bin g h) o true ok false

/-- A one-source form (R187). -/
def ew1 (g : FFmt → RMode → Nat → Nat × IFl) (h : Int → Int) (ok : ETy → Bool) (o : VOps) : VForm := ewForm (.una g h) o false ok false

/-- A reduction (R189). -/
def redForm (k : RedFn) (arr msk : Bool) (useB : Bool) (o : VOps) : VForm :=
  ⟨.red k arr msk, o.d, o.a, o.b, o.x, true, useB, notRaw, fun _ t => notRaw t, fun _ t => notRaw t, fun n => (1, n, n), false, true, 12⟩

/-- No operand is overridden, broadcast or advanced (R227). -/
def noExt : VExt := ⟨none, none, false, false, false, false, false⟩

/-- The form of a vector instruction. With n = 0 VSMAX has extents of 0 bytes (R174). (DEDUCED, log 95.) -/
def vForm (i : Instr) : Option VForm :=
  match i with
  | .vmov o => some (ewForm .mov o false notRaw false)
  | .vadd o => some (ew2 fAdd vAdd notRaw o)
  | .vsub o => some (ew2 fSub vSub notRaw o)
  | .vmul o => some (ew2 fMul vMul notRaw o)
  | .vdiv o => some (ew2 fDiv vDiv notRaw o)
  | .vmin o => some (ew2 fMin vMin notRaw o)
  | .vmax o => some (ew2 fMax vMax notRaw o)
  | .vfma o => some (ewForm .fma o true notRaw true)
  | .vand o => some (ew2 noFlt2 vAnd isInteger o)
  | .vor o => some (ew2 noFlt2 vOr isInteger o)
  | .vxor o => some (ew2 noFlt2 vXor isInteger o)
  | .vshl o => some (ew2 noFlt2 vShl isInteger o)
  | .vshr o => some (ew2 noFlt2 vShr isInteger o)
  | .vsar o => some (ew2 noFlt2 vSar isInteger o)
  | .vabs o => some (ew1 (fun f _ x => (f.absBits x, 0)) (fun a => a.natAbs) notRaw o)
  | .vneg o => some (ew1 (fun f _ x => (f.negBits x, 0)) (fun a => -a) notRaw o)
  | .vsqrt o => some (ew1 (ofVal fSqrt) id isFloat o)
  | .vrcp o => some (ew1 (ofVal fRcp) id isFloat o)
  | .vrsqrt o => some (ew1 (ofVal fRsqrt) id isFloat o)
  | .vexp o => some (ew1 (ofVal fExp) id isFloat o)
  | .vlog o => some (ew1 (ofVal fLog) id isFloat o)
  | .vtanh o => some (ew1 (ofVal fTanh) id isFloat o)
  | .vsigm o => some (ew1 (ofVal fSigm) id isFloat o)
  | .vcmp c o => some (ewForm (.cmp c) o true notRaw false)
  | .vsel o => some (ewForm .sel o true notRaw true)
  | .vred arr msk o => some (redForm .sum arr msk msk o)
  | .vredmax arr msk o => some (redForm .max arr msk msk o)
  | .vredmin arr msk o => some (redForm .min arr msk msk o)
  | .vdot arr o => some (redForm .dot arr false true o)
  | .vsmax m o =>
    let dv := m.toNat + 1
    some ⟨.smax dv, o.d, o.a, o.b, o.x, true, true, isF3264, fun _ t => isFloat t, fun _ t => isFloat t, fun n => (if n = 0 then 0 else 2 + dv, n, n * dv), true, false, 12⟩
  | .vsmaxf m o =>
    let dv := m.toNat + 1
    some ⟨.smaxf dv, o.d, 0, 0, o.x, false, false, isF3264, fun _ _ => true, fun _ _ => true, fun _ => (2 + dv, 0, 0), true, false, 12⟩
  | .mcomp pat8 d a e km1 rowsM1 =>
    let k := km1.toNat + 1
    let rows := rowsM1.toNat + 1
    some ⟨.comp pat8 k rows, d, a, e, noExt, true, true, isSparse, fun td t => td == t, fun _ t => t == .raw,
          fun _ => (rows * (k / 2), rows * k, rows * (if pat8 then k / 4 else k / 8)), false, false, 16⟩
  | _ => none

/-! Operands and their checks (R173-R179). -/

/-- TRAPINFO of this chapter's faults (R178). -/
def vInfo (elem reason opnd woff : Nat) : Word := wordOf (elem % 65536 * 2 ^ 32 + reason * 2 ^ 28 + opnd * 2 ^ 26 + woff % 2 ^ 19)

/-- An operand placed: window offset, format, elements, and bytes; `bc` for a broadcast one. -/
structure VOp where
  bc : Bool
  v : Word
  off : Nat
  fmt : Word
  n : Nat
  ext : Nat
  deriving DecidableEq, Repr

/-- An operand that takes no part. -/
def VOp.unused : VOp := ⟨true, 0, 0, 0, 0, 0⟩

/-- The window offset of an address of core `c`'s own data banks (R173). -/
def ownBank (c : Nat) (v : Word) : Option Nat :=
  let b := Config.flatBase + c * Config.windowBytes
  if isHub c || v.toNat < b + 0x8000 || b + 0x5C000 ≤ v.toNat then none else some (v.toNat - b)

/-- Whether a code overrides the operand numbered `k` (R113). -/
def overOf (x : VExt) (k : Nat) : Option Seg :=
  match x.sov with
  | some (o, g) => if (match o with | .d => 0 | .a => 1 | .b => 2) = k then some g else none
  | none => none

/-- Checks 1 to 4 of R177 for operand `k` with `n` elements. -/
def placeOp (s : State) (c k : Nat) (v : Word) (bc : Bool) (ovr : Option Seg) (n : Nat) (ok : ETy → Bool) : Except (Nat × Word) VOp :=
  if bc then .ok ⟨true, v, 0, 0, n, 0⟩
  else
    let bad (cause reason : Nat) : Except (Nat × Word) VOp := .error (cause, vInfo 0 reason k v.toNat)
    match ownBank c v with
    | none => bad 0x07 1
    | some o =>
      let fmt := s.fmt c (match ovr with | some g => g.val | none => (segOf o).getD 0)
      let t := fTy fmt
      let ext := extentOf t (fWidth fmt) n
      if !ok t then bad 0x07 2
      else if v.toNat % eAlign t != 0 then bad 0x05 3
      else if 28672 < (o - 0x8000) % 28672 + ext then bad 0x05 4
      else .ok ⟨false, v, o, fmt, n, ext⟩

/-- Check 5: a source may not share a byte with the destination, unless it is exactly the destination and that is allowed
(R179, R190, R227). -/
def overlapBad (d x : VOp) (exact : Bool) : Bool :=
  !x.bc && 0 < d.ext && 0 < x.ext && x.off < d.off + d.ext && d.off < x.off + x.ext
  && !(exact && x.off == d.off && fTy x.fmt == fTy d.fmt && x.ext == d.ext)

/-- Every check of R177, in the order D, A, B. -/
def placeOps (s : State) (c : Nat) (f : VForm) (dv av bv : Word) (n : Nat) : Except (Nat × Word) (VOp × VOp × VOp) := do
  let k := f.cnt n
  let d ← placeOp s c 0 dv false (overOf f.x 0) k.1 f.dOk
  let td := fTy d.fmt
  let a ← if f.useA then placeOp s c 1 av f.x.bca (overOf f.x 1) k.2.1 (f.sOk td) else pure VOp.unused
  if overlapBad d a f.exact then throw (0x07, vInfo 0 6 1 a.off)
  let b ← if f.useB then placeOp s c 2 bv f.x.bcb (overOf f.x 2) k.2.2 (f.bOk td) else pure VOp.unused
  if overlapBad d b f.exact || (match f.kind with | .comp .. => overlapBad a b false | _ => false) then throw (0x07, vInfo 0 6 2 b.off)
  pure (d, a, b)

/-- Register advances after the last write (R176), in the order D, A, B. (DEDUCED, log 42.) -/
def advances (f : VForm) (d a b : VOp) : List (Nat × Word) :=
  (if f.x.pid then [(f.d.val, d.v + wordOf d.ext)] else [])
  ++ (if f.x.pia then [(f.a.val, a.v + wordOf a.ext)] else [])
  ++ (if f.x.pib then [(f.b.val, b.v + wordOf b.ext)] else [])

/-- Puts a command into the pipe, or into its queue (R180). -/
def vEnqueue (s : State) (c : Nat) (v : VCmd) : State :=
  let k := s.core c
  s.setCore c (if k.vrun.isNone then { k with vrun := some v } else { k with vq := some v })

/-- The issue of a vector instruction (R173-R180): while the queue is full the thread is not ready and does not issue. -/
def vIssue (i : Instr) : M Unit :=
  match vForm i with
  | none => done
  | some f => do
    let (c, sl) ← me
    let full ← ask (fun s => (s.core c).vq.isSome)
    if full then (fun _ => .error .idle) else
    let isComp := match f.kind with | .comp .. => true | _ => false
    chk ((0, f.d) :: (if f.useA then [(1, f.a)] else []) ++ (if f.useB then [(if isComp then 3 else 2, f.b)] else []))
    let dv ← rd f.d
    let av ← if f.useA then rd f.a else pure 0
    let bv ← if f.useB then rd f.b else pure 0
    let t ← th
    let n := match f.x.immvl with | some v => v.toNat | none => t.vl
    let r ← ask (fun s => placeOps s c f dv av bv n)
    match r with
    | .error (cause, info) => trap cause info
    | .ok (d, a, b) =>
      let p ← iaddr
      let rep ← ask (fun s => s.cur.rep)
      let tid ← ask (fun s => s.tid c sl)
      upd (fun s => vEnqueue s c ⟨tid, i, p, rep, n, t.rmode, dv, av, bv, d.fmt, a.fmt, b.fmt, advances f d a b, false, [], 0, none, none, false⟩)
      waitOn .vector

/-! The pipe (R180-R184). -/

/-- The operands of a command in the pipe, as its issue placed them. -/
def VCmd.ops (v : VCmd) (c : Nat) (f : VForm) : VOp × VOp × VOp :=
  let k := f.cnt v.n
  let op (w fmt : Word) (bc : Bool) (n : Nat) : VOp :=
    if bc then ⟨true, w, 0, 0, n, 0⟩ else ⟨false, w, (ownBank c w).getD 0, fmt, n, extentOf (fTy fmt) (fWidth fmt) n⟩
  (op v.dv v.fd false k.1, if f.useA then op v.av v.fa f.x.bca k.2.1 else VOp.unused, if f.useB then op v.bv v.fb f.x.bcb k.2.2 else VOp.unused)

/-- The elements of an operand; a broadcast one repeats (R175). -/
def readOp (s : State) (c : Nat) (ct : ETy) (o : VOp) : List Elem :=
  if o.bc then List.replicate o.n (bcElem ct o.v)
  else
    let m := match fTy o.fmt with | .np => fDepth o.fmt * planeBytes o.n | t => extentOf t 0 o.n
    elemsOf o.fmt o.n (bytesAt s.mem (winKey c o.off) m)

/-- Where the read of an operand first meets a poisoned line: element and line offset (R182). -/
def poisonAt (s : State) (c : Nat) (o : VOp) : Option (Nat × Nat) :=
  if o.bc || o.n = 0 then none
  else
    let m := match fTy o.fmt with | .np => fDepth o.fmt * planeBytes o.n | t => extentOf t 0 o.n
    let hits := ((List.range ((o.off % 64 + m + 63) / 64)).filter (fun i => s.poisoned (lineOf (winKey c (o.off / 64 * 64 + 64 * i))))).map (fun i =>
      let l := o.off / 64 * 64 + 64 * i
      let q := l - o.off
      (match fTy o.fmt with | .np => q % planeBytes o.n * 8 | t => q / eSize t, l))
    hits.foldl (fun best h => match best with | none => some h | some b => if h.1 < b.1 then some h else some b) none

/-- The first poison of a command: element, operand, line offset. (DEDUCED, log 45.) -/
def firstPoison (s : State) (c : Nat) (f : VForm) (d a b : VOp) : Option (Nat × Nat × Nat) :=
  let isComp := match f.kind with | .comp .. => true | _ => false
  let tag (k : Nat) (o : VOp) (on : Bool) : List (Nat × Nat × Nat) :=
    if on then (match poisonAt s c o with | some h => [(h.1, k, h.2)] | none => []) else []
  (tag 0 d f.readsD ++ tag 1 a f.useA ++ tag 2 b (f.useB && !isComp)).foldl
    (fun best h => match best with | none => some h | some x => if h.1 < x.1 then some h else some x) none

/-- The bytes that write elements `from` onward of a destination of `n` elements: for NP, the bytes of each plane that hold
the elements written (R71, R182). -/
def destWrites (s : State) (c : Nat) (d : VOp) (start : Nat) (xs : List Elem) : List (Nat × List Byte) :=
  let k := winKey c d.off
  if xs.isEmpty then []
  else
    match fTy d.fmt with
    | .np =>
      let p := planeBytes d.n
      let w := fWidth d.fmt
      let m := (xs.length + 7) / 8
      let old := elemsOf (wordOf (5 + 16 * w + 256 * w)) d.n (bytesAt s.mem k (w * p))
      let all := npPlanes w (xs ++ old.drop xs.length)
      if xs.length = d.n then all.zipIdx.map (fun q => (k + q.2 * p, leBytes p q.1))
      else all.zipIdx.map (fun q => (k + q.2 * p, leBytes m q.1))
    | t => [(k + start * eSize t, elemsBytes d.fmt xs)]

/-- What a command writes and raises, computed at its start (R181, R182, R184). (DEDUCED, log 41.) (DEDUCED, log 46.) -/
def vCompute (s : State) (c : Nat) (v : VCmd) (f : VForm) : State × VCmd :=
  let (d, a, b) := v.ops c f
  let ct := ctOf d.fmt
  let hit := firstPoison s c f d a b
  let ra := readOp s c ct a
  let rb := readOp s c ct b
  let codes (xs : List Elem) : List Nat := xs.map Elem.bits
  match f.kind with
  | .ew k =>
    let stop := match hit with | some h => h.1 | none => d.n
    let rdv := if f.readsD then readOp s c ct d else List.replicate d.n (zeroElem ct)
    let rb1 := if f.useB then rb else List.replicate d.n (zeroElem ct)
    let r := ewList k d.fmt v.rmode f.x.bca (rdv.take stop) ra rb1
    (s, { v with started := true, writes := destWrites s c d 0 r.1, flagsOut := r.2, poison := hit })
  | .red k arr msk =>
    match hit with
    | some h => (s, { v with started := true, poison := some (0, h.2) })
    | none =>
      let rb1 := if f.useB then rb else List.replicate a.n (zeroElem ct)
      let (pick, s1) := if arr then s.pick else (0, s)
      let r := redVal k arr msk pick d.fmt v.rmode ra rb1
      (s1, { v with started := true, writes := destWrites s c d 0 [r.1], flagsOut := r.2 })
  | .smax dv =>
    match hit, ct with
    | some h, _ => (s, { v with started := true, poison := some (0, h.2) })
    | none, .fl g =>
      let rec_ := codes (readOp s c ct d)
      let xs := toElems ct 0 v.rmode ra
      let ys := toElems ct 0 v.rmode rb
      let r := smaxCode g v.rmode (rec_.getD 0 0) (rec_.getD 1 0) (rec_.drop 2) (codes xs.1) (groupsOf dv a.n (codes ys.1))
      if a.n = 0 then (s, { v with started := true })
      else (s, { v with started := true, writes := destWrites s c d 0 (r.1.map (Elem.fl g)), flagsOut := xs.2 ||| ys.2 ||| r.2 })
    | none, _ => (s, { v with started := true })
  | .smaxf _ =>
    match hit, ct with
    | some h, _ => (s, { v with started := true, poison := some (0, h.2) })
    | none, .fl g =>
      let rec_ := codes (readOp s c ct d)
      let r := smaxfCode g v.rmode (rec_.getD 1 0) (rec_.drop 2)
      (s, { v with started := true, writes := destWrites s c d 2 (r.1.map (Elem.fl g)), flagsOut := r.2.1, zOut := some r.2.2 })
    | none, _ => (s, { v with started := true })
  | .comp pat8 k rows =>
    match hit, fTy a.fmt with
    | some h, _ => (s, { v with started := true, poison := some (0, h.2) })
    | none, .fl g =>
      let rs := (groupsOf k rows (codes ra)).map (compRow g pat8)
      (s, { v with started := true, writes := destWrites s c d 0 ((rs.flatMap (fun r => r.1)).map (Elem.fl g))
                                             ++ [(winKey c b.off, rs.flatMap (fun r => r.2))] })
    | none, _ => (s, { v with started := true })

/-- VECTOR_START: the pipe starts the instruction at its head (R180), which reads its operands now (R181). -/
def execVectorStart (core : Nat) (s : State) : Out :=
  match (s.core core).vrun with
  | none => .next s
  | some v =>
    if v.started then .next s
    else
      match vForm v.i with
      | none => .next s
      | some f =>
        let r := vCompute s core v f
        .next (r.1.setCore core { r.1.core core with vrun := some r.2 })

/-- PC and REPCNT after a command completes (R121, R183). -/
def VCmd.next (v : VCmd) : Word × Nat :=
  let len := match vForm v.i with | some f => f.len | none => 12
  match v.rep with
  | some (i, n) => if i + 1 < n then (v.iaddr - 8, i + 1) else (v.iaddr + wordOf len, 0)
  | none => (v.iaddr + wordOf len, 0)

/-- PC and REPCNT at which a command that stopped issues again (R183). -/
def VCmd.back (v : VCmd) : Word × Nat :=
  match v.rep with
  | some (i, _) => (v.iaddr - 8, i)
  | none => (v.iaddr, 0)

/-- TRAPINFO of a command's poison fault (R178, R182). -/
def VCmd.info (v : VCmd) : Word :=
  match v.poison with
  | some (e, k, l) => vInfo e 5 k l
  | none => 0

/-- The completion of a command of a thread in a slot (R176, R182, R190); one that was spilled since its issue has its PC already
(R183). -/
def vDoneLive (s : State) (c sl : Nat) (v : VCmd) : State :=
  match v.poison with
  | some _ =>
    takeTrap (s.modThread c sl (fun t => { t with pc := v.back.1, repcnt := v.back.2, wait := .none })) c sl 0x09 v.info
  | none =>
    let s1 := v.adv.foldl (fun s p => s.setReg c sl p.1 p.2) s
    s1.modThread c sl (fun t => { t with pc := if v.away then t.pc else v.next.1, repcnt := if v.away then t.repcnt else v.next.2, wait := .none,
                                         flags := match v.zOut with | some z => ⟨z, false, false, false⟩ | none => t.flags })

/-- Writes a word of a spilled thread's save record, if its page translates. -/
def recordWrite (s : State) (x : Spilled) (o : Nat) (v : Word) : State :=
  match recordKey s x o with
  | some k => s.setW64 k v
  | none => s

/-- The completion of a command of a spilled thread, one event in its record (R183). -/
def vDoneSpilled (s : State) (x : Spilled) (v : VCmd) : State :=
  let cb := s.frameRegs (tidCore x.tid)
  let w1 := match recordKey s x (cb + 8) with | some k => (s.w64 k).toNat | none => 0
  match v.poison with
  | some _ =>
    let s1 := recordWrite s x cb v.back.1
    let s2 := recordWrite s1 x (cb + 8) (wordOf (w1 % 2 ^ 25 + v.back.2 * 2 ^ 25 + w1 / 2 ^ 32 * 2 ^ 32))
    (recordWrite s2 x (cb + 72) 0).modSpilled x.tid (fun y => { y with vbusy := false })
  | none =>
    let s1 := v.adv.foldl (fun s p => recordWrite s x (8 * p.1) p.2) s
    let s2 := match v.zOut with
      | some z => recordWrite s1 x (cb + 8) (wordOf (w1 / 16 * 16 + 8 * bitNat z))
      | none => s1
    (recordWrite s2 x (cb + 72) 0).modSpilled x.tid (fun y => { y with vbusy := false })

/-- VECTOR_COMPLETION: the last write, register advances, and the thread's re-entry (R176, R181-R184). -/
def execVectorCompletion (core : Nat) (s : State) : Out :=
  match (s.core core).vrun with
  | none => .next s
  | some v =>
    if !v.started then .next s
    else
      let s1 := v.writes.foldl (fun s p => s.putClear p.1 p.2) s
      let k := s1.core core
      let s2 := raiseTid (s1.setCore core { k with vrun := k.vq, vq := none }) v.tid v.flagsOut
      match s2.find v.tid with
      | some (c, sl) => .next (vDoneLive s2 c sl v)
      | none =>
        match s2.spilledOf v.tid with
        | some x => .next (vDoneSpilled s2 x v)
        | none => .next s2

/-! The forms. -/

def execVmov (o : VOps) (s : State) : Out := run (vIssue (.vmov o)) s
def execVadd (o : VOps) (s : State) : Out := run (vIssue (.vadd o)) s
def execVsub (o : VOps) (s : State) : Out := run (vIssue (.vsub o)) s
def execVmul (o : VOps) (s : State) : Out := run (vIssue (.vmul o)) s
def execVdiv (o : VOps) (s : State) : Out := run (vIssue (.vdiv o)) s
def execVmin (o : VOps) (s : State) : Out := run (vIssue (.vmin o)) s
def execVmax (o : VOps) (s : State) : Out := run (vIssue (.vmax o)) s
def execVfma (o : VOps) (s : State) : Out := run (vIssue (.vfma o)) s
def execVand (o : VOps) (s : State) : Out := run (vIssue (.vand o)) s
def execVor (o : VOps) (s : State) : Out := run (vIssue (.vor o)) s
def execVxor (o : VOps) (s : State) : Out := run (vIssue (.vxor o)) s
def execVshl (o : VOps) (s : State) : Out := run (vIssue (.vshl o)) s
def execVshr (o : VOps) (s : State) : Out := run (vIssue (.vshr o)) s
def execVsar (o : VOps) (s : State) : Out := run (vIssue (.vsar o)) s
def execVabs (o : VOps) (s : State) : Out := run (vIssue (.vabs o)) s
def execVneg (o : VOps) (s : State) : Out := run (vIssue (.vneg o)) s
def execVsqrt (o : VOps) (s : State) : Out := run (vIssue (.vsqrt o)) s
def execVrcp (o : VOps) (s : State) : Out := run (vIssue (.vrcp o)) s
def execVrsqrt (o : VOps) (s : State) : Out := run (vIssue (.vrsqrt o)) s
def execVexp (o : VOps) (s : State) : Out := run (vIssue (.vexp o)) s
def execVlog (o : VOps) (s : State) : Out := run (vIssue (.vlog o)) s
def execVtanh (o : VOps) (s : State) : Out := run (vIssue (.vtanh o)) s
def execVsigm (o : VOps) (s : State) : Out := run (vIssue (.vsigm o)) s
def execVcmp (c : Cond) (o : VOps) (s : State) : Out := run (vIssue (.vcmp c o)) s
def execVsel (o : VOps) (s : State) : Out := run (vIssue (.vsel o)) s
def execVred (arr msk : Bool) (o : VOps) (s : State) : Out := run (vIssue (.vred arr msk o)) s
def execVredmax (arr msk : Bool) (o : VOps) (s : State) : Out := run (vIssue (.vredmax arr msk o)) s
def execVredmin (arr msk : Bool) (o : VOps) (s : State) : Out := run (vIssue (.vredmin arr msk o)) s
def execVdot (arr : Bool) (o : VOps) (s : State) : Out := run (vIssue (.vdot arr o)) s
def execVsmax (dvM1 : BitVec 12) (o : VOps) (s : State) : Out := run (vIssue (.vsmax dvM1 o)) s
def execVsmaxf (dvM1 : BitVec 12) (o : VOps) (s : State) : Out := run (vIssue (.vsmaxf dvM1 o)) s

/-- MCOMP (R227). -/
def execMcomp (pat8 : Bool) (d a e : WReg) (km1 : BitVec 16) (rowsM1 : BitVec 7) (s : State) : Out :=
  run (vIssue (.mcomp pat8 d a e km1 rowsM1)) s

end Sys2Proof.Machine
end

