-- ==== Sys2Proof/Machine/Copy.lean ====
section
/-! DEFINITION. Copies as programs see them, MAJ 0x30-0x32 (R191-R203): the copy control set, CLAUNCH and HALO with their checks, tags, batches and waits. -/

namespace Sys2Proof.Machine

/-! The copy control set (R191, R192). -/

def CopySet.rows (x : CopySet) : Nat := fld x.cshp 32 16
def CopySet.cols (x : CopySet) : Nat := fld x.cshp 0 24
def CopySet.sstr (x : CopySet) : Int := stride32 x.cstr 0
def CopySet.dstr (x : CopySet) : Int := stride32 x.cstr 32
def CopySet.step (x : CopySet) : Nat := fld x.ccfg 48 16
def CopySet.hw (x : CopySet) : Nat := fld x.ccfg 44 4
def CopySet.dtype (x : CopySet) : Nat := fld x.ccfg 40 4
def CopySet.stype (x : CopySet) : Nat := fld x.ccfg 36 4
def CopySet.foll (x : CopySet) : Bool := bit x.ccfg 6
def CopySet.bar (x : CopySet) : Bool := bit x.ccfg 5
def CopySet.ord (x : CopySet) : OrdScope := ⟨MemOrd.ofCode (fld x.ccfg 3 2), Scope.ofCode (fld x.ccfg 0 3)⟩

/-- Register `n` of a set (R191). -/
def CopySet.get (x : CopySet) : Nat → Word
  | 0 => x.csrc | 1 => x.cdst | 2 => x.cshp | 3 => x.cstr | 4 => x.ccfg | 5 => x.cbar | 6 => x.cfol0 | 7 => x.cfol1
  | _ => wordOf (bitNat x.arm)

/-- A set with register `n` replaced and ARM set (R191). -/
def CopySet.put (x : CopySet) (n : Nat) (v : Word) : CopySet :=
  let y := { x with arm := true }
  match n with
  | 0 => { y with csrc := v } | 1 => { y with cdst := v } | 2 => { y with cshp := v } | 3 => { y with cstr := v }
  | 4 => { y with ccfg := v } | 5 => { y with cbar := v } | 6 => { y with cfol0 := v } | _ => { y with cfol1 := v }

/-- MTC (R194). -/
def execMtc (c : Fin 8) (a : WReg) (s : State) : Out := run (do
  chk [(1, a)]
  let v ← rd a
  modSlot (fun x => { x with cset := x.cset.put c.val v })
  fin 8) s

/-- MFC (R194). -/
def execMfc (d : WReg) (c : Fin 9) (s : State) : Out := run (do
  chk [(0, d)]
  needDst d
  let (k, sl) ← me
  let v ← ask (fun s => (s.slot k sl).cset.get c.val)
  wr d v
  fin 8) s

/-! The sides of a copy and its checks (R193, R195). -/

/-- Whether both sides count as bytes (R193). -/
def rawCopy (ft fd : Word) : Bool := fTy ft == .raw || fTy fd == .raw

/-- Bytes of an element of a side. -/
def sideSize (raw : Bool) (fmt : Word) : Nat := if raw then 1 else eSize (fTy fmt)

/-- Bytes of a row of `n` elements of a side; an NP side has one row (R193). -/
def sideRow (raw : Bool) (fmt : Word) (n : Nat) : Nat := if raw then n else extentOf (fTy fmt) (fWidth fmt) n

/-- TRAPINFO of R195. -/
def cpInfo (reason code : Nat) : Word := wordOf (reason * 2 ^ 28 + code * 2 ^ 24)

/-- The formats of the sides, and where each stands if in a data bank. -/
structure Sides where
  ft : Word
  fd : Word
  src : Option (Nat × Nat)
  dst : Option (Nat × Nat)

/-- The sides of a set (R193). -/
def sidesOf (s : State) (tenant : Nat) (x : CopySet) : Sides :=
  let a := bankAt s tenant x.csrc
  let b := bankAt s tenant x.cdst
  ⟨sideFmt s a x.stype, sideFmt s b x.dtype, a, b⟩

/-- ORD 0 with SCOPE 0, or ORD with SCOPE 1 to 5 (R195). -/
def ordOk (x : CopySet) : Bool :=
  if fld x.ccfg 3 2 = 0 then fld x.ccfg 0 3 = 0 else 1 ≤ fld x.ccfg 0 3 && fld x.ccfg 0 3 ≤ 5

/-- Whether a side's type is not allowed: a code past RAW, or NP outside the data banks (R193). -/
def typeBad (bank : Option (Nat × Nat)) (code : Nat) : Bool := bank.isNone && (code = 5 || 8 < code)

/-- Checks 1 to 5 of R195: cause, REASON and the register's code, or the sides. (DEDUCED, log 47.) -/
def copyCheck (s : State) (tenant : Nat) (x : CopySet) : Except (Nat × Nat × Nat) Sides :=
  let w := sidesOf s tenant x
  let raw := rawCopy w.ft w.fd
  let np (f : Word) : Bool := fTy f == .np
  let al (f : Word) : Nat := if np f then 64 else sideSize raw f
  let seg (p : Option (Nat × Nat)) (f : Word) (st : Int) : Bool :=
    match p with
    | some (_, o) => spanInSeg o x.rows st (sideRow raw f x.cols)
    | none => true
  if fld x.cshp 48 16 != 0 || fld x.cshp 24 8 != 0 || x.rows = 0 || x.cols = 0 then .error (0x07, 1, 2)
  else if fld x.ccfg 7 29 != 0 || x.hw != 0 || !ordOk x then .error (0x07, 1, 4)
  else if typeBad w.src x.stype || typeBad w.dst x.dtype then .error (0x07, 2, 4)
  else if np w.ft && x.rows != 1 then .error (0x07, 2, 0)
  else if np w.fd && x.rows != 1 then .error (0x07, 2, 1)
  else if x.csrc.toNat % al w.ft != 0 then .error (0x05, 3, 0)
  else if x.cdst.toNat % al w.fd != 0 then .error (0x05, 3, 1)
  else if (!np w.ft && fld x.cstr 0 32 % sideSize raw w.ft != 0) || (!np w.fd && fld x.cstr 32 32 % sideSize raw w.fd != 0) then .error (0x05, 3, 3)
  else if x.bar && x.cbar.toNat % 32 != 0 then .error (0x05, 3, 5)
  else if !seg w.src w.ft x.sstr then .error (0x05, 4, 0)
  else if !seg w.dst w.fd x.dstr then .error (0x05, 4, 1)
  else if 1 < x.rows && x.dstr.natAbs < x.cols * sideSize raw w.fd then .error (0x07, 1, 3)
  else .ok w

/-! Tags (R195-R197). -/

/-- The lowest free tag of a core, if a thread holds fewer than 32 (R195). -/
def freeTag (s : State) (c : Nat) (tid : Word) : Option Nat :=
  let ts := (s.core c).tags
  if 32 ≤ (ts.filter (fun p => p.2.owner == some tid)).length then none
  else (List.range 64).find? (fun t => (tget TagSt.reset ts t).owner.isNone)

/-- A tag of a core. -/
def State.tag (s : State) (c t : Nat) : TagSt := tget TagSt.reset (s.core c).tags t

/-- Replaces a tag. -/
def State.setTag (s : State) (c t : Nat) (x : TagSt) : State :=
  s.setCore c { s.core c with tags := tset TagSt.reset (s.core c).tags t x }

/-- A thread takes a tag (R195): the state and the tag's generation. -/
def takeTag (s : State) (c t : Nat) (tid : Word) (batch : Nat) : State × Nat :=
  let g := ((s.tag c t).gen + 1) % 65536
  (s.setTag c t ⟨g, some tid, false, false, false, batch % 65536, false, 0, false, false, 0⟩, g)

/-- The engine of a cluster with the fewest queued copies, the lowest winning ties (R26). A copy counts until it has landed, whether it
waits, runs, is paused or is a HALO before its phase. (DESIGN CHOICE, log 105.) -/
def leastEngine (s : State) (n : Nat) : Nat :=
  let load (e : Nat) : Nat := (s.eng.copies.filter (fun k => cluOf k.core == n && k.engine == e)).length
  (List.range 4).foldl (fun b e => if load e < load b then e else b) 0

/-- A copy joins the queue of an engine of its cluster (R26). -/
def enqueueCopy (s : State) (k : Copy) : State :=
  { s with eng := { s.eng with copies := s.eng.copies ++ [{ k with id := s.eng.nextId, engine := leastEngine s (cluOf k.core) }], nextId := s.eng.nextId + 1 } }

/-- The issuing thread's open batch gains a copy (R200). -/
def joinBatch (tag gen : Nat) : M Unit := modTh (fun t => { t with openBatch := t.openBatch ++ [64 * gen + tag] })

/-! CLAUNCH (R195) and its follow-on (R202). -/

/-- The code of the register that holds bit `b` of a follow-on (R192, R195). -/
def folCode (b : Nat) : Nat := if b < 64 then 6 else 7

/-- The follow-on that a set holds, checked as R202 states, for a CLAUNCH whose D field is `d`; or the code of the register with what
is wrong. -/
def followOf (kernel hub : Bool) (nregs : Nat) (x : CopySet) (d : WReg) : Except Nat (Instr × MmaOp) :=
  match decode ⟨kernel, hub, false⟩ (x.cfol0.toNat + x.cfol1.toNat * 2 ^ 64) with
  | .ok i _ =>
    match mmaOf i with
    | some m =>
      match outOfPart nregs m.fields with
      | some f => .error (folCode (if f.1 < 3 then 0 else 64))
      | none => if m.o.d = d then .error 6 else .ok (i, m)
    | none => .error 6
  | .bad _ b => .error (folCode b)

/-- Captures a follow-on (R202): its operands are read, and its future is placed with source kind 7. -/
def captureFollow (i : Instr) (m : MmaOp) : M ArrCmd := do
  let (c, sl) ← me
  let av ← rd m.o.a
  let bv ← rd m.o.b
  let ev ← rd m.o.e
  let fv ← (if m.useF then rd m.o.f else pure 0)
  needDst m.o.d
  let p ← th
  let tid ← ask (fun s => s.tid c sl)
  let h ← newFuture 7 m.o.d
  pure ⟨i, c, sl, tid, h, fld h 25 16, p.rmode, p.kernel, av, bv, ev, fv, 0, 0, true⟩

/-- A copy of a set before it is queued. -/
def newCopy (c : Nat) (tag : Option Nat) (gen : Nat) (tid : Word) (tenant : Nat) (kernel : Bool) (rmode : RMode) (x : CopySet) (ft fd : Word) : Copy :=
  ⟨0, c, tag, gen, tid, tenant, kernel, rmode, x, ft, fd, 0, false, 0, 0, [], [], [], none, none, none, none, false⟩

/-- CLAUNCH (R195). -/
def execClaunch (d : WReg) (s : State) : Out := run (do
  let (c, sl) ← me
  chk [(0, d)]
  needDst d
  let p ← th
  let x ← ask (fun s => (s.slot c sl).cset)
  if !x.arm then do
    wr d 1
    fin 8
  else
    let tenant ← ask (fun s => s.tenantOf c)
    let n ← ask (fun s => s.nregs c)
    let r ← ask (fun s => copyCheck s tenant x)
    match r with
    | .error (cause, reason, code) => trap cause (cpInfo reason code)
    | .ok w =>
      let fol ← (if x.foll then
          (match followOf p.kernel (isHub c) n x d with
            | .ok f => pure (some f)
            | .error code => trap 0x07 (cpInfo 5 code))
        else pure none)
      let tid ← ask (fun s => s.tid c sl)
      let free ← ask (fun s => freeTag s c tid)
      match free with
      | none => do
        wr d 2
        fin 8
      | some t =>
        let f ← (match fol with
          | some (i, m) => do
            let a ← captureFollow i m
            pure (some a)
          | none => pure none)
        let g ← step1 (fun s => let r := takeTag s c t tid p.bn; (r.2, r.1))
        cmdFence x.ord
        joinBatch t g
        let md := if w.dst.isSome then fRm w.fd else p.rmode
        upd (fun s => enqueueCopy s { newCopy c (some t) g tid tenant p.kernel md x w.ft w.fd with follow := f })
        wr d (xferId c g p.bn t)
        fin 8) s

/-! HALO (R203). -/

/-- The checks of HALO's set: cause, REASON and the register's code, or the tile's format. (DEDUCED, log 48.) -/
def haloCheck (s : State) (c : Nat) (x : CopySet) : Except (Nat × Nat × Nat) Word :=
  match ownBank c x.cdst with
  | none => .error (0x07, 1, 1)
  | some o =>
    let fd := s.fmt c ((segOf o).getD 0)
    let e := eSize (fTy fd)
    let start : Int := (o : Int) - x.hw * x.dstr - x.hw * e
    if fld x.cshp 48 16 != 0 || fld x.cshp 24 8 != 0 || x.rows = 0 || x.cols = 0 then .error (0x07, 1, 2)
    else if x.csrc != 0 then .error (0x07, 1, 0)
    else if fld x.cstr 0 32 != 0 then .error (0x07, 1, 3)
    else if fld x.ccfg 7 29 != 0 || x.hw = 0 || fld x.ccfg 0 7 != 0 then .error (0x07, 1, 4)
    else if fTy fd == .np then .error (0x07, 2, 1)
    else if x.cdst.toNat % e != 0 then .error (0x05, 3, 1)
    else if fld x.cstr 32 32 % e != 0 then .error (0x05, 3, 3)
    else if start < 0 || (segOf start.toNat).isNone || segOf start.toNat != segOf o
            || !spanInSeg start.toNat (x.rows + 2 * x.hw) x.dstr ((x.cols + 2 * x.hw) * e) then .error (0x05, 4, 1)
    else if 1 < x.rows && x.dstr.natAbs < x.cols * e then .error (0x07, 1, 3)
    else .ok fd

/-- HALO (R203): the set's checks, then the arrival of BARR.REL.CLU with its own, then a tag as CLAUNCH takes one; R203 does not place the
set's checks (DESIGN CHOICE, log 129). -/
def execHalo (d a b : WReg) (gxM1 gyM1 : BitVec 4) (wrap : Bool) (s : State) : Out := run (do
  let (c, sl) ← me
  chk [(0, d), (1, a), (2, b)]
  let ea ← rd a
  let q ← rd b
  needDst d
  let p ← th
  let gx := gxM1.toNat + 1
  let gy := gyM1.toNat + 1
  if 16 < gx * gy then outOfRange 78 else pure ()
  need (c % 16 < gx * gy) 0x07 (cpInfo 1 0)
  let x ← ask (fun s => (s.slot c sl).cset)
  let r ← ask (fun s => haloCheck s c x)
  match x.arm, r with
  | true, .error (cause, reason, code) => trap cause (cpInfo reason code)
  | arm, r =>
    let ph := q.toNat % 65536
    let (k, _) ← barArrive ea ph 0 ⟨.rel, .clu⟩
    let tid ← ask (fun s => s.tid c sl)
    let free ← ask (fun s => freeTag s c tid)
    match arm, free, r with
    | true, some t, .ok fd => do
      let tenant ← ask (fun s => s.tenantOf c)
      let g ← step1 (fun s => let r := takeTag s c t tid p.bn; (r.2, r.1))
      joinBatch t g
      upd (fun s => enqueueCopy s { newCopy c (some t) g tid tenant p.kernel p.rmode x fd fd with halo := some (gx, gy, wrap, k, ph, x.hw) })
      wr d (xferId c g p.bn t)
      finWait 16 .reply
    | true, _, _ => do
      wr d 2
      finWait 16 .reply
    | false, _, _ => do
      wr d 1
      finWait 16 .reply) s

/-! Status and waits (R199, R200, R204). -/

/-- CSTAT's word for a transfer identifier on a core (R204). -/
def copyStatus (s : State) (c : Nat) (v : Word) : Word :=
  let t := s.tag c (fld v 0 6)
  if fld v 60 4 != 0xB || tidCore v != c || fld v 32 16 != t.gen then wordOf (15 * 2 ^ 60)
  else
    let st := if t.lnd then (if t.ended then 3 else 2) else if t.rel then 1 else 0
    wordOf (st * 2 ^ 60 + t.cause * 2 ^ 52 + bitNat t.barf * 2 ^ 51 + bitNat t.folf * 2 ^ 50 + t.prog % 2 ^ 48)

/-- CSTAT (R204). -/
def execCstat (d a : WReg) (s : State) : Out := run (do
  chk [(0, d), (1, a)]
  let v ← rd a
  needDst d
  let (c, _) ← me
  let r ← ask (fun s => copyStatus s c v)
  wr d r
  fin 8) s

/-- Tags that a thread holds, are landed and are named by a mask, become free (R197, R199). -/
def reportTags (s : State) (c : Nat) (tid : Word) (m : Word) : State :=
  (List.range 64).foldl (fun s t =>
    let x := s.tag c t
    if bit m t && x.owner == some tid && x.lnd then s.setTag c t x.freed else s) s

/-- The map a tag wait looks at: TAGREL for a `.SRC` form, else TAGLND (R199). -/
def tagWord (src : Bool) (s : State) (c : Nat) : Word := tagBits (s.core c) (if src then TagSt.rel else TagSt.lnd)

/-- Ends a tag form with the tags it reports and its result. -/
def tagDone (src : Bool) (d : WReg) (m v : Word) : M Unit := do
  let (c, sl) ← me
  if src then pure () else upd (fun s => reportTags s c (s.tid c sl) m)
  wr d v
  fin 8

/-- TWAITANY and TWAITALL (R199). -/
def twait (all src : Bool) (d a : WReg) : M Unit := do
  chk [(0, d), (1, a)]
  let m ← rd a
  needDst d
  let (c, _) ← me
  let x ← ask (fun s => tagWord src s c)
  let r := m &&& x
  if (if all then r == m else r != 0 || m == 0) then tagDone src d r r else waitOn .tags

/-- TFFR (R199). -/
def tffr (src : Bool) (d a : WReg) : M Unit := do
  chk [(0, d), (1, a)]
  let m ← rd a
  needDst d
  let (c, _) ← me
  let x ← ask (fun s => tagWord src s c)
  match (List.range 64).find? (fun t => bit (m &&& x) t) with
  | some t => tagDone src d (wordOf (2 ^ t)) (wordOf t)
  | none => tagDone src d 0 64

def execTwaitany (d a : WReg) (s : State) : Out := run (twait false false d a) s
def execTwaitall (d a : WReg) (s : State) : Out := run (twait true false d a) s
def execTffr (d a : WReg) (s : State) : Out := run (tffr false d a) s
def execTwaitanySrc (d a : WReg) (s : State) : Out := run (twait false true d a) s
def execTwaitallSrc (d a : WReg) (s : State) : Out := run (twait true true d a) s
def execTffrSrc (d a : WReg) (s : State) : Out := run (tffr true d a) s

/-- Whether a copy of a batch, named by generation and tag, has landed, or been released (R200). -/
def copyOver (src : Bool) (s : State) (c e : Nat) : Bool :=
  let t := s.tag c (e % 64)
  t.gen != e / 64 || (if src then t.rel else t.lnd)

/-- Whether a batch is landed, or released. -/
def batchOver (src : Bool) (s : State) (c : Nat) (b : List Nat) : Bool := b.all (copyOver src s c)

/-- CSEAL (R200). -/
def execCseal (s : State) : Out := run (do
  let (c, _) ← me
  let t ← th
  if t.openBatch.isEmpty then fin 8
  else
    let n ← ask (fun s => (t.sealed.filter (fun b => !batchOver false s c b)).length)
    if 16 ≤ n then waitOn .tags
    else do
      modTh (fun t => { t with sealed := t.sealed ++ [t.openBatch], openBatch := [], bn := t.bn + 1 })
      fin 8) s

/-- The mask of a batch's tags whose copy is still the one it names. -/
def batchMask (s : State) (c : Nat) (b : List Nat) : Word :=
  wordOf ((b.filter (fun e => (s.tag c (e % 64)).gen == e / 64)).foldl (fun m e => setBitN m (e % 64)) 0)

/-- CWAITN (R200): on return it reports the copies of the sealed batches that are landed. -/
def execCwaitn (n : BitVec 4) (s : State) : Out := run (do
  let (c, sl) ← me
  let t ← th
  let left ← ask (fun s => t.sealed.filter (fun b => !batchOver false s c b))
  if n.toNat < left.length then waitOn .tags
  else do
    let m ← ask (fun s => (t.sealed.filter (batchOver false s c)).foldl (fun m b => m ||| batchMask s c b) 0)
    upd (fun s => reportTags s c (s.tid c sl) m)
    modTh (fun t => { t with sealed := left })
    fin 8) s

/-- CWAITN.SRC (R200). -/
def execCwaitnSrc (n : BitVec 4) (s : State) : Out := run (do
  let (c, _) ← me
  let t ← th
  let left ← ask (fun s => (t.sealed.filter (fun b => !batchOver true s c b)).length)
  if n.toNat < left then waitOn .tags else fin 8) s

end Sys2Proof.Machine
end

