-- ==== Sys2Proof/Machine/CopyRun.lean ====
section
/-! DEFINITION. What copy engines do (R26, R193, R198, R201-R206): reading and converting, writing a prefix in row-major order, released and landed, barrier arrivals, follow-ons, and the halo exchange. -/

namespace Sys2Proof.Machine

/-- The slot a copy's records name. -/
def Copy.slot (k : Copy) : Nat := tidSlot k.tid

/-- On whose behalf a copy's engine acts: a packet's copy for no slot. -/
def Copy.ctx (k : Copy) : EngCtx := ⟨k.tenant, k.kernel, k.core, if k.packet.isSome then 16 else k.slot, false⟩

def Copy.raw (k : Copy) : Bool := rawCopy k.ft k.fd
def Copy.srcSize (k : Copy) : Nat := sideSize k.raw k.ft
def Copy.dstSize (k : Copy) : Nat := sideSize k.raw k.fd
/-- Whether a side moves in NP blocks. -/
def Copy.srcNp (k : Copy) : Bool := !k.raw && fTy k.ft == .np
def Copy.dstNp (k : Copy) : Bool := !k.raw && fTy k.fd == .np
/-- Whether both sides are NP of one format, whose every plane then moves (R64). -/
def Copy.sameNp (k : Copy) : Bool :=
  k.srcNp && k.dstNp && fWidth k.ft == fWidth k.fd && fDepth k.ft == fDepth k.fd && fCtr k.ft == fCtr k.fd
/-- The format by which the source is read: of a copy that is no conversion, at full depth. -/
def Copy.rf (k : Copy) : Word := if k.sameNp then wordOf (0x5 + 0x110 * fWidth k.ft) else k.ft
/-- Whether elements move unchanged (R64, R69, R193). -/
def Copy.plain (k : Copy) : Bool := k.raw || k.sameNp || (fTy k.ft == fTy k.fd && !k.srcNp)
/-- Elements of a copy. -/
def Copy.total (k : Copy) : Nat := k.cset.rows * k.cset.cols
/-- Destination bytes written when `p` elements are (R201, R204). -/
def Copy.bytesDone (k : Copy) (p : Nat) : Nat :=
  if k.dstNp then (if p = k.total then extentOf .np (fWidth k.fd) p else 64 * fWidth k.fd * (p / 512)) else p * k.dstSize

/-- Replaces a copy. -/
def setCopy (s : State) (k : Copy) : State := modCopy s k.id (fun _ => k)

/-! Reading and converting. -/

/-- Elements of the source in their bytes, RAW ones as bytes. -/
def Copy.srcElems (k : Copy) (n : Nat) (bs : List Byte) : List Elem :=
  if k.raw then bs.map (fun b => .int b.toNat) else elemsOf k.rf n bs

/-- An element as the destination takes it. -/
def Copy.conv (k : Copy) (x : Elem) : Elem × IFl :=
  if k.plain then (x, 0) else toElem (fTy k.fd) (fWidth k.fd) k.rmode x

/-- Elements as the destination takes them. -/
def Copy.convs (k : Copy) (xs : List Elem) : List Elem × IFl :=
  let rs := xs.map k.conv
  (rs.map (fun r => r.1), rs.foldl (fun g r => g ||| r.2) 0)

/-- The destination's bytes of elements of one row. -/
def Copy.rowBytes (k : Copy) (xs : List Elem) : List Byte := xs.flatMap (fun x => leBytes k.dstSize (x.code k.dstSize))

/-- Bytes already written by the copy, over what memory holds at a location (R205). -/
def overlayWrites (k : Nat) (bs : List Byte) : List (Nat × List Byte) → List Byte
  | [] => bs
  | (j, l) :: ws =>
    overlayWrites k (bs.zipIdx.map (fun p => let a := k + p.2; if j ≤ a && a < j + l.length then l.getD (a - j) p.1 else p.1)) ws

/-- What the reads of a copy give: the writes to perform, as address and bytes, in order; elements covered; the failure; flags. -/
structure CopyRead where
  out : List (Nat × List Byte)
  count : Nat
  fail : Option (Nat × Word)
  fl : IFl

/-- Elements of one row with the choice R205 leaves when the copy has written some of their bytes: element by element, the
value before or the value the copy wrote; `ws` are its writes by location. -/
def overlapRow (k : Copy) : Nat → List (Nat × List Byte) → List (Nat × Nat) → List (Nat × Nat) → State → List Elem × IFl × List (Nat × List Byte) × State
  | 0, ws, _, _, s => ([], 0, ws, s)
  | n + 1, ws, src, dst, s =>
    match src with
    | [] => ([], 0, ws, s)
    | (a, m) :: rest =>
      let e := k.srcSize
      let src1 := if m ≤ e then rest else (a + e, m - e) :: rest
      let old := bytesAt s.mem a e
      let new := overlayWrites a old ws
      let (pick, s1) := if old = new then (0, s) else s.pick
      let x := k.conv ((k.srcElems 1 (if pick % 2 = 0 then old else new)).headD (.int 0))
      let (ws1, dst1) := match dst with
        | [] => (ws, [])
        | (b, l) :: more => (ws ++ [(b, k.rowBytes [x.1])], if l ≤ k.dstSize then more else (b + k.dstSize, l - k.dstSize) :: more)
      let t := overlapRow k n ws1 src1 dst1 s1
      (x.1 :: t.1, x.2 ||| t.2.1, t.2.2.1, t.2.2.2)

/-- Row `r` from column `c0`: what can be read of it. -/
def copyRow (s : State) (k : Copy) (lap : Bool) (ws : List (Nat × List Byte)) (r c0 : Nat) : CopyRead × List (Nat × List Byte) × State :=
  let x := k.cset
  let n := x.cols - c0
  let sa := x.csrc + BitVec.ofInt 64 (x.sstr * r) + wordOf (c0 * k.srcSize)
  let da := x.cdst + BitVec.ofInt 64 (x.dstr * r) + wordOf (c0 * k.dstSize)
  let p := readUpto s k.ctx sa (n * k.srcSize)
  let m := piecesLen p.1 / k.srcSize
  let (el, fl, ws1, s1) :=
    if lap then overlapRow k m ws p.1 (piecesUpto s k.ctx .write (pieceFuel (n * k.dstSize)) da (n * k.dstSize)).1 s
    else (let c := k.convs (k.srcElems m (piecesBytes s p.1)); (c.1, c.2, ws, s))
  (⟨if el.isEmpty then [] else [(da.toNat, k.rowBytes el)], m, p.2, fl⟩, ws1, s1)

/-- Rows from row `r`, column `c0`, until the end or a failure. -/
def copyRows (k : Copy) (lap : Bool) : Nat → Nat → Nat → List (Nat × List Byte) → State → CopyRead × State
  | 0, _, _, _, s => (⟨[], 0, none, 0⟩, s)
  | n + 1, r, c0, ws, s =>
    let (a, ws1, s1) := copyRow s k lap ws r c0
    match a.fail with
    | some _ => (a, s1)
    | none =>
      let (b, s2) := copyRows k lap n (r + 1) 0 ws1 s1
      (⟨a.out ++ b.out, a.count + b.count, b.fail, a.fl ||| b.fl⟩, s2)

/-- Bytes read of each of some addresses, until the first failure. -/
def readLines (s : State) (x : EngCtx) : List (Word × Nat) → List (Nat × Nat) × Option (Nat × Word)
  | [] => ([], none)
  | (a, n) :: l =>
    let p := readUpto s x a n
    match p.2 with
    | some e => (p.1, some e)
    | none => let t := readLines s x l; (p.1 ++ t.1, t.2)

/-- Blocks of 512 elements from block `b`, the first `skip` elements of which are written already (R204). -/
def copyBlocks (k : Copy) (lap : Bool) : Nat → Nat → Nat → List (Nat × List Byte) → State → CopyRead × State
  | 0, _, _, _, s => (⟨[], 0, none, 0⟩, s)
  | n + 1, b, skip, ws, s =>
    let x := k.cset
    let m := min 512 (x.cols - 512 * b)
    let pl := planeBytes x.cols
    let src : List (Word × Nat) :=
      if k.srcNp then (List.range (fDepth k.rf)).map (fun j => (x.csrc + wordOf (j * pl + 64 * b), 64))
      else [(x.csrc + wordOf (512 * b * k.srcSize), m * k.srcSize)]
    let r := readLines s k.ctx src
    match r.2 with
    | some e => (⟨[], 0, some e, 0⟩, s)
    | none =>
      let old := piecesBytes s r.1
      let new := if lap then r.1.flatMap (fun p => overlayWrites p.1 (bytesAt s.mem p.1 p.2) ws) else old
      let eo := k.srcElems m old
      let (es, s1) := if old = new then (eo, s) else
        (eo.zip (k.srcElems m new)).foldl (fun (t : List Elem × State) p =>
          if p.1 = p.2 then (t.1 ++ [p.1], t.2) else (let q := t.2.pick; (t.1 ++ [if q.1 % 2 = 0 then p.1 else p.2], q.2))) ([], s)
      let c := k.convs (es.drop skip)
      let out : List (Nat × List Byte) :=
        if k.dstNp then (npPlanes (fWidth k.fd) c.1).zipIdx.map (fun p => ((x.cdst + wordOf (p.2 * pl + 64 * b)).toNat, leBytes 64 p.1))
        else [((x.cdst + wordOf ((512 * b + skip) * k.dstSize)).toNat, k.rowBytes c.1)]
      let keys := if lap then out.filterMap (fun p => match resolveFrom s k.ctx .write (wordOf p.1) with | .ok j => some (j, p.2) | .error _ => none) else []
      let (t, s2) := copyBlocks k lap n (b + 1) 0 (ws ++ keys) s1
      (⟨out ++ t.out, m - skip + t.count, t.fail, c.2 ||| t.fl⟩, s2)

/-- Whether a copy's source and destination share a byte. -/
def copyOverlaps (s : State) (k : Copy) : Bool :=
  let x := k.cset
  let side (a : Word) (st : Int) (acc : Acc) (n : Nat) : List (Nat × Nat) :=
    (List.range x.rows).flatMap (fun (r : Nat) => (piecesUpto s k.ctx acc (pieceFuel n) (a + BitVec.ofInt 64 (st * (r : Int))) n).1)
  let src := side x.csrc x.sstr .read (sideRow k.raw k.ft x.cols)
  let dst := side x.cdst x.dstr .write (sideRow k.raw k.fd x.cols)
  src.any (fun p => dst.any (fun q => p.1 < q.1 + q.2 && q.1 < p.1 + p.2))

/-- Reads a copy from PROG on. -/
def copyRead (s : State) (k : Copy) : CopyRead × State :=
  let lap := copyOverlaps s k
  if k.srcNp || k.dstNp then copyBlocks k lap ((k.cset.cols + 511) / 512 - k.prog / 512) (k.prog / 512) (k.prog % 512) [] s
  else copyRows k lap (k.cset.rows - k.prog / k.cset.cols) (k.prog / k.cset.cols) (k.prog % k.cset.cols) [] s

/-! Writing. -/

/-- The copy of a number. -/
def State.copy (s : State) (id : Nat) : Option Copy := s.eng.copies.find? (fun c => c.id == id)

/-- Whether of two copies the first stands in a granule of 32 B that both write: open, and one order of all copies for the granule (R205).
(DESIGN CHOICE, log 6.) -/
def prevails (g id other : Nat) : Bool :=
  let a := Config.granuleRank g id
  let b := Config.granuleRank g other
  b < a || (a = b && other < id)

/-- One write of a copy's piece within a granule of 32 B: the bytes of copies that prevail there stand (R205). -/
def racePut (s : State) (id : Nat) (raced : List (Nat × Nat × Nat)) (k : Nat) (bs : List Byte) : State :=
  let above := raced.filter (fun r => r.2.1 < k + bs.length && k < r.2.1 + r.2.2 && !prevails (k / 32) id r.1)
  let keep (a : Nat) : Bool := !above.any (fun r => r.2.1 ≤ a && a < r.2.1 + r.2.2)
  engPut s k (bs.zipIdx.map (fun p => if keep (k + p.2) then p.1 else byteAt s.mem (k + p.2)))

/-- A piece granule by granule. -/
def granules (s : State) (id : Nat) (raced : List (Nat × Nat × Nat)) : Nat → Nat → List Byte → State
  | 0, _, _ => s
  | n + 1, k, bs =>
    if bs.isEmpty then s
    else
      let m := 32 - k % 32
      granules (racePut s id raced k (bs.take m)) id raced n (k + m) (bs.drop m)

/-- A piece of a copy's write; other copies in flight note it. -/
def copyPut (s : State) (k : Copy) (key : Nat) (bs : List Byte) : State :=
  let on := ((s.copy k.id).getD k).raced.filter (fun r => r.2.1 < key + bs.length && key < r.2.1 + r.2.2)
  let s1 := if on.isEmpty then engPut s key bs else granules s k.id on (bs.length / 32 + 2) key bs
  { s1 with eng := { s1.eng with copies := s1.eng.copies.map (fun c =>
      if c.id == k.id then { c with wrote := c.wrote ++ [(key, bs.length)] } else { c with raced := c.raced ++ [(k.id, key, bs.length)] }) } }

/-- Writes pieces of one row. -/
def copyPieces (s : State) (k : Copy) : List (Nat × Nat) → List Byte → State
  | [], _ => s
  | (a, n) :: l, bs => copyPieces (copyPut s k a (bs.take n)) k l (bs.drop n)

/-- Performs writes until the first failure: the state, PROG, the writes left, and the failure (R204). -/
def copyWrites (k : Copy) : Nat → State → Nat → List (Nat × List Byte) → State × Nat × List (Nat × List Byte) × Option (Nat × Word)
  | 0, s, p, l => (s, p, l, none)
  | n + 1, s, p, l =>
    match l with
    | [] => (s, p, [], none)
    | (a, bs) :: rest =>
      if k.dstNp then
        let w := fWidth k.fd
        let blk := l.take w
        let rs := blk.map (fun q => (resolveFrom s k.ctx .write (wordOf q.1), q))
        match rs.find? (fun r => match r.1 with | .error _ => true | .ok _ => false) with
        | some (.error e, q) => (s, p, l, some (e.1, wordOf q.1))
        | _ =>
          let s1 := rs.foldl (fun s r => match r.1 with | .ok j => copyPut s k j r.2.2 | .error _ => s) s
          copyWrites k n s1 (min k.cset.cols (512 * (p / 512 + 1))) (l.drop w)
      else
        let q := piecesUpto s k.ctx .write (pieceFuel bs.length) (wordOf a) bs.length
        let m := piecesLen q.1 / k.dstSize
        let s1 := copyPieces s k q.1 (bs.take (m * k.dstSize))
        match q.2 with
        | some e => (s1, p + m, (a + m * k.dstSize, bs.drop (m * k.dstSize)) :: rest, some e)
        | none => copyWrites k n s1 (p + m) rest

/-- Whether a write of a copy reaches a pending register word, for whose completion it waits (R41). -/
def copyStuck (s : State) (k : Copy) (l : List (Nat × List Byte)) : Bool :=
  l.any (fun q => piecesWait s (piecesUpto s k.ctx .write (pieceFuel q.2.length) (wordOf q.1) q.2.length).1)

/-! Ends. -/

/-- The work of a packet has met a fault: its signal is not written, and its queue halts with ERR 3 at its next boundary (R320). -/
def failPkt (s : State) (id cause : Nat) : State :=
  match s.tr.pkts.find? (fun p => p.id == id) with
  | none => s
  | some p =>
    let s1 := { s with tr := { s.tr with pkts := s.tr.pkts.map (fun x => if x.id == id then { x with ready := true, dead := true } else x) } }
    haltAtBoundary s1 p.q cause

/-- The arrival of a landed copy at its barrier record: whether it failed or broke it (R201). -/
def copyArrive (s : State) (k : Copy) : State × Bool :=
  match resolveFrom s k.ctx .rmw k.cset.cbar with
  | .ok j => let r := engineArrive s j (k.bytesDone k.prog); (r.1, !r.2)
  | .error _ => (s, true)

/-- Clears the poison of every line that pieces cover whole: a copy's landing is one write (R153, R338). -/
def clearCovered (s : State) (l : List (Nat × Nat)) : State :=
  { s with poison := s.poison.filter (fun x => !(List.range 64).all (fun i => l.any (fun p => p.1 ≤ 64 * x + i && 64 * x + i < p.1 + p.2))) }

/-- The landed event, or the end by a fault with its cause and address: both events, the arrival, the follow-on and the
records (R198, R201, R202, R204-R206). (DEDUCED, log 49.) -/
def landCopy (s : State) (k : Copy) (fault : Option (Nat × Word)) : State :=
  let id := k.xfer s
  let n := cluOf k.core
  let bad := fault.isSome
  let s0 := clearCovered s k.wrote
  let (s1, barf) := if k.cset.bar then copyArrive s0 k else (s0, false)
  let (s2, folf) := match k.follow with
    | some a =>
      (match fault with
        | some (cause, _) => (pushDone (engFault s1 a.core a.slot a.tid cause 2 a.h 0) a.h (wordOf (4 * 2 ^ 60)), true)
        | none => (issueFollow s1 a, false))
    | none => (s1, false)
  let s3 := s2.trace n 0x05 k.core k.slot 0 (bitNat bad) id (wordOf k.prog)
  let s4 := if k.cset.step = 0 then s3 else s3.trace n 0x08 k.core k.slot k.cset.step (bitNat bad) id (wordOf (k.bytesDone k.prog))
  let s5 := match k.tag with
    | some t =>
      let x := s4.tag k.core t
      let y := { x with rel := true, lnd := true, ended := bad, cause := (match fault with | some f => f.1 | none => 0), barf := barf, folf := folf, prog := k.prog }
      s4.setTag k.core t (if x.orphan then y.freed else y)
    | none => s4
  let s6 := { s5 with eng := { s5.eng with copies := s5.eng.copies.filter (fun c => c.id != k.id) } }
  let s7 := match fault with | some (cause, va) => engFault s6 k.core k.slot k.tid cause 1 id va | none => s6
  match k.packet, fault with
  | some p, some (cause, _) => failPkt s7 p cause
  | some p, none => readyPkt s7 p
  | none, _ => s7

/-- A copy pauses for a page fault (R204): its walk is queued. -/
def pauseCopy (s : State) (k : Copy) (acc : Acc) (va : Word) : State :=
  queueWalk (setCopy s { k with paused := true }) ⟨k.tenant, va, k.kernel, acc.code, k.core, k.slot, .copy k.id⟩

/-- The rows of a side that its engine reads or writes: address and bytes. -/
def Copy.runs (k : Copy) (src : Bool) : List (Word × Nat) :=
  let x := k.cset
  (List.range x.rows).map (fun (r : Nat) =>
    if src then (x.csrc + BitVec.ofInt 64 (x.sstr * r), sideRow k.raw k.rf x.cols) else (x.cdst + BitVec.ofInt 64 (x.dstr * r), sideRow k.raw k.fd x.cols))

/-- Sets PROG in a copy's tag (R204). -/
def tagProg (s : State) (k : Copy) : State :=
  match k.tag with
  | some t => s.setTag k.core t { s.tag k.core t with prog := k.prog }
  | none => s

/-- Performs a copy's writes and goes on as they end: paused, ended by a fault, or as `ok` says (R204). A page fault of a write leaves
the copy in stage `again`. -/
def copyStep (s : State) (k : Copy) (again : Nat) (l : List (Nat × List Byte)) (after : Option (Nat × Word)) (acc : Acc) (ok : State → Copy → State) : State :=
  let (s1, p, left, e) := copyWrites k (l.length + 1) s k.prog l
  let k0 := (s1.eng.copies.find? (fun c => c.id == k.id)).getD k
  let k1 := { k0 with prog := p, data := left, stage := k.stage }
  let s2 := tagProg (setCopy s1 k1) k1
  match e with
  | some (cause, va) => if cause = 0x06 then pauseCopy s2 { k1 with stage := again } .write va else landCopy s2 k1 (some (cause, va))
  | none =>
    match after with
    | some (cause, va) => if cause = 0x06 then pauseCopy s2 { k1 with stage := 3 } acc va else landCopy s2 k1 (some (cause, va))
    | none => ok s2 k1

/-- The flags of a copy reach its thread; those of a packet's copy the tree of its cluster (R75, R76, R320). -/
def raiseCopy (s : State) (k : Copy) (m : IFl) : State :=
  match k.packet with
  | some _ => treeRaise s (cluOf k.core) k.core 0 m
  | none => raiseTid s k.tid m

/-- Whether a copy may be begun or gone on with: its engine is free, and no earlier one waits for it (R26). -/
def copyFirst (s : State) (k : Copy) : Bool :=
  let mine := s.eng.copies.filter (fun c => cluOf c.core == cluOf k.core && c.engine == k.engine && c.halo.isNone && !c.paused)
  !mine.any (fun c => c.id != k.id && (c.stage = 1 || c.stage = 2 || c.stage = 4))
  && (match mine.find? (fun c => c.stage = 0 || c.stage = 3) with | some c => c.id == k.id | none => false)

/-- A copy begun again after a page fault reads the formats of its sides and the rounding mode again (R63, R65, R75); a set that then
fails a check of R195 ends it with that check's cause. (DESIGN CHOICE, log 104.) -/
def refreshCopy (s : State) (k : Copy) : Except Nat Copy :=
  match copyCheck s k.tenant k.cset with
  | .error e => .error e.1
  | .ok w =>
    let md := if w.dst.isSome then fRm w.fd
              else if k.packet.isSome then .rne
              else (s.rmodeOf k.tid).getD k.rmode
    .ok { k with ft := w.ft, fd := w.fd, rmode := md }

/-- A copy reads every source byte that is left; where the reads fail, what they gave is written (R198, R204). -/
def beginCopy (s : State) (k : Copy) : State :=
  let (r, s1) := copyRead s k
  if r.fail.isSome && copyStuck s1 k r.out then s
  else
    let s2 := raiseCopy s1 k r.fl
    match r.fail with
    | none => noteRuns (setCopy s2 { k with stage := 1, data := r.out }) k.ctx (k.runs true)
    | some _ => copyStep s2 { k with stage := 3 } 3 r.out r.fail .read (fun s _ => s)

/-- A copy's start record, once (R359). -/
def noteStart (s : State) (k : Copy) : State :=
  let s1 := if k.cset.step != 0 && !k.started then s.trace (cluOf k.core) 0x07 k.core k.slot k.cset.step 0 (k.xfer s) 0 else s
  setCopy s1 { k with started := true }

/-- COPY_START: an engine begins a queued copy, or goes on with one whose page fault is answered: after its acquire it reads
every source byte that is left (R26, R100, R204). Where the reads fail, what they gave is written. -/
def execCopyStart (id : Nat) (s : State) : Out :=
  match s.eng.copies.find? (fun k => k.id == id) with
  | none => .next s
  | some k =>
    if k.halo.isSome || k.paused || k.fault.isSome || !(k.stage = 0 || k.stage = 3) || !copyFirst s k then .next s
    else
      let (s0, stuck) := if k.packet.isSome then (s, false) else forceFences s k.core k.tid
      if stuck then .next s
      else
        let s1 := noteStart s0 k
        let k := { k with started := true }
        if k.stage = 0 then .next (beginCopy s1 k)
        else
          match refreshCopy s1 k with
          | .error cause => .next (landCopy s1 k (some (cause, k.cset.csrc)))
          | .ok k1 => .next (beginCopy s1 k1)

/-- Whether a page of a copy's destination is not mapped. -/
def dstUnmapped (s : State) (k : Copy) : Bool :=
  match (copyWrites k (k.data.length + 1) s k.prog k.data).2.2.2 with
  | some (cause, _) => cause == 0x06
  | none => false

/-- COPY_RELEASED: the last source byte has been read (R198). Where a page of the destination is not mapped, the elements before it are
written and the copy will read on from there, so it is not released yet (R105, R204). -/
def execCopyReleased (id : Nat) (s : State) : Out :=
  match s.eng.copies.find? (fun k => k.id == id) with
  | none => .next s
  | some k =>
    if k.stage = 1 && k.halo.isNone && k.fault.isNone && dstUnmapped s k then
      .next (if copyStuck s k k.data then s else copyStep s k 3 k.data none .write (fun s _ => s))
    else if k.stage = 1 then
      let s1 := setCopy s { k with stage := 2 }
      match k.tag with
      | some t => .next (s1.setTag k.core t { s1.tag k.core t with rel := true })
      | none => .next s1
    else .next s

/-- COPY_LANDED: every destination byte is performed and released (R198), or a fault ends the copy (R204). -/
def execCopyLanded (id : Nat) (s : State) : Out :=
  match s.eng.copies.find? (fun k => k.id == id) with
  | none => .next s
  | some k =>
    if k.fault.isSome then .next (landCopy s k k.fault)
    else if (k.stage = 2 || k.stage = 4) && !k.paused then
      let (s0, stuck) := if k.stage = 4 && k.packet.isNone then forceFences s k.core k.tid else (s, false)
      if stuck || copyStuck s0 k k.data then .next s
      else .next (copyStep s0 k 4 k.data none .write (fun s k => landCopy (noteRuns s k.ctx (k.runs false)) k none))
    else .next s

/-! The halo exchange (R203). -/

/-- The span of a tile's interior, `n` long, and the offset in the buffer's own coordinates, that faces step `v` of −1, 0 or 1. Where `h` is
more than `n` the span reads on into the neighbour's own halo, for which R203 states nothing (DESIGN CHOICE, log 126). -/
def haloSpan (n h : Nat) (v : Int) : Int × Int × Nat :=
  -- offset in the neighbour's interior, offset in this tile, length
  if v < 0 then ((n : Int) - h, -(h : Int), h) else if 0 < v then (0, (n : Int), h) else (0, 0, n)

/-- A neighbour's place on an axis of `g`, if there is one (R203). -/
def haloAt (g p : Nat) (v : Int) (wrap : Bool) : Option Nat :=
  let q : Int := (p : Int) + v
  if 0 ≤ q ∧ q < g then some q.toNat else if wrap then some (q % (g : Int)).toNat else none

/-- The rows a halo exchange copies, in row-major order of the tile with its halo (R204): source address, destination address, bytes. -/
def haloRows (k : Copy) (gx gy h : Nat) (wrap : Bool) : List (Word × Word × Nat) :=
  let c := k.core
  let p := c % 16
  let e := k.dstSize
  let x := k.cset
  [(-1 : Int), 0, 1].flatMap (fun vy =>
    let sy := haloSpan x.rows h vy
    (List.range sy.2.2).flatMap (fun (i : Nat) => [(-1 : Int), 0, 1].flatMap (fun vx =>
      match haloAt gx (p % gx) vx wrap, haloAt gy (p / gx) vy wrap with
      | some nx, some ny =>
        if vx = 0 && vy = 0 then []
        else
          let nb := 16 * cluOf c + ny * gx + nx
          let base := x.cdst + wordOf (nb * Config.windowBytes) - wordOf (c * Config.windowBytes)
          let sx := haloSpan x.cols h vx
          [(base + BitVec.ofInt 64 ((sy.1 + i) * x.dstr + sx.1 * e), x.cdst + BitVec.ofInt 64 ((sy.2.1 + i) * x.dstr + sx.2.1 * e), sx.2.2 * e)]
      | _, _ => [])))

/-- Reads the rows of a halo exchange until the first failure. -/
def haloRead (s : State) (k : Copy) : List (Word × Word × Nat) → List (Nat × List Byte) × Option (Nat × Word)
  | [] => ([], none)
  | (a, b, n) :: l =>
    let p := readUpto s k.ctx a n
    let got := piecesBytes s p.1
    match p.2 with
    | some e => ([(b.toNat, got)], some e)
    | none => let t := haloRead s k l; ((b.toNat, got) :: t.1, t.2)

/-- HALO_COPY: phase q is complete and the engine reads each neighbour's border (R203); a barrier that breaks first ends the
copy with its cause. -/
def execHaloCopy (id : Nat) (s : State) : Out :=
  match s.eng.copies.find? (fun k => k.id == id) with
  | none => .next s
  | some k =>
    match k.halo with
    | none => .next s
    | some (gx, gy, wrap, key, q, h) =>
      if k.stage != 0 || k.paused || k.fault.isSome then .next s
      else
        let b := barAt s key
        if !waitDone b.ph q then .next (if b.broken then landCopy s k (some (0x0F, 0)) else s)
        else
          let s1 := noteStart s k
          let k := { k with started := true }
          let r := haloRead s1 k (haloRows k gx gy h wrap)
          match r.2 with
          | none => .next (setCopy s1 { k with stage := 1, data := r.1 })
          | some _ => .next (copyStep s1 k 3 r.1 r.2 .read (fun s _ => s))

end Sys2Proof.Machine
end

