-- ==== Sys2Proof/Machine/Fabric.lean ====
section
/-! DEFINITION. Requests from outside the module: flits over Volzor Link (R311, R343, R344), host writes through BAR2 (R346), and failed links (R344). -/

namespace Sys2Proof.Machine

/-! Volzor Link. -/

/-- How a request touches what it names. -/
def LinkReq.acc (r : LinkReq) : Acc :=
  match r.kind with
  | .read _ => .read
  | .write | .migrate _ => .write
  | .atomic _ | .arrive _ => .rmw

/-- Where a request of another module leads (R311): a local key, or the cause of its rejection; a migration flit leads to its core. -/
def linkTarget (s : State) (r : LinkReq) : Except Nat Nat :=
  match s.tenSlot r.tenant with
  | none => .error 0x08
  | some slot =>
    if !(fld (s.ten slot 6) 0 10 ≤ r.srcMod && r.srcMod ≤ fld (s.ten slot 6) 16 10) then .error 0x08
    else
      let k := directOf r.lpa
      match r.kind, placeOf k with
      | .migrate x, _ => if x.flit.isNone || Config.nCores ≤ x.core then .error 0x07 else if bit (s.clu (cluOf x.core)).rmemb slot then .ok k else .error 0x08
      | _, .sram c o =>
        if !bit (s.clu (cluOf c)).rmemb slot then .error 0x08
        else if backed s k && !engRefuses ⟨false, none, false⟩ r.acc c o then .ok k else .error 0x07
      | _, .remote _ _ => .error 0x07
      | _, _ => if backed s k then .ok k else .error 0x07

/-- A remote atomic's new value, of `n` bytes (R98). -/
def linkAtomic (op n old : Nat) (data : List Byte) : Nat :=
  let m := 2 ^ (8 * n)
  let v := leNat (data.take n)
  let sg (x : Nat) : Int := if m ≤ 2 * x then (x : Int) - m else x
  match op with
  | 0 => v
  | 1 => (old + v) % m
  | 2 => old &&& v
  | 3 => old ||| v
  | 4 => old ^^^ v
  | 5 => min old v
  | 6 => max old v
  | 7 => if sg old ≤ sg v then old else v
  | 8 => if sg old ≤ sg v then v else old
  | _ => if old = v then leNat (data.drop n) else old

/-- Bytes of a request's write. -/
def LinkReq.bytes (r : LinkReq) : Nat :=
  match r.kind with
  | .write => r.data.length
  | .read n => n
  | .atomic op => if op = 9 then r.data.length / 2 else r.data.length
  | .arrive _ => 32
  | .migrate _ => 256

/-- Sends a reply or a rejection back. -/
def linkReply (s : State) (r : LinkReq) (cause : Nat) (data : List Byte) : State :=
  { s with fab := { s.fab with replies := s.fab.replies ++ [(r.srcMod, cause, data)] } }

/-- A write of another party at its ordering point in memory. -/
def arriveWrite (s : State) (k : Nat) (bs : List Byte) : State :=
  let s1 := s.put k bs
  match placeOf k with
  | .sram c o => touchRegs s1 c o bs.length
  | _ => s1

/-- A write over pieces. -/
def arriveWrites (s : State) : List (Nat × Nat) → List Byte → State
  | [], _ => s
  | (k, n) :: l, bs => arriveWrites (arriveWrite s k (bs.take n)) l (bs.drop n)

/-- The thread that a migration flit of another module creates (R260, R261): with that module's tenant ID, and an acquire at the scope that
holds both cores. -/
def LinkReq.brings (r : LinkReq) (x : Creation) : Creation :=
  { x with origin := .none, env := none, cell := none, stamp := none, acq := some .dom,
           flit := x.flit.map (fun f => { f with tid := 0, tenant := r.tenant, floors := ⟨0, 0, 0, 0, 0, []⟩, pins := [], views := [],
                                                 seen := [], stale := [] }) }

/-- Performs a request of another module at its ordering point (R311, R344); a migration flit joins those that arrive at their core (R36). -/
def linkPerform (s : State) (r : LinkReq) : State :=
  match linkTarget s r with
  | .error cause => linkReply s r cause []
  | .ok k =>
    let n := r.bytes
    let bad := (List.range 65).any (fun i => i < n && s.poisoned (lineOf (k + i)))
    match placeOf k, r.kind with
    | _, .migrate x => linkReply { s with eng := { s.eng with flits := s.eng.flits ++ [r.brings x] } } r 0 []
    | .dev off, .write =>
      if devWriteOk s (.remote r.srcMod r.tenant) off n then linkReply (devStoreN s (.remote r.srcMod r.tenant) off n (wordOf (leNat r.data))) r 0 []
      else linkReply s r 0x07 []
    | .dev off, .read _ =>
      if devReadOk s (.remote r.srcMod r.tenant) off n then linkReply s r 0 (leBytes n (devRead s off n)) else linkReply s r 0x07 []
    | .dev _, .atomic _ | .dev _, .arrive _ => linkReply s r 0x07 []
    | _, .write => linkReply (arriveWrite s k r.data) r 0 []
    | _, .read _ => if bad then linkReply s r 0x09 [] else linkReply s r 0 (bytesAt s.mem k n)
    | _, .atomic op =>
      if bad then linkReply s r 0x09 []
      else
        let old := natAt s.mem k n
        linkReply (arriveWrite s k (leBytes n (linkAtomic op n old r.data))) r 0 (leBytes n old)
    | _, .arrive m =>
      let a := engineArrive s k m
      linkReply a.1 r (if a.2 then 0 else if bad then 0x09 else barCause 2) []

/-- A flit is behind its port: the next one expected there is its successor (R343). -/
def flitOver (s : State) (n : Nat) (r : LinkReq) : State :=
  { s with fab := { s.fab with inbound := delAt s.fab.inbound n, seqIn := tset 0 s.fab.seqIn r.port (r.seq + 1) } }

/-- Delivers a flit whose turn has come: forwarded where it names another module, performed here otherwise (R344). -/
def flitDeliver (s : State) (n : Nat) (r : LinkReq) : State :=
  let s1 := flitOver s n r
  if r.dstMod = s.modid then linkPerform s1 r
  else { s1 with fab := { s1.fab with forwarded := s1.fab.forwarded ++ [r] } }

/-- Whether a request waits at a register word (R41, R127). -/
def flitWaits (s : State) (r : LinkReq) : Bool :=
  match r.kind with
  | .read _ | .migrate _ => false
  | _ => r.dstMod = s.modid && (match linkTarget s r with | .ok k => portWaits s k r.bytes | .error _ => false)

/-- FLIT_RECEIVE: a flit arrives. One whose CRC fails is replayed, up to 32 times; the flits of a port are delivered once, in the
order of their sequence numbers (R343, R344), and a write to a pending register word waits (R41). (DEDUCED, log 110.) -/
def execFlitReceive (n : Nat) (crcOk : Bool) (s : State) : Out :=
  match s.fab.inbound[n]? with
  | none => .next s
  | some r =>
    let due := tget 0 s.fab.seqIn r.port
    if r.seq < due then .next { s with fab := { s.fab with inbound := delAt s.fab.inbound n } }
    else if due < r.seq then .next s
    else if !crcOk then
      if r.replays < 32 then .next { s with fab := { s.fab with inbound := setAt s.fab.inbound n { r with replays := r.replays + 1 } } }
      else .next (flitOver s n r)
    else if flitWaits s r then .next s
    else .next (flitDeliver s n r)

/-- LINK_FAILURE: no route reaches module `m` any more, or one does again. While none does, a request for it ends as R344 states:
a fetch, atomic or barrier form takes the poison fault, engine work ends with cause 0x09, and a buffered write is discarded. -/
def execLinkFailure (m : Nat) (down : Bool) (s : State) : Out :=
  let l := s.fab.unreach.filter (fun x => x != m)
  .next { s with fab := { s.fab with unreach := if down then m :: l else l } }

/-! The host's BAR2 (R346). -/

/-- Where a host write leads: in its function's 64 GiB, translated in the context of the function's tenant slot (R346); none where it may
not be made. -/
def bar2Pieces (s : State) (func : Nat) (va : Word) (n : Nat) : Option (List (Nat × Nat)) :=
  let slot := tget 0 s.tr.fnten func
  if 64 < func || s.tenId slot = 0 || 2 ^ 36 < va.toNat + n then none
  else
    match resolvePieces (resolveOut s slot .write) (pieceFuel n) va n with
    | .ok ps => some ps
    | .error _ => none

/-- One host write comes to be performed: after those of its function that are still held, and when no register word holds it back (R41,
R346); one that may not be made changes nothing. -/
def bar2One (s : State) (e : Nat × Word × List Byte) : State :=
  let hold : State := { s with fab := { s.fab with bar2Held := s.fab.bar2Held ++ [e] } }
  if s.fab.bar2Held.any (fun x => x.1 == e.1) then hold
  else
    match bar2Pieces s e.1 e.2.1 e.2.2.length with
    | none => s
    | some ps => if ps.any (fun p => portWaits s p.1 p.2) then hold else arriveWrites s ps e.2.2

/-- The held host writes are performed as far as they may be, in their order. -/
def settleBar2 (s : State) : State :=
  s.fab.bar2Held.foldl bar2One { s with fab := { s.fab with bar2Held := [] } }

/-- HOST_BAR2_WRITE: a write through BAR2 arrives; a function's writes are performed in their order (R346). (DEDUCED, log 70.) -/
def execHostBar2Write (func : Nat) (va : Word) (data : List Byte) (s : State) : Out := .next (bar2One s (func, va, data))

end Sys2Proof.Machine
end

