-- ==== Sys2Proof/Machine/Tensor.lean ====
section
/-! DEFINITION. Tensors and their tiles (R229-R231), and the layout of a landed tile (R236, R237). -/

namespace Sys2Proof.Machine

/-! The descriptor (R229), as its eight words. -/

def dscLoff (d : List Word) : Nat := fld (dsc d 1) 44 9
/-- Landing buffers of a target core. -/
def dscBufs (d : List Word) : Nat := fld (dsc d 1) 40 4 + 1
def dscTc (d : List Word) : Nat := fld (dsc d 1) 28 12 + 1
def dscTr (d : List Word) : Nat := fld (dsc d 1) 16 12 + 1
def dscKind (d : List Word) : Nat := fld (dsc d 1) 10 2
def dscNdm1 (d : List Word) : Nat := fld (dsc d 1) 8 2
def dscEwid (d : List Word) : Nat := fld (dsc d 1) 4 4
def dscEty (d : List Word) : ETy := ETy.ofCode (fld (dsc d 1) 0 4)
def dscDim0 (d : List Word) : Nat := fld (dsc d 2) 0 32
def dscDim1 (d : List Word) : Nat := fld (dsc d 2) 32 32
def dscDim2 (d : List Word) : Nat := fld (dsc d 3) 0 32
def dscDim3 (d : List Word) : Nat := fld (dsc d 3) 32 32
/-- TSTR of KINDs 1 and 2. -/
def dscTstr (d : List Word) : Nat := (dsc d 4).toNat

/-- Elements of a tile. -/
def dscN (d : List Word) : Nat := dscTr d * dscTc d
/-- Tile rows and columns of a plane (R230). -/
def dscNtr (d : List Word) : Nat := (dscDim0 d + dscTr d - 1) / dscTr d
def dscNtc (d : List Word) : Nat := (dscDim1 d + dscTc d - 1) / dscTc d
/-- NT (R230). -/
def dscNt (d : List Word) : Nat := dscNtr d * dscNtc d * dscDim2 d * dscDim3 d
/-- Bytes of a stored tile (R230). -/
def dscExt (d : List Word) : Nat := extentOf (dscEty d) (dscEwid d) (dscN d)
/-- The format word of the stored elements. -/
def dscFmt (d : List Word) : Word := wordOf (fld (dsc d 1) 0 4 + dscEwid d * 16 + dscEwid d * 256)

/-- A number rounded up to a multiple of 64. -/
def up64 (n : Nat) : Nat := (n + 63) / 64 * 64

/-- Whether a number is a power of two from 64 to 16,384. -/
def tstrOk (n : Nat) : Bool := [64, 128, 256, 512, 1024, 2048, 4096, 8192, 16384].contains n

/-- Whether a descriptor fails check 3 of R235. -/
def dscBad (d : List Word) : Bool :=
  let np := dscEty d == .np
  fld (dsc d 1) 53 11 != 0 || fld (dsc d 1) 12 4 != 0 || dsc d 7 != 0 || dscKind d = 3
  || 8 < fld (dsc d 1) 0 4
  || (if np then !(2 ≤ dscEwid d && dscEwid d ≤ 8) else dscEwid d != 0)
  || dscDim0 d = 0 || dscDim1 d = 0 || dscDim2 d = 0 || dscDim3 d = 0
  || (dscNdm1 d < 3 && dscDim3 d != 1) || (dscNdm1 d < 2 && dscDim2 d != 1) || (dscNdm1 d = 0 && dscDim1 d != 1)
  || dscNt d = 0 || 65536 < dscNt d || 16384 < dscExt d
  || (if dscKind d = 0 then np || dscEty d == .raw
      else dsc d 5 != 0 || dsc d 6 != 0 || dscDim0 d % dscTr d != 0 || dscDim1 d % dscTc d != 0
           || !tstrOk (dscTstr d) || dscTstr d < up64 (dscExt d)
           || (dscKind d = 1 && (dsc d 0).toNat % 65536 != 0))

/-! Tiles. -/

/-- Tile row, tile column, and the indices of dimensions 2 and 3 of a tile (R230). -/
def tileAt (d : List Word) (t : Nat) : Nat × Nat × Nat × Nat :=
  (t / dscNtc d % dscNtr d, t % dscNtc d, t / (dscNtc d * dscNtr d) % dscDim2 d, t / (dscNtc d * dscNtr d) / dscDim2 d)

/-- Elements of row `i` of a tile that lie in the tensor; KIND 0. -/
def tileCols (d : List Word) (t i : Nat) : Nat :=
  let p := tileAt d t
  if dscDim0 d ≤ p.1 * dscTr d + i then 0 else min (dscTc d) (dscDim1 d - p.2.1 * dscTc d)

/-- The address of row `i` of a tile; KIND 0 (R230). -/
def tileRow (d : List Word) (t i : Nat) : Word :=
  let p := tileAt d t
  dsc d 0 + wordOf (p.1 * dscTr d + i) * dsc d 4 + wordOf (p.2.1 * dscTc d * eSize (dscEty d)) + wordOf p.2.2.1 * dsc d 5 + wordOf p.2.2.2 * dsc d 6

/-- The first `n` bytes of a stored tile as runs of an address and bytes (R230); KIND 0 takes every byte. -/
def tileRuns (d : List Word) (t n : Nat) : List (Word × Nat) :=
  if dscKind d = 0 then
    (List.range (dscTr d)).filterMap (fun i =>
      let m := tileCols d t i
      if m = 0 then none else some (tileRow d t i, m * eSize (dscEty d)))
  else [(dsc d 0 + wordOf (t * dscTstr d), n)]

/-- Bytes of a landed tile in a landing segment's format; none where the type has no landing (R235, R237). -/
def landBytes (d : List Word) (fmt : Word) : Option Nat :=
  let raw := fTy fmt == .raw
  if raw && dscEty d != .raw then none
  else if raw || dscEty d == .raw then some (dscN d)
  else some (extentOf (fTy fmt) (fWidth fmt) (dscN d))

/-- Whether a tile lands plane by plane: NP to NP of one width (R236). -/
def planeCopy (d : List Word) (fmt : Word) : Bool := dscEty d == .np && fTy fmt == .np && fWidth fmt == dscEwid d

/-- Stored bytes that a landing reads of a KIND 1 or 2 tile (R236). -/
def storedRead (d : List Word) (fmt : Word) : Nat := if planeCopy d fmt then fDepth fmt * planeBytes (dscN d) else dscExt d

/-- Rows of stored elements in their row-major places, absent ones at edges (R237). -/
def placeRows (d : List Word) (t : Nat) : Nat → List Elem → List (Option Elem)
  | 0, _ => []
  | n + 1, xs =>
    let m := tileCols d t (dscTr d - (n + 1))
    (xs.take m).map some ++ List.replicate (dscTc d - m) none ++ placeRows d t n (xs.drop m)

/-- The stored elements of a tile in row-major order (R230). -/
def storedElems (d : List Word) (t : Nat) (bs : List Byte) : List (Option Elem) :=
  if dscKind d = 0 then placeRows d t (dscTr d) (elemsOf (dscFmt d) (bs.length / eSize (dscEty d)) bs)
  else (elemsOf (dscFmt d) (dscN d) bs).map some

/-- The zero of a landed type. -/
def zeroLand (fmt : Word) : Elem := match fTy fmt with | .np => .np (fWidth fmt) 0 | t => elemOf t 0

/-- The bytes of a tile as landed, with the flags of its conversions (R74, R236, R237). A landing plane by plane copies every stored bit
unchanged (R236), the padding bits beyond the last element of a plane among them, which R71 has a writer store as 0. (DESIGN CHOICE,
log 124.) -/
def landTile (d : List Word) (t : Nat) (fmt : Word) (bs : List Byte) : List Byte × IFl :=
  if planeCopy d fmt then (bs ++ List.replicate (dscExt d - bs.length) 0, 0)
  else if fTy fmt == .raw || dscEty d == .raw then (bs, 0)
  else
    let rs := (storedElems d t bs).map (fun e => match e with
      | some x => toElem (fTy fmt) (fWidth fmt) (fRm fmt) x
      | none => (zeroLand fmt, (0 : IFl)))
    (elemsBytes fmt (rs.map (fun r => r.1)), rs.foldl (fun g r => g ||| r.2) 0)

/-- Whether the 64-KiB page of an address is one of the channel-direct view (R56): none where it is not mapped. -/
def homedPage (s : State) (tenant : Nat) (va : Word) : Option Bool :=
  if !canonical va || Config.flatBase ≤ va.toNat then some false
  else
    match s.tenSlot tenant with
    | none => some false
    | some slot =>
      match walk s slot va.toNat with
      | .error _ => none
      | .ok (e, lv) => some (lv == 4 && decide (Config.directBase ≤ entryAddr e ∧ entryAddr e < Config.directBase + Config.hbmBytes))

/-- The lowest tile on a mapped page that is not of the channel-direct view; KIND 1 (R235). -/
def unhomed (s : State) (tenant : Nat) (d : List Word) : Option Nat :=
  let per := 65536 / dscTstr d
  ((List.range ((dscNt d + per - 1) / per)).find? (fun p => homedPage s tenant (dsc d 0 + wordOf (65536 * p)) == some false)).map (fun p => p * per)

end Sys2Proof.Machine
end

