-- ==== Sys2Proof/Machine/Mint.lean ====
section
/-! DEFINITION. Sweeps and the Mint, MAJ 0x38 and 0x39 (R232-R246): SWEEP and its acceptance, the delivery of tiles, status and cancellation, and SWMERGE. -/

namespace Sys2Proof.Machine

/-! SWEEP (R233, R234). -/

/-- The issue of a SWEEP (R234 steps 1 and 2): its operands are read, and the thread waits for acceptance. -/
def sweepIssue (i : Instr) (d a e f : WReg) (r : OrdScope) : M Unit := do
  chk [(0, d), (1, a), (3, e), (4, f)]
  let va ← rd a
  let ssa ← rd e
  let slots ← rd f
  needDst d
  let (c, sl) ← me
  cmdFence r
  upd (fun s => { s with eng := { s.eng with sweepReqs := s.eng.sweepReqs ++ [⟨c, sl, s.tid c sl, i, va, ssa, slots⟩] } })
  waitOn .sweep

def execSweep (t : STy) (arr res : Bool) (d a : WReg) (k : KReg) (e f : WReg) (seg : Seg) (cl0 nclM1 : BitVec 7) (r : OrdScope) (s : State) : Out :=
  run (sweepIssue (.sweep t arr res d a k e f seg cl0 nclM1 r) d a e f r) s

/-! Acceptance (R234, R235). -/

/-- Bytes of a slot (R233). -/
def slotBytes : STy → Nat
  | .f64 | .i64 => 8
  | .f32 | .i32 => 4

/-- TRAPINFO of the sweep-layout fault (R235). -/
def swInfo (reason tile : Nat) : Word := wordOf (reason * 2 ^ 28 + tile % 2 ^ 17)

/-- A fault of acceptance without its REASON. -/
def plainErr {α : Type} (r : Except (Nat × Word × Nat) α) : Except (Nat × Word) α :=
  match r with
  | .ok x => .ok x
  | .error e => .error (e.1, e.2.1)

/-- The cores of target clusters. -/
def targetCores (cl0 ncl : Nat) : List Nat := (List.range (16 * ncl)).map (fun i => 16 * cl0 + i)

/-- The first landing byte of a landing segment (R236). -/
def landLo (seg : Nat) (d : List Word) : Nat := 0x8000 + 28672 * seg + 64 * dscLoff d

/-- The landed extent of an accepted sweep in a core (R236). -/
def Sweep.land (w : Sweep) (c : Nat) : Nat := w.landL.getD (c - 16 * w.cl0) 0

/-- Window offset of a landing buffer (R236). -/
def Sweep.bufOff (w : Sweep) (c b : Nat) : Nat := landLo w.seg w.desc + b * w.land c

/-- Whether a landing region of core `c` meets that of an accepted sweep (R235 check 9). -/
def landMeets (s : State) (c lo len : Nat) : Bool :=
  s.eng.sweeps.any (fun w =>
    let a := landLo w.seg w.desc
    w.targets c && lo < a + w.land c * dscBufs w.desc && a < lo + len)

/-- Checks 6 to 8 of R235 on the body's handle. -/
def bodyCheck (s : State) (core : Nat) (kreg : Nat) (h : Word) (cores : List Nat) : Except (Nat × Word) Unit :=
  if fld h 60 4 != 0xC then .error (0x12, swInfo 4 0)
  else if hdlCore h < Config.nCores && hdlCore h != core && !s.routed core (cluOf (hdlCore h)) then .error (0x08, h)
  else if !hdlCurrent s h then .error (0x0D, hdlInfo (hdlReason s h) kreg h)
  else
    let regs := (captured s (hdlCore h) (hdlEnv h)).map (fun p => p.1)
    let narrow := cores.any (fun c => !(s.core c).wide)
    if pRmask (s.purse (hdlCore h) (hdlEnv h) 1) != 0 || regs.any (fun r => r ≤ 4 || (15 < r && narrow)) then .error (0x12, swInfo 5 0) else .ok ()

/-- What acceptance finds: descriptor, landed extents and completed bits. -/
structure Admit where
  desc : List Word
  landL : List Nat
  done : Nat

/-- Checks of R235 in order, for the sweep a request asks for. TRAPINFO of the misaligned fault is the first misaligned address of
descriptor, SSA and slot base, for which R235 and R282 name none (DESIGN CHOICE, log 123). (DEDUCED, log 51.) (DESIGN CHOICE, log 52.) -/
def sweepChecks (s : State) (x : EngCtx) (core : Nat) (r : SweepReq) (ty : STy) (res : Bool) (kreg : Nat) (h : Word) (seg cl0 ncl : Nat) :
    Except (Nat × Word) Admit :=
  let cores := targetCores cl0 ncl
  let mine (n : Nat) : Bool := match s.tenSlot x.tenant with | some k => s.tenHas k n | none => false
  if r.va.toNat % 64 != 0 then .error (0x05, r.va)
  else if r.ssa.toNat % 64 != 0 then .error (0x05, r.ssa)
  else if r.slots.toNat % (slotBytes ty) != 0 then .error (0x05, r.slots)
  else
    match (List.range ncl).find? (fun n => !mine (cl0 + n)) with
    | some n => .error (0x08, wordOf (cl0 + n))
    | none => do
      let bs ← plainErr (readBy s (resolveFrom s x .read) r.va 64)
      let d := wordsOf 8 bs
      if dscBad d then .error (0x12, swInfo 1 0)
      let ls := cores.map (fun c => landBytes d (s.fmt c seg))
      if ls.any (fun l => match l with | some n => 28672 < up64 n * dscBufs d + 64 * dscLoff d | none => true) then .error (0x12, swInfo 2 0)
      let landL := ls.map (fun l => up64 (l.getD 0))
      match (if dscKind d = 1 then unhomed s x.tenant d else none) with
      | some t => .error (0x12, swInfo 3 t)
      | none =>
        bodyCheck s core kreg h cores
        if (cores.zip landL).any (fun p => landMeets s p.1 (landLo seg d) (p.2 * dscBufs d)) then .error (0x12, swInfo 6 0)
        if res then
          let n := (dscNt d + 63) / 64
          let b ← plainErr (readBy s (resolveFrom s x .read) r.ssa (64 + 16 * n))
          let w := wordsOf 8 b
          let bad := fld (dsc w 0) 22 42 != 0 || (w.drop 4).any (fun v => v != 0) || fld (dsc w 0) 0 17 != dscNt d || fld (dsc w 0) 17 4 != ty.code
                     || dsc w 1 != r.slots || dsc w 3 != r.va
          if bad then .error (0x12, swInfo 7 0)
          .ok ⟨d, landL, leNat (b.drop (64 + 8 * n)) % 2 ^ dscNt d⟩
        else .ok ⟨d, landL, 0⟩

/-- Whether an accepted sweep holds an entry against a cluster (R234). -/
def Sweep.holds (w : Sweep) (n : Nat) : Bool := n = cluOf w.core || (w.cl0 ≤ n && n < w.cl0 + w.ncl)

/-- CAUSE of a refusal at step 4 (R234), if the sweep is refused. -/
def refusal (s : State) (core cl0 ncl : Nat) (h : Word) : Option Nat :=
  let full (n : Nat) : Bool := 64 ≤ (s.eng.sweeps.filter (fun w => w.holds n)).length
  if 1024 ≤ s.eng.sweeps.length || full (cluOf core) || (List.range ncl).any (fun i => full (cl0 + i)) then some 0
  else if hdlFull s h then some 0x0C
  else none

/-- The first address of a tile that does not translate, if there is one (R239). -/
def tileFault (s : State) (x : EngCtx) (d : List Word) (t : Nat) : Option Word :=
  (tileRuns d t (dscExt d)).findSome? (fun r =>
    match (piecesUpto s x .read (pieceFuel r.2) r.1 r.2).2 with
    | some (0x06, a) => some a
    | _ => none)

/-- A tile pauses for a page fault at an address (R239). -/
def pauseTile (s : State) (w : Sweep) (t : Nat) (va : Word) : State :=
  let s1 := modSweep s w.id (fun w => { w with paused := w.paused.filter (fun u => u != t) ++ [t], aged := w.aged.filter (fun u => u != t) })
  queueWalk s1 (w.walkFor va 0 (.tile w.id t))

/-- The writes of acceptance (R232). -/
def acceptWrite (w : Sweep) (va : Word) (res : Bool) : Word × List Byte :=
  if res then (w.ssa + 16, leBytes 8 (w.status 0).toNat)
  else (w.ssa, leBytes 8 (bitNat w.arr * 2 ^ 21 + w.sty.code * 2 ^ 17 + w.nt) ++ leBytes 8 w.slots.toNat ++ leBytes 8 (w.status 0).toNat
               ++ leBytes 8 va.toNat ++ List.replicate (32 + 2 * w.mapBytes) 0)

/-- The future of a SWEEP in its register, and the thread back in the rotation past the instruction (R234, R40). -/
def sweepFuture (s : State) (c sl : Nat) (d : WReg) : State × Word :=
  let r := placeFuture s c sl 3 d.val
  (r.1.modThread c sl (fun t => { t with wait := .none, pc := t.pc + 16 }), r.2)

/-- Every tile on an unmapped page is paused (R239). -/
def pauseUnmapped (s : State) (w : Sweep) : State :=
  (List.range w.nt).foldl (fun s t =>
    if w.completed / 2 ^ t % 2 = 1 then s
    else match tileFault s w.ctx w.desc t with | some va => pauseTile s w t va | none => s) s

/-- Accepts a checked sweep, or refuses it (R234 steps 4 to 6, R245). -/
def admitSweep (s : State) (t : Thread) (r : SweepReq) (ty : STy) (arr res : Bool) (d : WReg) (h : Word) (seg cl0 ncl : Nat) (o : OrdScope) (a : Admit) : State :=
  match refusal s r.core cl0 ncl h with
  | some cause =>
    let (s1, f) := sweepFuture s r.core r.slot d
    let v := wordOf (2 * 2 ^ 60 + cause * 2 ^ 52)
    pushDone (noteSwept s1 f v) f v
  | none =>
    let w0 : Sweep := {
      id := s.eng.nextId, h := 0, tid := r.tid, core := r.core, kernel := t.kernel, tenant := s.tenantOf r.core, o := o, env := h, desc := a.desc,
      ssa := r.ssa, slots := r.slots, sty := ty, arr := arr, seg := seg, cl0 := cl0, ncl := ncl, nt := dscNt a.desc, landL := a.landL, bsize := t.size,
      delivered := a.done, completed := a.done, failed := 0, failedTiles := [], paused := [], aged := [], bodies := [], state := 0, cause := 0,
      ssaf := false, endPaused := false, stamp := s.now, ckAt := s.ckOf r.core, since := [] }
    let p := acceptWrite w0 r.va res
    match writeBy s (resolveFrom s w0.ctx .write) p.1 p.2 with
    | .error e => takeTrap s r.core r.slot e.1 e.2.1
    | .ok s1 =>
      let (s2, f) := sweepFuture (takeCount s1 h) r.core r.slot d
      let w := { w0 with h := f }
      let s3 := { s2 with eng := { s2.eng with nextId := s2.eng.nextId + 1, sweeps := s2.eng.sweeps ++ [w] } }
      settleSweep (pauseUnmapped (noteRuns s3 w.ctx [(r.va, 64), (r.ssa, 64 + 2 * w.mapBytes)]) w) w.id

/-- SWEEP_ACCEPTANCE: the Mint accepts, refuses or faults the SWEEP that a slot's thread waits for (R234, R235). -/
def execSweepAcceptance (core slot : Nat) (s : State) : Out :=
  match s.eng.sweepReqs.find? (fun r => r.core == core && r.slot == slot), s.thread core slot with
  | some r, some t =>
    let (s0, stuck) := forceFences s core r.tid
    if stuck || t.wait != .sweep then .next s
    else
      let s1 := { s0 with eng := { s0.eng with sweepReqs := s0.eng.sweepReqs.filter (fun x => !(x.core == core && x.slot == slot)) } }
      match r.i with
      | .sweep ty arr res d _ k _ _ seg cl0 nclM1 o =>
        let h := t.k[k]
        match sweepChecks s1 ⟨s1.tenantOf core, t.kernel, core, slot, false⟩ core r ty res k.val h seg.val cl0.toNat (nclM1.toNat + 1) with
        | .error (cause, info) => .next (takeTrap (setWait s1 core slot .none) core slot cause info)
        | .ok a => .next (admitSweep s1 t r ty arr res d h seg.val cl0.toNat (nclM1.toNat + 1) o a)
      | _ => .next s1
  | _, _ => .next s

/-! Delivery (R236-R239). -/

/-- The lowest free landing buffer of a sweep in a core. -/
def Sweep.freeBuf (w : Sweep) (c : Nat) : Option Nat :=
  (List.range (dscBufs w.desc)).find? (fun b => !w.bodies.any (fun x => x.holdsBuf && x.core == c && x.buf == b))

/-- Whether a core can take a body of a sweep now (R239). -/
def Sweep.roomAt (w : Sweep) (s : State) (c : Nat) : Bool := w.targets c && (w.freeBuf c).isSome && hasRoom s c (w.bodySize s c)

/-- Whether a tile is eligible (R239). -/
def Sweep.eligible (w : Sweep) (s : State) (t : Nat) : Bool := w.pendingTile t && (targetCores w.cl0 w.ncl).any (fun c => w.roomAt s c)

/-- The agent that serves a tile (R231): of the pseudo-channel that holds it, or one of the issuing cluster's sixteen. (DESIGN CHOICE, log 53.) -/
def Sweep.agent (w : Sweep) (s : State) (t : Nat) : Nat :=
  let own := 16 * cluOf w.core + t % 16
  if dscKind w.desc = 1 then
    match resolveFrom s w.ctx .read (dsc w.desc 0 + wordOf (t * dscTstr w.desc)) with
    | .ok k => (homeCore k).getD own
    | .error _ => own
  else own

/-- Whether an aged tile comes before tile `t` of a sweep on core `c`: an older one at its agent, or one for which the core's
next place is reserved (R239). -/
def agedFirst (s : State) (w : Sweep) (t c : Nat) : Bool :=
  s.eng.sweeps.any (fun v => (List.range v.nt).any (fun u =>
    !(v.id == w.id && u == t) && v.hasAged s u && v.pendingAt u < w.pendingAt t
    && (v.targets c || (v.eligible s u && v.agent s u == w.agent s t))))

/-- The stored bytes of a tile that a landing reads, or the cause and address of the failure. -/
def readTile (s : State) (w : Sweep) (t : Nat) (fmt : Word) : Except (Nat × Word) (List Byte) :=
  (tileRuns w.desc t (storedRead w.desc fmt)).foldlM (fun (bs : List Byte) r =>
    let p := readUpto s w.ctx r.1 r.2
    match p.2 with
    | some e => .error e
    | none => .ok (bs ++ piecesBytes s p.1)) []

/-- Registers of a body (R236). -/
def bodyRegs (s : State) (w : Sweep) (t c b : Nat) : List (Nat × Word) :=
  let p := tileAt w.desc t
  [(0, flatVa c (w.bufOff c b)), (1, wordOf (p.2.2.1 * 2 ^ 32 + p.1)), (2, wordOf (p.2.2.2 * 2 ^ 32 + p.2.1)), (3, wordOf t), (4, s.time)]
  ++ captured s (hdlCore w.env) (hdlEnv w.env)

/-- Lands a tile in a buffer of a core and creates its body (R236 steps 2 to 5). -/
def landOn (s : State) (w : Sweep) (t c b : Nat) (fmt : Word) (n : Nat) (bs : List Byte) : State :=
  let (data, fl) := landTile w.desc t fmt bs
  let s1 := s.putClear (winKey c (w.bufOff c b)) (data ++ List.replicate (up64 n - data.length) 0)
  let floors := floorsFrom w.core (if w.o.ord.hasAcq then some w.o.scope else none) w.stamp
  match create s1 c (pEntry (s1.purse (hdlCore w.env) (hdlEnv w.env) 0)) (w.bodySize s1 c) (bodyRegs s1 w t c b) (.tile w.id t) floors with
  | none => s
  | some (s2, sl) =>
    let s3 := raiseAt s2 c sl fl
    let s4 := modSweep s3 w.id (fun w => { w with delivered := setBitN w.delivered t, bodies := w.bodies ++ [⟨t, c, b, s3.tid c sl, true⟩],
                                                  aged := w.aged.filter (fun u => u != t) })
    s4.trace (cluOf c) 0x06 c sl 0 0 w.h (wordOf t)

/-- TILE_DELIVERY: an agent reads tile `tile`, lands it in core `core` and creates its body (R236, R237). A page fault pauses
it, another failure fails it (R239, R240). -/
def execTileDelivery (sw tile core : Nat) (s : State) : Out :=
  match s.sweep sw with
  | none => .next s
  | some w =>
    if !(w.pendingTile tile && w.roomAt s core) || agedFirst s w tile core then .next s
    else
      let fmt := s.fmt core w.seg
      let off := dscKind w.desc = 1 && homedPage s w.tenant (dsc w.desc 0 + wordOf (tile * dscTstr w.desc)) == some false
      if off then .next (failTileAt s sw tile 0x12 (dsc w.desc 0 + wordOf (tile * dscTstr w.desc)))
      else
        match readTile s w tile fmt with
        | .error (cause, va) => .next (if cause = 0x06 then pauseTile s w tile va else failTileAt s sw tile cause va)
        | .ok bs =>
          match landBytes w.desc fmt, w.freeBuf core with
          | some n, some b =>
            if w.land core < up64 n then .next (failTileAt s sw tile 0x12 0)
            else if !engRouted s w.ctx (winKey core (w.bufOff core b)) then .next (failTileAt s sw tile 0x08 (flatVa core (w.bufOff core b)))
            else .next (landOn (noteRuns s w.ctx (tileRuns w.desc tile (storedRead w.desc fmt))) w tile core b fmt n bs)
          | _, _ => .next (failTileAt s sw tile 0x12 0)

/-- TILE_AGE_PRIORITY: a pending tile's age has reached 4,096 ck (R239). -/
def execTileAgePriority (sw tile : Nat) (s : State) : Out :=
  match s.sweep sw with
  | none => .next s
  | some w =>
    if w.pendingTile tile && !w.aged.contains tile && Config.agePriority ≤ s.ckOf w.core - w.pendingAt tile then
      .next (modSweep s sw (fun w => { w with aged := w.aged ++ [tile] }))
    else .next s

/-! Status and cancellation (R243). -/

/-- The status word of the sweep that a pending register's word names, running or over (R243). -/
def sweepStatus (s : State) (v : Word) (pend : Bool) : Word :=
  if pend && fld v 56 8 == 0xF3 then
    match s.eng.sweeps.find? (fun w => w.h == futBase v) with
    | some w => w.status w.state
    | none => ((s.eng.swept.find? (fun p => p.1 == futBase v)).map (fun p => p.2)).getD (wordOf (15 * 2 ^ 60))
  else wordOf (15 * 2 ^ 60)

/-- The sweep that a pending register's word names. -/
def sweepOfWord (s : State) (v : Word) (pend : Bool) : Option Sweep :=
  if pend && fld v 56 8 == 0xF3 then s.eng.sweeps.find? (fun w => w.h == futBase v) else none

/-- SWSTAT (R243). -/
def execSwstat (d a : WReg) (s : State) : Out := run (do
  chk [(0, d), (1, a)]
  let (v, p) ← peek a
  needDst d
  let w ← ask (fun s => sweepStatus s v p)
  wr d w
  fin 8) s

/-- Cancels a running sweep (R243). -/
def cancelSweep (s : State) (id : Nat) : State :=
  match s.sweep id with
  | some w => if w.state = 0 then settleSweep (modSweep s id (fun w => { w with state := 4 })) id else s
  | none => s

/-- SWCANCEL (R243). -/
def execSwcancel (a : WReg) (s : State) : Out := run (do
  chk [(1, a)]
  let (v, p) ← peek a
  let w ← ask (fun s => sweepOfWord s v p)
  (match w with
    | some w => upd (fun s => cancelSweep s w.id)
    | none => pure ())
  fin 8) s

/-! SWMERGE (R246). -/

/-- Reads the present slots in order: absent ones stay absent. -/
def slotLeaves (ty : STy) (base : Word) : List (Nat × Bool) → M (List (Option Nat))
  | [] => pure []
  | (i, p) :: l => do
    let x ← (if p then do
        let v ← loadAt (base + wordOf (i * (slotBytes ty))) (slotBytes ty)
        pure (some v)
      else pure none)
    let r ← slotLeaves ty base l
    pure (x :: r)

/-- An integer clamped to `n` bits, raising overflow on a clamp (R84). -/
def satN (n : Nat) (v : Int) : Int × IFl :=
  if (2 : Int) ^ (n - 1) - 1 < v then (2 ^ (n - 1) - 1, IFl.of) else if v < -(2 : Int) ^ (n - 1) then (-(2 : Int) ^ (n - 1), IFl.of) else (v, 0)

/-- The sum of two slots (R246). -/
def slotAdd (ty : STy) (md : RMode) (x y : Nat) : Nat × IFl :=
  let isum (n : Nat) : Nat × IFl :=
    let r := satN n ((BitVec.ofNat n x).toInt + (BitVec.ofNat n y).toInt)
    ((r.1 % 2 ^ n).toNat, r.2)
  match ty with
  | .f64 => fAdd .f64 md (FFmt.val .f64 x) (FFmt.val .f64 y)
  | .f32 => fAdd .f32 md (FFmt.val .f32 x) (FFmt.val .f32 y)
  | .i64 => isum 64
  | .i32 => isum 32

/-- Merges slots and stores the result (R246). -/
def mergeSlots (ty : STy) (arr : Bool) (dst base : Word) (l : List (Nat × Bool)) : M Unit := do
  need (dst.toNat % (slotBytes ty) = 0) 0x05 dst
  need (base.toNat % (slotBytes ty) = 0) 0x05 base
  let leaves ← slotLeaves ty base l
  let t ← th
  let x ← (if arr then step1 (fun s => s.pick) else pure 0)
  let r := combine (slotAdd ty t.rmode) arr x leaves
  let _ ← storeAt dst (slotBytes ty) (r.1.getD 0)
  raise r.2
  finWait 8 .reply

/-- SWMERGE of `n` slots (R246). -/
def execSwmerge (t : STy) (arr : Bool) (d a b : WReg) (s : State) : Out := run (do
  chk [(0, d), (1, a), (2, b)]
  let dst ← rd d
  let base ← rd a
  let n ← rd b
  if n = 0 || 65536 < n.toNat then outOfRange 26 else pure ()
  mergeSlots t arr dst base ((List.range n.toNat).map (fun i => (i, true)))) s

/-- Reads words of a sweep state area by number. -/
def ssaWords (base : Word) : List Nat → M (List Word)
  | [] => pure []
  | k :: l => do
    let v ← loadAt (base + wordOf (8 * k)) 8
    let r ← ssaWords base l
    pure (wordOf v :: r)

/-- SWMERGE of a sweep's completed slots (R246). -/
def execSwmergeSsa (d a : WReg) (s : State) : Out := run (do
  chk [(0, d), (1, a)]
  let dst ← rd d
  let base ← rd a
  let h ← ssaWords base [0, 1, 4, 5, 6, 7]
  let w0 := dsc h 0
  let n := fld w0 0 17
  let c := fld w0 17 4
  let ok := (c == 0 || c == 1 || c == 6 || c == 7) && n != 0 && n ≤ 65536 && fld w0 22 42 == 0 && (h.drop 2).all (fun v => v == 0)
  need ok 0x12 (swInfo 8 0)
  let nb := (n + 63) / 64
  let ws ← ssaWords base ((List.range nb).map (fun i => 8 + nb + i))
  mergeSlots (STy.ofCode c) (bit w0 21) dst (dsc h 1) ((List.range n).map (fun i => (i, bit (dsc ws (i / 64)) (i % 64))))) s

end Sys2Proof.Machine
end

