-- ==== Sys2Proof/Machine/FutureOps.lean ====
section
/-! DEFINITION. Futures as programs see them, MAJ 0x3E (R208-R211). -/

namespace Sys2Proof.Machine

/-- Changes the pending future of a handle. -/
def modFut (s : State) (h : Word) (f : Fut → Fut) : State :=
  { s with eng := { s.eng with futs := s.eng.futs.map (fun x => if x.h == h then f x else x) } }

/-- FTEST (R208). -/
def execFtest (d a : WReg) (s : State) : Out := run (do
  chk [(0, d), (1, a)]
  let (v, p) ← peek a
  needDst d
  wr d (if !p then 1 else if !hCan v then 0 else if hStop v then 3 else 2)
  fin 8) s

/-- FPASS to a register (R209). (DEDUCED, log 32.) -/
def execFpass (d a : WReg) (s : State) : Out := run (do
  chk [(0, d), (1, a)]
  if d = a then fin 8
  else
    let (c, sl) ← me
    let t ← th
    if t.pends d.val then outOfRange 16 else pure ()
    let (v, p) ← peek a
    wr d v
    if p then do
      wr a 0
      modTh (fun t => { t with pend := setBit t.pend d.val })
      upd (fun s => modFut s (futBase v) (fun f => { f with loc := .reg (s.tid c sl) t.frameNo d.val }))
    else pure ()
    fin 8) s

/-- FPASS to a pair in the issuing core's own window (R209). (DEDUCED, log 33.) -/
def execFpassMem (a : WReg) (o : BitVec 23) (b : WReg) (s : State) : Out := run (do
  chk [(1, a), (2, b)]
  let (x, _) ← peek a
  let (v, p) ← peek b
  let ea := x + o.signExtend 64
  let k ← locate .write ea 16 16
  let (c, sl) ← me
  need (owned c k && k - winKey c 0 < 0x5C000) 0x07 ea
  let w ← ask (fun s => storeWaits s k 16)
  if w then waitOn (.store k 16) else pure ()
  let pair (s : State) (w0 w1 : Nat) : State := touchRegs (s.put k (leBytes 8 w0 ++ leBytes 8 w1)) c (k - winKey c 0) 16
  if p then do
    upd (fun s => pair s v.toNat (if hStop v then 3 else 0))
    wr b 0
    upd (fun s => modFut s (futBase v) (fun f => { f with loc := .pair k (s.tid c sl) }))
  else upd (fun s => pair s v.toNat 1)
  fin 8) s

/-- Where the live thread of an identifier stands that a completion reaches too late in this ck (R50). -/
def lateFor (s : State) (tid : Word) : Bool :=
  match s.find tid with
  | some (c, sl) => (match s.thread c sl with | some t => s.tooLate c t 3 | none => false)
  | none => false

/-- A completion, or STOP, reaches the place of a future (R40, R209, R210): none where its frame's words cannot be reached now. -/
def reachFut (s : State) (f : Fut) (a : Arrive) : Option State :=
  match f.loc with
  | .gone => some s
  | .pair k tid => some (if s.exists tid then arrivePair s k a else s)
  | .reg tid fr r => (arriveReg s tid fr r a).map (fun s1 => settleHeld (s1.modTid tid (s1.touched (tidCore tid) 3)))

/-- A future that is not pending any longer. -/
def dropFut (s : State) (h : Word) : State := { s with eng := { s.eng with futs := s.eng.futs.filter (fun f => f.h != h) } }

/-- STOP is set at once at the place of a future (R258). -/
def stopNow (s : State) (h : Word) : State :=
  match s.fut h with
  | none => s
  | some f => dropFut ((reachFut s f .stop).getD s) h

/-- A cluster's array is asked to stop the command of a future (R226): a command that has not started is removed, and a waiting one takes its
place; the running one stops at the end of its current row block. -/
def stopCmd (s : State) (h : Word) : State :=
  let mine (a : ArrCmd) : Bool := a.h == h
  match s.clus.find? (fun p => (p.2.arrQ ++ p.2.arrWait).any mine) with
  | some (n, _) =>
    let x := s.clu n
    pushStopped (admitFollows (s.setClu n { x with arrQ := x.arrQ.filter (fun a => !mine a), arrWait := x.arrWait.filter (fun a => !mine a) }) n) h
  | none =>
    match s.clus.find? (fun p => match p.2.arr with | some r => mine r.cmd | none => false) with
    | some (n, _) => modArr s n h (fun r => { r with cancel := true, stopAt := min (r.rows / 16 * 16 + 16) (dM r.desc) })
    | none => s

/-- The engine of a cancelled future is asked to stop, by its source kind (R210, R226, R243, R258, R264; DEDUCED, log 77). No rule says when a launch stops
(source kind 6): it runs on, and STOP is set at its completion (DESIGN CHOICE, log 128). -/
def askStop (s : State) (h : Word) : State :=
  match futSrck h with
  | 1 | 2 => stopCmd s h
  | 3 => match s.eng.sweeps.find? (fun w => w.h == h) with | some w => cancelSweep s w.id | none => s
  | 4 =>
    match s.eng.creations.find? (fun r => r.origin == .applyA h) with
    | some r =>
      let s1 := { s with eng := { s.eng with creations := s.eng.creations.filter (fun x => x.origin != .applyA h) } }
      stopNow (match r.env with | some e => dropCount s1 e | none => s1) h
    | none => stopNow s h
  | 5 => pushStopped { s with eng := { s.eng with parks := s.eng.parks.filter (fun r => r.h != h) } } h
  | 7 =>
    match s.eng.copies.find? (fun k => match k.follow with | some a => a.h == h | none => false) with
    | some k => pushStopped (modCopy s k.id (fun k => { k with follow := none })) h
    | none => stopCmd s h
  | _ => s

/-- FCANCEL (R210). -/
def execFcancel (a : WReg) (s : State) : Out := run (do
  chk [(1, a)]
  let (c, _) ← me
  let t ← th
  let (v, p) ← peek a
  if p && !hCan v then
    upd (fun s => askStop (modFut (s.setW64 (regKey c t.wp a.val) (v ||| wordOf (2 ^ 24))) v (fun f => { f with can := true })) v)
  else pure ()
  fin 8) s

/-- FTIME (R211). -/
def execFtime (d a : WReg) (s : State) : Out := run (do
  chk [(0, d), (1, a)]
  let (c, sl) ← me
  let (_, p) ← peek a
  let v ← ask (fun s => tget 0 (s.slot c sl).ctime a.val)
  needDst d
  wr d (if p then 0 else v)
  fin 8) s

/-- FWAIT (R208). -/
def execFwait (a : WReg) (s : State) : Out := run (do
  chk [(1, a)]
  let (v, p) ← peek a
  if p && !hStop v then waitOn (.fwait a.val) else fin 8) s

/-- FUTURE_COMPLETION: completion `n` reaches the place of its handle (R40, R209, R210), in its place in the order of one ck (R50);
a store held at the register is performed at once after it (R41). -/
def execFutureCompletion (n : Nat) (s : State) : Out :=
  match s.eng.dones[n]? with
  | none => .next s
  | some d =>
    let s1 := dropFut { s with eng := { s.eng with dones := delAt s.eng.dones n } } d.h
    let s2 := s1.trace (cluOf (futCore d.h)) 0x04 (futCore d.h) (futSlot d.h) (futSrck d.h) 0 d.h d.v
    match s.fut d.h with
    | none => .next s2
    | some f =>
      let late := match f.loc with | .reg tid _ _ => lateFor s tid | .pair _ _ | .gone => false
      if late then .next s
      else .next ((reachFut s2 f (if f.can || d.stopped then .stop else .value d.v)).getD s)

end Sys2Proof.Machine
end

