-- ==== Sys2Proof/Machine/Message.lean ====
section
/-! DEFINITION. Messages, MAJ 0x18 (R44, R45, R167-R172): sending, arrival, masking, delivery and return. -/

namespace Sys2Proof.Machine

/-- MYTID (R167). -/
def execMytid (d : WReg) (s : State) : Out := run (do
  chk [(0, d)]
  needDst d
  let v ← ask (fun s => s.tid s.cur.core s.cur.slot)
  wr d v
  fin 8) s

/-- Whether a word has the form of a thread identifier of a compute core (R168). -/
def tidForm (w : Word) : Bool := fld w 60 4 == 0xA && fld w 0 29 == 0 && tidCore w < Config.nCores

/-- SEND (R168): the message leaves for the target core, after what the thread's fences publish (R95, R104); Wd awaits its status. -/
def execSend (d a b : WReg) (code : BitVec 16) (s : State) : Out := run (do
  chk [(0, d), (1, a), (2, b)]
  let x ← rd a
  let p ← rd b
  needDst d
  if tidForm x then pure () else outOfRange 21
  let (c, sl) ← me
  let ok ← ask (fun s => s.sameTenant c (tidCore x) && s.routed c (cluOf (tidCore x)))
  need ok 0x08 x
  fences
  upd (fun s => { s with eng := { s.eng with net := s.eng.net ++ [⟨x, ⟨s.tid c sl, p, code.toNat, 0⟩, some (s.tid c sl, d.val)⟩] } })
  finWait 8 .send) s

/-- The key of a spilled thread's shadow-frame image (R288), if its page translates. -/
def shadowImage (s : State) (x : Spilled) (off : Nat) : Option Nat :=
  let c := tidCore x.tid
  let base := (s.core c).savebase.toNat / 65536 * 65536
  match resolveEng s (s.tenantOf c) true .write (wordOf (base + 512 * x.entry + 0x180 + off)) with
  | .ok k => some k
  | .error _ => none

/-- The status of an arriving message (R168, R285); a report asks for no handler. (DEDUCED, log 31.) -/
def arrivalStatus (s : State) (m : NetMsg) : Nat :=
  let answer (n : Nat) (hvec : Word) : Nat := if 4 ≤ n then 2 else if m.status.isSome && hvec == 0 then 3 else 0
  if !tidForm m.dst then 1
  else
    match s.find m.dst with
    | some (c, sl) =>
      match s.thread c sl with
      | some t => answer t.held.length (s.hvec c sl)
      | none => 1
    | none =>
      match s.spilledOf m.dst with
      | some x => answer x.th.held.length (match shadowImage s x 0 with | some k => s.w64 k | none => 0)
      | none => 1

/-- A report that is not held counts as dropped at the cluster it comes from (R285). -/
def dropReport (s : State) (src : Word) : State :=
  let n := cluOf (tidCore src)
  let x := s.clu n
  s.setClu n { x with fltdrop := (x.fltdrop + 1) % 2 ^ 32 }

/-- Whether an earlier message bars message `n`: reports of one cluster arrive at a receiver in their order (R22, R285). -/
def netBarred (s : State) (n : Nat) (m : NetMsg) : Bool :=
  m.status.isNone && (s.eng.net.take n).any (fun x => x.status.isNone && x.dst == m.dst && cluOf (tidCore x.msg.src) == cluOf (tidCore m.msg.src))

/-- The status of a SEND reaches its sender, which re-enters (R35, R168). -/
def replySend (s : State) (tid : Word) (d st : Nat) : State :=
  match s.find tid with
  | some (c, sl) => setWait (s.setReg c sl d (wordOf st)) c sl .none
  | none => s

/-- Whether the router of the target's cluster admits a message (R310). -/
def netRouted (s : State) (m : NetMsg) : Bool := !tidForm m.dst || s.routed (tidCore m.msg.src) (cluOf (tidCore m.dst))

/-- A message that the router rejects (R310): its sender, which waits for the reply, takes the tenant-violation fault at its SEND; a report
is dropped. -/
def rejectMsg (s : State) (m : NetMsg) : State :=
  match m.status with
  | none => dropReport s m.msg.src
  | some (tid, _) =>
    match s.find tid with
    | some (c, sl) => takeTrap (s.modThread c sl (fun t => { t with pc := t.pc - 8, wait := .none })) c sl 0x08 m.dst
    | none => s

/-- MESSAGE_ARRIVAL: message `n` on its way reaches its target core (R44, R168, R285). -/
def execMessageArrival (n : Nat) (s : State) : Out :=
  match s.eng.net[n]? with
  | none => .next s
  | some m =>
    if netBarred s n m then .next s
    else
      let s1 := { s with eng := { s.eng with net := delAt s.eng.net n } }
      if !netRouted s m then .next (rejectMsg s1 m)
      else
      let st := arrivalStatus s m
      let msg := if m.status.isSome then { m.msg with stime := s.time } else m.msg
      let s2 := if st = 0 then s1.modTid m.dst (fun t => s1.touched (tidCore m.dst) 5 { t with held := t.held ++ [msg] }) else s1
      match m.status with
      | some (tid, d) => .next (replySend s2 tid d st)
      | none => .next (if st = 0 then s2 else dropReport s2 msg.src)

/-- Whether a message is deliverable to a thread, wherever it stands (R44, R170, R277). -/
def deliverable (s : State) (c sl : Nat) (t : Thread) : Bool :=
  !t.held.isEmpty && !t.kernel && !t.halted && !s.msk c sl && !s.inh c sl

/-- Whether a thread stands where a message can be delivered (R44, R170). -/
def atDelivery : Wait → Bool
  | .none | .pendReg _ | .pendWrite _ | .barrier .. | .tags | .msg | .sleep _ | .fwait _ | .align .. | .launchPlace _ | .arrayFull | .allPend | .migr => true
  | _ => false

/-- The PC a thread resumes at after a handler (R170): MWAIT and SLEEP end. -/
def resumePc (t : Thread) : Word :=
  match t.wait with
  | .msg | .sleep _ => t.pc + 8
  | _ => t.pc

/-- Delivers the oldest held message (R170): the shadow frame, the new frame and the handler's registers; or the fault
that keeps it held. -/
def deliverMsg (s : State) (c sl : Nat) (t : Thread) (m : Msg) : State :=
  let h := s.hvec c sl
  let pc := resumePc t
  let s0 := setWait s c sl .none
  if h = 0 || h.toNat % 32 != 0 || !canonical h then trapEntry s0 c sl 0x07 h pc t.pc
  else
    match openFrame s0 c sl 0 with
    | .error (cause, info) => trapEntry s0 c sl cause info pc t.pc
    | .ok s1 =>
      let put (s : State) (o : Nat) (v : Word) : State := s.setShadow c sl o v
      let s2 := put (put (put (put (put (put s1 0x10 pc) 0x18 (wordOf (t.repcnt % 128 * 256 + t.flags.bits.toNat))) 0x20 m.src) 0x28 m.stime) 0x30 m.pay) 0x38 (wordOf m.code)
      let s3 := put s2 0x08 (mst (s.mck c sl) true (s.msk c sl))
      match s3.thread c sl with
      | none => s3
      | some t1 =>
        let s4 := (((s3.setReg c sl 0 m.pay).setReg c sl 1 m.src).setReg c sl 2 (wordOf (m.code % 65536))).setReg c sl 3 m.stime
        let s5 := s4.trace (cluOf c) 0x0A c sl m.code 0 m.src m.stime
        let x := s5.slot c sl
        s5.setSlot c sl { x with
          cset := CopySet.zero,
          thread := some { t1 with held := t.held.drop 1, flags := Flags.zero, repcnt := 0, mdepth := t1.depth, wait := .none,
                                   pc := h + wordOf (32 * (m.code % 8)) } }

/-- MESSAGE_DELIVERY (R44, R170). -/
def execMessageDelivery (core slot : Nat) (s : State) : Out :=
  match s.thread core slot with
  | none => .next s
  | some t =>
    if deliverable s core slot t && atDelivery t.wait then
      match t.held with
      | m :: _ => .next (deliverMsg s core slot t m)
      | [] => .next s
    else .next s

/-- Whether a register's wait is over: the completion has come, or the future was cancelled (R41, R208, R210). -/
def regFree (s : State) (c : Nat) (t : Thread) (n : Nat) : Bool :=
  let h := s.reg c t n
  !t.pends n || hCan h || hStop h

/-- Whether a register may be written: the completion has come, or a cancelled future's engine has stopped (R41, R210). -/
def regOpen (s : State) (c : Nat) (t : Thread) (n : Nat) : Bool := !t.pends n || hStop (s.reg c t n)

/-- Whether a thread has re-entered the rotation, or its event has come so that it re-enters now (R35, R41). A wait that only its
instruction can test, issued again, is no answer here. -/
def reentered (s : State) (c : Nat) (t : Thread) : Bool :=
  match t.wait with
  | .none => true
  | .pendReg n | .fwait n => regFree s c t n
  | .pendWrite n => regOpen s c t n
  | .store k n => !storeWaits s k n
  | .launchPlace pri => decide ((s.queue (1016 + pri)).dev.length < 1024)
  | .allPend => t.pend == 0
  | .tags | .flush | .arrayFull | .migr
  | .reply | .vector | .barrier .. | .msg | .send | .sleep _ | .align .. | .pin | .sweep | .array | .spillReq => false

/-- The ck elapsed in the open masked section of a thread of core `c` (R45, R277). (DEDUCED, log 30.) -/
def maskCk (s : State) (c : Nat) (t : Thread) : Nat := s.ckOf c - t.maskAt

/-- Whether the overrun fault of a thread's masked section is due (R45). -/
def overrunDue (s : State) (c sl : Nat) (t : Thread) : Bool := s.msk c sl && !t.overran && !t.kernel && !t.halted && 256 < maskCk s c t

/-- The overrun fault (R45): once for a section, with the mask still set. -/
def takeOverrun (s : State) (c sl : Nat) : State :=
  takeTrap (s.modThread c sl (fun t => { t with overran := true, wait := .none })) c sl 0x11 0

/-- Whether the overrun fault that is due ends a thread's wait: an MWAIT's, which nothing else ends while the mask is set (R172). -/
def overrunEnds (s : State) (c sl : Nat) (t : Thread) : Bool := t.wait == .msg && overrunDue s c sl t

/-- MESSAGE_MASK_OVERRUN (R45): at the next issue, or at re-entry of a thread that waits. -/
def execMessageMaskOverrun (core slot : Nat) (s : State) : Out :=
  match s.thread core slot with
  | none => .next s
  | some t => .next (if overrunDue s core slot t && (reentered s core t || overrunEnds s core slot t) then takeOverrun s core slot else s)

/-- MCK of an open masked section follows the core's clock since `s0`; ck in kernel mode do not count (R169, R277). -/
def tickMask (s0 s : State) (c sl : Nat) (t : Thread) : State :=
  if s.msk c sl then
    let t1 := if t.kernel then { t with maskAt := t.maskAt + (s.ckOf c - s0.ckOf c) } else t
    (s.setThread c sl (some t1)).setShadow c sl 0x08 (mst (maskCk s c t1) (s.inh c sl) true)
  else s

/-- MCK of every open masked section. -/
def tickMasks (s0 s : State) : State :=
  s.slots.foldl (fun s p => match s.thread (p.1 / 16) (p.1 % 16) with | some t => tickMask s0 s (p.1 / 16) (p.1 % 16) t | none => s) s

/-- MRET (R171). (DEDUCED, log 38.) TRAPINFO of its protection fault is 0. (DESIGN CHOICE, log 117.) -/
def execMret (s : State) : Out := run (do
  let (c, sl) ← me
  let t ← th
  let inh ← ask (fun s => s.inh c sl)
  need inh 0x07 0
  let spc ← ask (fun s => s.shadow c sl 0x10)
  let w ← ask (fun s => s.shadow c sl 0x18)
  checkTarget spc
  let r ← ask (fun s => closeTo s c sl t (t.mdepth - 2))
  match r with
  | .error (cause, info) => trap cause info
  | .ok s1 =>
    upd (fun _ => s1)
    upd (fun s =>
      let s1 := s.setShadow c sl 0x08 (mst (s.mck c sl) false (s.msk c sl))
      let gone (f : Fut) : Bool := match f.loc with
        | .reg tid (some j) _ => tid == s.tid c sl && t.mdepth - 2 < j
        | _ => false
      let x := s1.slot c sl
      { s1.setSlot c sl { x with cset := CopySet.zero, thread := x.thread.map (fun t => { t with
          pc := spc, flags := Flags.ofBits (BitVec.ofNat 4 (w.toNat % 16)), repcnt := fld w 8 7, mdepth := 0 }) } with
        eng := { s1.eng with futs := s1.eng.futs.map (fun f => if gone f then { f with loc := .gone } else f) } })) s

/-- MMASK (R172). -/
def execMmask (s : State) : Out := run (do
  let (c, sl) ← me
  let _ ← th
  upd (fun s =>
    if s.msk c sl then s
    else (s.setShadow c sl 0x08 (mst 0 (s.inh c sl) true)).modThread c sl (fun t => { t with maskAt := s.ckOf c, overran := false }))
  fin 8) s

/-- MUNMASK (R172). MCK, which R169 gives a meaning in an open section only, becomes 0. (DESIGN CHOICE, log 118.) -/
def execMunmask (s : State) : Out := run (do
  let (c, sl) ← me
  let _ ← th
  upd (fun s => if s.msk c sl then s.setShadow c sl 0x08 (mst 0 (s.inh c sl) false) else s)
  fin 8) s

/-- MWAIT (R172): the thread waits until a message is deliverable, which delivery then ends (R170). -/
def execMwait (s : State) : Out := run (do
  let _ ← th
  waitOn .msg) s

end Sys2Proof.Machine
end

