-- ==== Sys2Proof/Machine/Park.lean ====
section
/-! DEFINITION. Migration, MAJ 0x3C (R260, R261), and parking, MAJ 0x3D (R264-R269). -/

namespace Sys2Proof.Machine

/-! Migration. -/

/-- The module and core at a location's ordering point (R88, R260): none for CXL memory and device registers, and where no part stands. -/
def ownerOf (modid k : Nat) : Option (Nat × Nat) :=
  let local_ (m k : Nat) : Option (Nat × Nat) :=
    match placeOf k with
    | .sram c _ => if c < Config.nCores then some (m, c) else none
    | .hbm p => some (m, p)
    | _ => none
  match placeOf k with
  | .remote m lpa => local_ m (directOf lpa)
  | _ => local_ modid k

/-- The narrowest scope that holds two cores (R94). -/
def scopeHolding (m c m' c' : Nat) : Scope :=
  if m != m' then .dom else if c = c' then .core else if cluOf c = cluOf c' then .clu else if c / 128 = c' / 128 then .stk else .pkg

/-- The location whose owner MIGR names: translated as a read, and no access (R260). -/
def migrLocate (ea : Word) : M Nat := do
  need (canonical ea) 0x07 ea
  let (c, _) ← me
  let t ← th
  if ea.toNat / 2 ^ 56 % 2 = 1 then
    need (Config.flatBase ≤ ea.toNat && ea.toNat < Config.flatBase + Config.nCores * Config.windowBytes) 0x07 ea
    pure (Config.sramBase + (ea.toNat - Config.flatBase))
  else
    let slot ← ask (fun s => s.slotOfCore c)
    match slot with
    | none => trap 0x08 ea
    | some slot =>
      let r ← step1 (fun s => translate s c slot ea.toNat (!t.kernel) false .read)
      match r with
      | .bad cause info _ => trap cause info
      | .ok pa _ => ask (fun s => keyOf s.modid pa)

/-- The target of MIGR as TRAPINFO of its first check names it (R259): none where naming it would fault. -/
def migrTarget (v : Word) : M (Option (Nat × Nat)) := fun s =>
  match migrLocate v s with
  | .ok (k, _) => .ok (ownerOf s.modid k, s)
  | .error _ => .ok (none, s)

/-- The checks of R260 that come before its target is looked at; the block base is that of the thread's first frame, which R42 asks for.
`t` is the target core for TRAPINFO. (DEDUCED, log 55, log 116.) -/
def migrHere (t : Nat) : M Unit := do
  let (c, sl) ← me
  let p ← th
  let s ← ask id
  need (!(s.core c).wide) 0x0A (clInfo 0 0 t 0)
  need (p.wp == p.base && p.depth == 1) 0x07 (clInfo 7 0 0 0)
  need (!s.msk c sl && !s.inh c sl) 0x07 (clInfo 9 0 0 0)

/-- The checks of R260 on a target core of a module. -/
def migrThere (v : Word) (m t : Nat) : M Unit := do
  let (c, _) ← me
  let s ← ask id
  need (if m = s.modid then s.sameTenant c t else s.inPartition c m) 0x08 v
  need (m != s.modid || !(s.core t).wide) 0x0A (clInfo 0 0 t 0)

/-- The flit of the thread in a slot (R261), as a creation on core `t` that acquires at `sc`. Where the boundary at `sc` does not cover, the
thread's view goes with it (R89, R92). -/
def flitOf (s : State) (c sl t : Nat) (p : Thread) (sc : Scope) : Creation :=
  { core := t, entry := p.pc + 8, regs := (List.range 16).map (fun r => (r, s.reg c p r)), bsize := p.size, acq := some sc, env := none,
    origin := p.origin, cell := none,
    flit := some ⟨s.tid c sl, wordOf (p.flags.bits.toNat + p.vl * 16 + p.rmode.code * 2 ^ 17 + p.iflags.toNat * 2 ^ 20), p.k, s.hvec c sl,
      (List.range 8).map (fun i => s.shadow c sl (0x40 + 8 * i)),
      s.tenantOf c, p.floors.leave c, (endPhase c sc p).pins, (endPhase c sc p).views, p.seen.filter (fun x => !covers sc c (64 * x.1)),
      (p.stale ++ p.wrote).eraseDups.filter (fun l => !covers sc c (64 * l))⟩ }

/-- Frees a migrating thread's landing buffer (R242). -/
def leaveBuffer (s : State) (o : Origin) : State :=
  match o with
  | .tile sw t => modSweep s sw (fun w => { w with bodies := w.bodies.map (fun b => if b.tile == t then { b with holdsBuf := false } else b) })
  | _ => s

/-- The thread of a slot leaves for its new core: its tags, first frame, slot and block are free (R206, R254, R260), and the module notes
where its buffered stores stand (R91). -/
def departs (s : State) (c sl m t : Nat) (p : Thread) (sc : Scope) : State :=
  let r := flitOf s c sl t p sc
  let id := s.tid c sl
  let s1 := leaveBuffer (orphanTags (endFrames (noteTrail s id ((c, id) :: p.left)) c sl) c id) p.origin
  let s2 := s1.setSlot c sl { s1.slot c sl with thread := none, cset := CopySet.zero, ctime := [], upend := 0, uwp := 0, trep := 0, tfl := 0 }
  if m = s.modid then { s2 with eng := { s2.eng with flits := s2.eng.flits ++ [r] } }
  else { s2 with eng := { s2.eng with flitsOut := s2.eng.flitsOut ++ [(m, r)] } }

/-- A migration to core `t` of module `m`, after the checks before (R260): a NOP where the thread already is. -/
def migrate (v : Word) (m t : Nat) : M Unit := do
  migrThere v m t
  let (c, sl) ← me
  let p ← th
  let own ← ask (fun s => s.modid)
  if m = own && t = c then fin 8
  else
    if p.pend != 0 then waitOn .allPend else pure ()
    let busy ← ask (fun s => s.eng.copies.any (fun k => k.packet.isNone && k.tid == s.tid c sl))
    if busy then waitOn .migr else pure ()
    let sc := scopeHolding own c m t
    release sc
    upd (fun s => departs s c sl m t p sc)

/-- MIGR (R260). -/
def execMigr (a : WReg) (s : State) : Out := run (do
  chk [(1, a)]
  let v ← rd a
  let x ← migrTarget v
  migrHere ((x.map (fun p => p.2)).getD 0)
  let k ← migrLocate v
  let o ← ask (fun s => ownerOf s.modid k)
  match o with
  | none => trap 0x07 (clInfo 8 0 0 0)
  | some (m, t) => migrate v m t) s

/-- MIGRTO (R260). -/
def execMigrto (a : WReg) (s : State) : Out := run (do
  chk [(1, a)]
  let v ← rd a
  let t := fld v 0 11
  migrHere t
  need (fld v 21 43 == 0 && t < Config.nCores) 0x07 (clInfo 8 0 t 0)
  migrate v (fld v 11 10) t) s

/-- MIGRATION_FLIT: flit `n` arrives, and its thread is created on the target core when that has a place (R36, R261), where the router of its
cluster admits it (R310). -/
def execMigrationFlit (n : Nat) (s : State) : Out :=
  match s.eng.flits[n]? with
  | none => .next s
  | some r =>
    let s1 := { s with eng := { s.eng with flits := delAt s.eng.flits n } }
    if !r.admitted s1 then .next (rejectCreation s1 r)
    else
    match performCreation s1 r with
    | some (s2, _) => .next s2
    | none => .next { s1 with eng := { s1.eng with creations := s1.eng.creations ++ [r] } }

/-! Parking (R264). -/

/-- PARK (R264): the checks at issue; the thread goes on. -/
def execPark (d a : WReg) (k : KReg) (e : WReg) (npM1 : BitVec 6) (cls : Fin 8) (r : OrdScope) (s : State) : Out := run (do
  chk [(0, d), (1, a), (3, e)]
  let (c, _) ← me
  let h ← rdK k
  let list ← rd a
  let cell ← rd e
  needDst d
  need (list.toNat % 8 = 0) 0x05 list
  need (cell.toNat % 8 = 0) 0x05 cell
  hdlCheck k.val h
  let w1 ← ask (fun s => hdlWord1 s h)
  need (pRmask w1 == 0) 0x0B (hdlInfo 4 k.val h)
  let low ← ask (fun s => capturedAbove s h 0)
  need (low != some 0) 0x07 (clInfo 10 k.val (hdlCore h) 0)
  let n ← ask (fun s => s.nregs c)
  hdlRegs h n
  cmdFence r
  let f ← newFuture 5 d
  let p ← th
  upd (fun s => { s with eng := { s.eng with parks := s.eng.parks ++ [{
    tid := s.tid s.cur.core s.cur.slot, core := c, kernel := p.kernel, tenant := s.tenantOf c, h := f, o := r, list := list, np := npM1.toNat + 1,
    cls := cls.val, cellVa := cell, env := h, bsize := p.size, wide := (s.core c).wide }] } })
  fin 16) s

/-- HOME of a PGA (R66). -/
def pgaHome (a : Word) : Nat := fld a 37 11

/-- The HBM frame of a page of the PGA range that is mapped as a 64-KiB page of the channel-direct view of its HOME's pseudo-channel (R66,
R264). -/
def homeFrame (s : State) (slot : Nat) (a : Word) : Option Nat :=
  match walk s slot a.toNat with
  | .error _ => none
  | .ok (e, lv) =>
    let lo := Config.directBase + pgaHome a * Config.channelBytes
    if a.toNat / 2 ^ 50 = 1 && lv = 4 && lo ≤ entryAddr e && entryAddr e < lo + Config.channelBytes then some (entryAddr e) else none

/-- Whether a park holds a frame (R264). -/
def frameHeld (s : State) (f : Nat) : Bool :=
  s.eng.cells.any (fun p => match p.2.park with | some k => k.pages.any (fun g => g.frame == f) | none => false)
  || s.eng.failing.any (fun p => p.2.pages.any (fun g => g.frame == f))

/-- The wake cell an address of a tenant slot leads to (R262); the escrow engine passes ESC (R304). -/
def cellOf (s : State) (slot : Nat) (kernel : Bool) (a : Word) : Option Nat :=
  if !canonical a || a.toNat / 2 ^ 56 % 2 = 1 then none
  else
    match walk s slot a.toNat with
    | .error _ => none
    | .ok (e, lv) =>
      match flagCheck e lv a.toNat (!kernel) true .write with
      | .bad _ _ _ => none
      | .ok pa _ =>
        match placeOf (keyOf s.modid pa) with
        | .dev o => if cellBase ≤ o && o < cellBase + 8 * 65536 then some ((o - cellBase) / 8) else none
        | _ => none

/-- What the escrow engine reads of a park's page list (R264, R304). -/
def parkList (s : State) (r : ParkReq) : Except (Nat × Word × Nat) (List Byte) :=
  readBy s (resolveFrom s ⟨r.tenant, r.kernel, r.core, tidSlot r.tid, true⟩ .read) r.list (8 * r.np)

/-- The checks of acceptance in their order (R264): the REASON of a refusal, or pages and cell. (DEDUCED, log 54.) -/
def parkCheck (s : State) (r : ParkReq) : Except Nat (List Page × Nat) :=
  match s.tenSlot r.tenant with
  | none => .error 8
  | some slot =>
    match parkList s r with
    | .error _ => .error 8
    | .ok bs => do
      let pgas := wordsOf r.np bs
      if pgas.any (fun a => fld a 0 16 != 0 || Config.nCores ≤ pgaHome a) || pgas.eraseDups.length != pgas.length then .error 1
      let fs := pgas.map (fun a => (a, homeFrame s slot a))
      if fs.any (fun p => p.2.isNone) then .error 2
      let pages : List Page := fs.map (fun p => ⟨p.1, p.2.getD 0, .hbm, none, none, []⟩)
      if pages.any (fun g => frameHeld s g.frame) then .error 3
      match cellOf s slot r.kernel r.cellVa with
      | none => .error 4
      | some n =>
        let st := (s.cell n).state
        if !(st = 0 || st = 1 || st = 8) then .error 4
        if 65536 ≤ (s.eng.cells.filter (fun p => p.2.park.isSome)).length then .error 5
        if (s.core (pgaHome (dsc pgas 0))).wide != r.wide then .error 6
        if !hdlCurrent s r.env then .error 9
        if hdlFull s r.env then .error 7
        .ok (pages, n)

/-- An accepted park (R264, R265, R267): its pages are held, and an early wake acts at once. -/
def acceptPark (s : State) (r : ParkReq) (pages : List Page) (n : Nat) : State :=
  let x := s.cell n
  let early := x.state = 1
  let w := s.ecls r.cls
  let s1 := pages.foldl (fun s g => setEsc s r.tenant g.va true) (takeCount s r.env)
  let home := match pages with | g :: _ => pgaHome g.va | [] => 0
  let p : Park := ⟨r.env, pages, r.bsize, r.tenant, r.core, r.tid, home, fld w 0 32, fld w 32 32, s.time, 0, false⟩
  let s2 := s1.setCell n { x.goto s1 2 with cls := r.cls, npg := pages.length - 1, kept := 0, park := some p }
  let s3 := pushDone s2 r.h (wordOf ((if early then 3 else 1) * 2 ^ 60 + n))
  if early then wakeWrite s3 n x.kept else s3

/-- A park is refused (R264), with the index of the cell, 0 where E leads to none; a translation or poison fault of its page list is recorded
and reported with it (R286). (DEDUCED, log 54.) -/
def refusePark (s : State) (r : ParkReq) (reason : Nat) : State :=
  let n := ((s.tenSlot r.tenant).bind (fun slot => cellOf s slot r.kernel r.cellVa)).getD 0
  let s1 := pushDone s r.h (wordOf (2 * 2 ^ 60 + reason * 2 ^ 52 + n))
  match parkList s r with
  | .error (cause, _, _) =>
    engFault s1 r.core (tidSlot r.tid) r.tid cause 4 (wordOf n) r.list
  | .ok _ => s1

/-- PARK_ACCEPTANCE: the escrow engine acquires, then accepts or refuses park `n` (R264); what is buffered under the translations that
acceptance drops is performed first (R308). -/
def execParkAcceptance (n : Nat) (s : State) : Out :=
  match s.eng.parks[n]? with
  | none => .next s
  | some r =>
    let (s0, stuck) := forceFences s r.core r.tid
    if stuck then .next s
    else
      let s1 := { s0 with eng := { s0.eng with parks := delAt s0.eng.parks n } }
      match parkCheck s1 r with
      | .error reason => .next (refusePark s1 r reason)
      | .ok (pages, c) =>
        let (s2, held) := forceCores s1 (fun x => s1.tenantOf x == r.tenant)
        .next (if held then s else acceptPark s2 r pages c)

/-! Wake cells by instruction (R266, R269). -/

/-- WAKEW (R269). -/
def execWakew (a b : WReg) (r : OrdScope) (s : State) : Out := run (do
  chk [(1, a), (2, b)]
  let x ← rd a
  let v ← rd b
  let k ← locate .rmw x 8 8
  need (isCell k) 0x07 x
  atomicStore x 8 v.toNat r
  finWait 8 .reply) s

/-- ESTAT (R266). -/
def execEstat (d a : WReg) (s : State) : Out := run (do
  chk [(0, d), (1, a)]
  let x ← rd a
  needDst d
  let k ← locate .read x 8 8
  need (isCell k) 0x07 x
  let v ← loadAt x 8
  wrLate d (wordOf v)
  finWait 8 .reply) s

end Sys2Proof.Machine
end

