-- ==== Sys2Proof/Machine/Ring.lean ====
section
/-! DEFINITION. The Assay controls of a cluster and its ring of trace records (R356-R358). -/

namespace Sys2Proof.Machine

/-- A store to ACTL (R356): ON from 0 to 1 clears ADROP; ON 0 discards what is staged. -/
def writeActl (s : State) (n : Nat) (v : Word) : State :=
  let x := s.clu n
  let nv := v &&& 0x1F9
  s.setClu n { x with actl := nv, adrop := if bit nv 0 && !bit x.actl 0 then 0 else x.adrop, staging := if bit nv 0 then x.staging else [] }

/-- A store to ARBASE (R356). -/
def writeArbase (s : State) (n : Nat) (v : Word) : State :=
  let x := s.clu n
  if bit x.actl 0 then s else s.setClu n { x with arbase := v &&& 0x00FFFFFFFFFF001F }

/-- A store to ARHEAD (R358). -/
def writeArhead (s : State) (n : Nat) (v : Word) : State :=
  let x := s.clu n
  let h := v.toNat % 2 ^ 32
  if (h + 2 ^ 32 - x.arhead) % 2 ^ 32 ≤ (x.artail + 2 ^ 32 - x.arhead) % 2 ^ 32 then s.setClu n { x with arhead := h } else s

/-- The key of a record of a cluster's ring (R357). -/
def ringKey (s : State) (n k : Nat) : Nat :=
  let a := (s.clu n).arbase
  keyOf s.modid (fld a 16 40 * 65536 + 32 * (k % 2 ^ fld a 0 5))

/-- A record of a cluster's ring. -/
def ringGet (s : State) (n k : Nat) : TraceRec :=
  let a := ringKey s n k
  ⟨s.w64 a, s.w64 (a + 8), s.w64 (a + 16), s.w64 (a + 24)⟩

/-- Performs a record at its place in a cluster's ring. -/
def ringPut (s : State) (n k : Nat) (r : TraceRec) : State :=
  s.put (ringKey s n k) (leBytes 8 r.w0.toNat ++ leBytes 8 r.w1.toNat ++ leBytes 8 r.w2.toNat ++ leBytes 8 r.w3.toNat)

/-- Moves the oldest staged record of a cluster to its ring (R357, R358). -/
def ringWrite (s : State) (n : Nat) : State :=
  let x := s.clu n
  match x.staging with
  | [] => s
  | r :: rest =>
    let full := 2 ^ fld x.arbase 0 5 ≤ (x.artail + 2 ^ 32 - x.arhead) % 2 ^ 32
    let g := gapMerge (ringGet s n x.arhead) (ringGet s n (x.arhead + 1))
    let s1 := if full then ringPut s n ((x.arhead + 1) % 2 ^ 32) g.1 else s
    (ringPut s1 n x.artail r).setClu n { x with
      staging := rest, artail := (x.artail + 1) % 2 ^ 32, arhead := if full then (x.arhead + 1) % 2 ^ 32 else x.arhead,
      adrop := if full then (x.adrop + g.2) % 2 ^ 32 else x.adrop }

/-- ACTL_WRITE (R356). -/
def execActlWrite (clu : Nat) (v : Word) (s : State) : Out := .next (if clu < Config.nClusters then writeActl s clu v else s)

/-- ARHEAD_WRITE (R358). -/
def execArheadWrite (clu : Nat) (v : Word) (s : State) : Out := .next (if clu < Config.nClusters then writeArhead s clu v else s)

/-- TRACE_RECORD_WRITE (R357, R358): the Assay unit performs the oldest staged record. -/
def execTraceRecordWrite (clu : Nat) (s : State) : Out := .next (ringWrite s clu)

end Sys2Proof.Machine
end

