-- ==== Sys2Proof/Machine/Spill.lean ====
section
/-! DEFINITION. The spill engine (R287-R293, R291): save records, SPILLSLOT and FILLSLOT. -/

namespace Sys2Proof.Machine

/-! Save records (R288, R289). -/

/-- NREC of a core. -/
def nrec (s : State) (c : Nat) : Nat := fld (s.core c).savebase 0 16

/-- The address of a pool entry (R288). -/
def entryVa (s : State) (c e : Nat) : Word := wordOf ((s.core c).savebase.toNat / 65536 * 65536 + 512 * e)

/-- The control word of FLAGS, VL, RMODE, IFLAGS, REPCNT and WIDE (R289). -/
def ctlWord (t : Thread) (wide : Bool) : Word :=
  wordOf (t.flags.bits.toNat + t.vl * 16 + t.rmode.code * 2 ^ 17 + t.iflags.toNat * 2 ^ 20 + t.repcnt % 128 * 2 ^ 25 + bitNat wide * 2 ^ 32)

/-- BBASE, BSIZE and WP of a record (R289). -/
def placeWord (t : Thread) : Word := wordOf (t.base * 2 ^ 32 + t.size * 65536 + t.wp)

/-- The control block of a record (R289). -/
def controlBlock (t : Thread) (wide : Bool) (tid : Word) (vbusy : Bool) : List Word :=
  [t.pc, ctlWord t wide, wordOf t.pend.toNat, placeWord t] ++ t.k.toList ++ [tid, wordOf (bitNat vbusy), 0, 0, 0, 0, 0, 0]

/-- The bytes of words. -/
def bytesOfWords (ws : List Word) : List Byte := ws.flatMap (fun w => leBytes 8 w.toNat)

/-! Spilling (R290, R291). -/

/-- Whether a thread stands at a spill point (R291). (DEDUCED, log 57.) -/
def spillPoint (s : State) (c sl : Nat) (t : Thread) : Bool :=
  t.halted || (!t.kernel && (!s.msk c sl || t.overran) &&
    (match t.wait with
      | .reply | .send | .sweep | .array | .pin | .flush | .spillReq => false
      | _ => true))

/-- The vector command of a thread in a core's pipe (R183). -/
def vectorOf (s : State) (c : Nat) (tid : Word) : Option VCmd :=
  match (s.core c).vrun with
  | some v => if v.tid == tid then some v else (match (s.core c).vq with | some u => if u.tid == tid then some u else none | none => none)
  | none => none

/-- The context a spill saves: the user context of the last entry for a halted thread (R290), and for a running vector
instruction the PC and REPCNT after it (R183), also where its thread's record was edited since the instruction issued (DESIGN CHOICE,
log 127). The boundary at PACKAGE ends its phase for what that scope covers (R92, R292). -/
def savedContext (s : State) (c sl : Nat) (t : Thread) : Thread :=
  let x := s.slot c sl
  let u := s.touched c 4 { endPhase c .pkg t with wait := .none, halted := false }
  if t.halted && t.kernel then { u with pc := x.trappc, flags := Flags.ofBits x.tfl, repcnt := x.trep, wp := x.uwp, pend := x.upend, kernel := false }
  else
    match vectorOf s c (s.tid c sl) with
    | some v => { u with pc := v.next.1, repcnt := v.next.2 }
    | none => u

/-- Writes the record and the shadow image of a thread to a pool entry (R290). -/
def writeRecord (s : State) (c sl e : Nat) (t : Thread) (vbusy : Bool) : Option State :=
  let res := resolveEng s (s.tenantOf c) true .write
  let rec_ := bytesAt s.mem (winKey c t.wp) (s.frameRegs c) ++ bytesOfWords (controlBlock t (s.core c).wide (s.tid c sl) vbusy)
  match writeBy s res (entryVa s c e) rec_ with
  | .error _ => none
  | .ok s1 =>
    match writeBy s1 res (entryVa s c e + 0x180) (bytesAt s.mem (winKey c (shadowOff sl)) 128) with
    | .error _ => none
    | .ok s2 => some s2

/-- Frees the slot of a spilled thread and enters it in the core's spill table (R287, R290). -/
def leaveSlot (s : State) (c sl e : Nat) (t : Thread) (vbusy : Bool) : State :=
  let x := s.slot c sl
  let k := s.core c
  let y : Spilled := ⟨t, s.tid c sl, sl, e, vbusy, 0⟩
  let leaves (v : VCmd) : VCmd := if v.tid == s.tid c sl then { v with away := true } else v
  (s.setCore c { k with spilled := k.spilled ++ [y], vrun := k.vrun.map leaves, vq := k.vq.map leaves }).setSlot c sl { x with
    thread := none, cset := CopySet.zero, ctime := [], upend := 0, uwp := 0, trep := 0, tfl := 0 }

/-- The spill engine answers its asker, which re-enters past its instruction (R290). -/
def answerSpill (s : State) (r : SpillReq) (v : Nat) : State :=
  (s.setReg r.askCore r.askSlot r.reg (wordOf v)).modThread r.askCore r.askSlot (fun t => { t with wait := .none, pc := t.pc + 8 })

/-! Filling (R293). -/

/-- A context with the values a record gives it (R289), and the flags its record could not take (R76). -/
def filledContext (s : State) (x : Spilled) (ws : List Word) : Thread :=
  let w := dsc ws 1
  { x.th with
    pc := dsc ws 0, flags := Flags.ofBits (BitVec.ofNat 4 (fld w 0 4)), vl := fld w 4 13, rmode := RMode.ofCode (fld w 17 3),
    iflags := BitVec.ofNat 5 (fld w 20 5) ||| x.owed, repcnt := fld w 25 7, wait := if x.vbusy then .vector else .none,
    floors := Floors.at x.th.floors .pkg s.now }

/-- Whether a record's RO fields equal the spill table's copy (R293). -/
def roEqual (x : Spilled) (wide : Bool) (ws : List Word) : Bool :=
  let own := controlBlock x.th wide x.tid x.vbusy
  fld (dsc ws 1) 32 32 == bitNat wide && (ws.drop 2) == (own.drop 2)

/-- Whether a record's RW fields can be restored (R293). -/
def rwOk (ws : List Word) : Bool :=
  let w := dsc ws 1
  fld w 17 3 ≤ 4 && fld w 4 13 ≤ 4096 && fld w 25 7 ≤ 64 && targetOk (dsc ws 0)

/-- Restores a spilled thread in its slot (R293). -/
def fillIn (s : State) (c sl : Nat) (x : Spilled) (regs : List Byte) (ws : List Word) (image : List Byte) : State :=
  let k := s.core c
  let s1 := { s with mem := setBytes (setBytes s.mem (winKey c x.th.wp) regs) (winKey c (shadowOff sl)) image }
  let s2 := s1.setCore c { k with spilled := k.spilled.filter (fun y => y.tid != x.tid) }
  s2.setSlot c sl { s2.slot c sl with thread := some (filledContext s x ws) }

/-- Ends a thread as ERET.END does, once its release has performed what it must (R294): none while a store of it must wait (R41). -/
def endFilled (s : State) (c sl : Nat) : Option State :=
  let (s1, stuck) := releaseBy s c (s.tid c sl) .pkg
  if stuck then none else some (retire s1 c sl false (fld (s1.slot c sl).trapcause 0 8))

/-- FILLSLOT's result, with the state it leaves (R293): none while the release of FILLSLOT.END must wait, and while its thread would take
the place that an aged tile waits for (R239; DEDUCED, log 115). `own` says that the slot is the
issuing one, which R290 refuses. (DEDUCED, log 58.) -/
def fillResult (s : State) (own : Bool) (c sl e : Nat) (ending : Bool) : Option (Nat × State) :=
  let n := s.frameRegs c
  let res := resolveEng s (s.tenantOf c) true .read
  if Config.nCores ≤ c || s.nslots c ≤ sl || own then some (3, s)
  else if nrec s c ≤ e then some (4, s)
  else
    match readBy s res (entryVa s c e) (n + 128), readBy s res (entryVa s c e + 0x180) 128 with
    | .ok bs, .ok image =>
      let ws := wordsOf 16 (bs.drop n)
      match (s.core c).spilled.find? (fun x => x.tid == dsc ws 8 && x.slot == sl) with
      | none => some (7, s)
      | some x =>
        if !roEqual x (s.core c).wide ws then some (7, s)
        else if !rwOk ws then some (8, s)
        else if (s.thread c sl).isSome then some (2, s)
        else
          let s1 := fillIn s c sl x (bs.take n) ws image
          if heldForTile s1 c && !heldForTile s c then none
          else if ending then (endFilled s1 c sl).map (fun s2 => (0, s2)) else some (0, s1)
    | _, _ => some (5, s)

/-! The spill engine (R287, R290, R293): requests in the order in which they reach it. -/

/-- A request leaves the engine's queue with its answer. -/
def served (s : State) (core : Nat) (r : SpillReq) (v : Nat) : State :=
  answerSpill (s.setCore core { s.core core with spillQ := (s.core core).spillQ.drop 1 }) r v

/-- The engine serves a SPILLSLOT request (R290): it answers, or takes the thread at its spill point (R291), in its place in the order of
one ck (R50). -/
def serveSpill (s : State) (core : Nat) (r : SpillReq) : State :=
  match s.thread core r.slot with
  | none => served s core r 1
  | some t =>
    if nrec s core ≤ r.entry then served s core r 4
    else if 64 ≤ (s.core core).spilled.length then served s core r 6
    else if !spillPoint s core r.slot t || s.tooLate core t 4 then s
    else
      let (s1, stuck) := releaseBy s core (s.tid core r.slot) .pkg
      if stuck then s
      else
        let u := savedContext s1 core r.slot t
        let vb := (vectorOf s1 core (s1.tid core r.slot)).isSome
        match writeRecord s1 core r.slot r.entry u vb with
        | none => served s1 core r 5
        | some s2 => served (leaveSlot s2 core r.slot r.entry u vb) core r 0

/-- SPILL: the spill engine of a core serves the request at the head of its queue, if it names the slot. -/
def execSpill (core slot : Nat) (s : State) : Out :=
  match (s.core core).spillQ with
  | [] => .next s
  | r :: _ =>
    if r.slot != slot then .next s
    else
      match r.fill with
      | none => .next (serveSpill s core r)
      | some ending =>
        match fillResult s false core r.slot r.entry ending with
        | some (v, s1) => .next (served s1 core r v)
        | none => .next s

/-- The core, slot and entry that SPILLSLOT and FILLSLOT name (R290). -/
def spillArgs (a b : WReg) : M (Nat × Nat × Nat) := do
  let x ← rd a
  let y ← rd b
  if fld x 15 49 != 0 then outOfRange 21 else pure ()
  pure (fld x 0 11, fld x 11 4, y.toNat)

/-- A request goes to the spill engine of core `c`, and its asker waits for the answer (R287). -/
def askEngine (c : Nat) (r : SpillReq) : M Unit := do
  upd (fun s => s.setCore c { s.core c with spillQ := (s.core c).spillQ ++ [r] })
  waitOn .spillReq

/-- SPILLSLOT (R290): the request goes to the core's spill engine. -/
def execSpillslot (d a b : WReg) (s : State) : Out := run (do
  chk [(0, d), (1, a), (2, b)]
  let (c, sl, e) ← spillArgs a b
  needDst d
  let (mc, ms) ← me
  let bad ← ask (fun s => Config.nCores ≤ c || s.nslots c ≤ sl || (c = mc && sl = ms))
  if bad then do
    wr d 3
    fin 8
  else askEngine c ⟨none, mc, ms, d.val, sl, e⟩) s

/-- FILLSLOT, with or without END (R293): at once where the engine has no earlier request, and else in its turn. -/
def fillslot (ending : Bool) (d a b : WReg) : M Unit := do
  chk [(0, d), (1, a), (2, b)]
  let (c, sl, e) ← spillArgs a b
  needDst d
  let (mc, ms) ← me
  let own := c = mc && sl = ms
  let busy ← ask (fun s => c < Config.nCores && sl < s.nslots c && !own && !(s.core c).spillQ.isEmpty)
  let r ← ask (fun s => if busy then none else fillResult s own c sl e ending)
  match r with
  | none => askEngine c ⟨some ending, mc, ms, d.val, sl, e⟩
  | some (v, s1) => do
    upd (fun _ => s1)
    wr d (wordOf v)
    finWait 8 .reply

def execFillslot (d a b : WReg) (s : State) : Out := run (fillslot false d a b) s
def execFillslotEnd (d a b : WReg) (s : State) : Out := run (fillslot true d a b) s

end Sys2Proof.Machine
end

