-- ==== Sys2Proof/Machine/System.lean ====
section
/-! DEFINITION. Traps, returns, system registers and translation control, MAJ 0x3F (R279-R297, R308, R374). -/

namespace Sys2Proof.Machine

/-! Traps and returns (R281, R294, R297). -/

/-- The forms that trap (R297): the handler returns to the next instruction. -/
def trapForm (cause : Nat) (code : BitVec 16) : M Unit := do
  let (c, sl) ← me
  let t ← th
  upd (fun s => trapEntry s c sl cause (wordOf code.toNat) (t.pc + 8) t.pc)

def execTrap (code : BitVec 16) (s : State) : Out := run (trapForm 0x14 code) s
def execSyscall (code : BitVec 16) (s : State) : Out := run (trapForm 0x15 code) s

/-- ERET (R294). -/
def execEret (s : State) : Out := run (do
  let (c, sl) ← me
  let t ← th
  if t.pend != 0 then waitOn .allPend else pure ()
  let x ← ask (fun s => s.slot c sl)
  checkTarget x.trappc
  upd (fun s => leaveKernel s c sl t)) s

/-- ERET.END (R294). -/
def execEretEnd (s : State) : Out := run (do
  let (c, sl) ← me
  let t ← th
  if t.pend != 0 then waitOn .allPend else pure ()
  release .pkg
  upd (fun s => retire s c sl false (fld (s.slot c sl).trapcause 0 8))) s

/-! System registers (R279, R296). -/

/-- The supervisor registers are reached from their cluster's supervisor core alone (R279). -/
def needSup (r : SysReg) : M Unit :=
  match r with
  | .flttid | .fltdrop => supervisor
  | _ => pure ()

/-- TRAPSTAT of the issuing slot (R280). -/
def State.trapstat (s : State) (c sl : Nat) (kernel : Bool) : Word :=
  let x := s.slot c sl
  Machine.trapstat x.upend x.uwp x.trep x.tfl kernel

/-- A system register as MFS reads it (R279). A hub core's cluster registers read 0 (log 7). -/
def sysVal (s : State) (c sl : Nat) (t : Thread) (r : SysReg) : Word :=
  let x := s.slot c sl
  let k := s.core c
  let u := if isHub c then CluSt.reset else s.clu (cluOf c)
  match r with
  | .wp => wordOf t.wp
  | .trapvec => k.trapvec
  | .trapcause => x.trapcause
  | .trappc => x.trappc
  | .trapinfo => x.trapinfo
  | .trapstat => s.trapstat c sl t.kernel
  | .traprpt => k.traprpt
  | .savebase => k.savebase
  | .partcfg => wordOf (bitNat k.wide)
  | .tenant => wordOf k.tenant
  | .ovfptr => k.ovfptr
  | .fmt g => s.fmt c g.val
  | .time => s.time
  | .mprog => if isHub c then 0 else s.mprogWord (cluOf c)
  | .actl => u.actl
  | .arbase => u.arbase
  | .arhead => wordOf u.arhead
  | .artail => wordOf u.artail
  | .adrop => wordOf u.adrop
  | .flttid => u.flttid
  | .fltdrop => wordOf u.fltdrop

/-- MFS (R296). TRAPINFO of its protection faults is 0. (DESIGN CHOICE, log 117.) -/
def execMfs (d : WReg) (r : SysReg) (s : State) : Out := run (do
  chk [(0, d)]
  needSup r
  needDst d
  let (c, sl) ← me
  let t ← th
  let v ← ask (fun s => sysVal s c sl t r)
  wr d v
  fin 8) s

/-- Whether a format register takes a value (R62). -/
def fmtOk (v : Word) : Bool :=
  fld v 0 4 ≤ 8 && fld v 12 3 ≤ 4 && (fld v 0 4 != 5 || (2 ≤ fld v 8 4 && fld v 8 4 ≤ fld v 4 4 && fld v 4 4 ≤ 8))

/-- Sets a format register of a core; its reserved bits are ignored (R6, R62, R296). (DEDUCED, log 111.) -/
def State.setFmt (s : State) (c seg : Nat) (v : Word) : State :=
  s.setCore c { s.core c with fmt := tset fmtReset (s.core c).fmt seg (v &&& 0xFFFF) }

/-- A system register written by MTS, reserved bits ignored (R279, R296). -/
def setSys (s : State) (c sl : Nat) (r : SysReg) (v : Word) : State :=
  let x := s.slot c sl
  let k := s.core c
  let n := cluOf c
  match r with
  | .trapvec => s.setCore c { k with trapvec := wordOf (v.toNat / 32 * 32) }
  | .trapcause => s.setSlot c sl { x with trapcause := wordOf (v.toNat % 256) }
  | .trappc => s.setSlot c sl { x with trappc := v }
  | .trapinfo => s.setSlot c sl { x with trapinfo := v }
  | .trapstat => s.setSlot c sl { x with upend := BitVec.ofNat 32 (fld v 32 32), uwp := fld v 17 15, trep := fld v 10 7, tfl := BitVec.ofNat 4 (fld v 6 4) }
  | .traprpt => s.setCore c { k with traprpt := v }
  | .savebase => s.setCore c { k with savebase := v }
  | .fmt g => s.setFmt c g.val v
  | .actl => if isHub c then s else writeActl s n v
  | .arbase => if isHub c then s else writeArbase s n v
  | .arhead => if isHub c then s else writeArhead s n v
  | .flttid => s.setClu n { s.clu n with flttid := v }
  | .fltdrop => s.setClu n { s.clu n with fltdrop := v.toNat % 2 ^ 32 }
  | .wp | .partcfg | .tenant | .ovfptr | .time | .mprog | .artail | .adrop => s

/-- MTS (R279, R296). TRAPINFO of its protection faults is 0. (DESIGN CHOICE, log 117.) -/
def execMts (r : SysReg) (a : WReg) (s : State) : Out := run (do
  chk [(1, a)]
  needSup r
  let v ← rd a
  (match r with
    | .tenant | .ovfptr => trap 0x07 0
    | .fmt _ => if fmtOk v then pure () else outOfRange 21
    | .wp | .partcfg | .time | .mprog | .artail | .adrop => outOfRange 41
    | _ => pure ())
  let (c, sl) ← me
  upd (fun s => setSys s c sl r v)
  fin 8) s

/-! REPART (R295). -/

/-- Whether engine work issued from a core is outstanding (R46, R295, R323). (DEDUCED, log 65.) -/
def coreBusy (s : State) (c : Nat) : Bool :=
  s.eng.copies.any (fun k => k.core == c && k.packet.isNone)
  || s.eng.futs.any (fun f => futCore f.h == c)
  || ((s.clu (cluOf c)).arrQ ++ (s.clu (cluOf c)).arrWait).any (fun a => a.core == c)
  || (match (s.clu (cluOf c)).arr with | some r => r.cmd.core == c | none => false)
  || s.eng.sweeps.any (fun w => w.core == c) || s.eng.parks.any (fun r => r.core == c)

/-- Whether a landing buffer of an accepted sweep lies on a core (R295). -/
def landsOn (s : State) (c : Nat) : Bool := s.eng.sweeps.any (fun w => w.targets c)

/-- Whether a core holds no thread, live or spilled (R295). -/
def noThreads (s : State) (c : Nat) : Bool := (List.range 16).all (fun sl => (s.thread c sl).isNone) && (s.core c).spilled.isEmpty

/-- Whether a core is quiescent (R295). -/
def quiescent (s : State) (c : Nat) : Bool :=
  noThreads s c && !coreBusy s c && (s.core c).vrun.isNone && (s.core c).vq.isNone && !landsOn s c

/-- REPART (R295). -/
def execRepart (d a : WReg) (s : State) : Out := run (do
  chk [(0, d), (1, a)]
  let v ← rd a
  let c := fld v 0 11
  let wide := bit v 11
  if fld v 12 52 != 0 || Config.nCores ≤ c then outOfRange 21 else pure ()
  needDst d
  let k ← ask (fun s => s.core c)
  let q ← ask (fun s => quiescent s c)
  if k.wide = wide then wr d 0
  else if !q then wr d 1
  else do
    upd (fun s => s.setCore c { s.core c with wide := wide })
    wr d 0
  finWait 8 .reply) s

/-! TLBINV (R297, R308). -/

/-- TLBINV (R308): the release, then the drop, with every access made through what is dropped performed. -/
def execTlbinv (kind : Fin 3) (a b : WReg) (s : State) : Out := run (do
  chk ((if kind = 0 then [(1, a)] else []) ++ (if kind = 2 then [] else [(2, b)]))
  let va ← (if kind = 0 then rd a else pure 0)
  let id ← (if kind = 2 then pure 0 else rd b)
  if !canonical va then outOfRange 21 else pure ()
  if fld id 16 48 != 0 then outOfRange 26 else pure ()
  release .pkg
  phaseEnd .pkg
  let hit (e : TlbEnt) : Bool := kind = 2 || (e.tenant == id.toNat && (kind = 1 || e.page == va.toNat / 2 ^ pageBits e.lv))
  let hitWalk (e : WalkEnt) : Bool := kind = 2 || (e.tenant == id.toNat && (kind = 1 || e.page == va.toNat / 2 ^ levelShift e.lv))
  let s0 ← ask (fun s => s)
  flushing (fun s => forceCores s (fun c => kind = 2 || s0.tenantOf c == id.toNat))
  upd (fun s => dropTlb s hit hitWalk)
  finWait 8 .reply) s

/-! SLEEP and ASSAYTRIG (R297). -/

/-- SLEEP (R297). -/
def execSleep (a : WReg) (s : State) : Out := run (do
  chk [(1, a)]
  let v ← rd a
  let now ← ask State.time
  if timeGe now v then fin 8 else waitOn (.sleep v)) s

/-- SLEEP_EXPIRY: TIME has reached the value a thread sleeps for (R297). -/
def execSleepExpiry (core slot : Nat) (s : State) : Out :=
  match s.thread core slot with
  | some t =>
    match t.wait with
    | .sleep v => if timeGe s.time v then .next (s.modThread core slot (fun t => { t with wait := .none, pc := t.pc + 8 })) else .next s
    | _ => .next s
  | none => .next s

/-- ASSAYTRIG (R297, R360). -/
def execAssaytrig (tag : BitVec 16) (s : State) : Out := run (do
  let (c, sl) ← me
  let _ ← th
  upd (fun s => snapTrigger s 1 tag.toNat (s.tid c sl) (cluOf c) c sl)
  fin 8) s

end Sys2Proof.Machine
end

