-- ==== Sys2Proof/Machine/Queues.lean ====
section
/-! DEFINITION. The Treasury's work: fetching, checking, starting and completing packets (R319-R322, R325, R327, R330), launches, placement and steals (R322, R323, R37, R334), ageing (R325), the software wait list (R328), deadlock reports (R329) and destruction (R331). -/

namespace Sys2Proof.Machine

/-! Choosing and fetching (R312, R319, R325, R330). -/

/-- 64 µs, 50 µs and 1 ms in units of TIME (R350). -/
def us (n : Nat) : Nat := n * 65536000

/-- Whether a teller is busy with the queue: its packet is read and has not started (R312). -/
def busyTeller (x : Queue) : Bool := !x.pkt.isEmpty && !x.wasBlocked

/-- Whether one of the six tellers is free. -/
def tellerFree (s : State) : Bool := !s.tr.halted && (s.tr.queues.filter (fun p => busyTeller p.2)).length < 6

/-- Whether a queue is ready and unserved (R325). -/
def readyQueue (s : State) (q : Nat) (x : Queue) : Bool :=
  if isDevQueue q then x.state = 1 && !x.dev.isEmpty else fetchable s x

/-- Whether a queue waits for a teller. -/
def wantsTeller (s : State) (q : Nat) (x : Queue) : Bool := readyQueue s q x && x.pkt.isEmpty

/-- The queue a free teller takes (R325): highest EPRI, then round robin after the last served at it. -/
def choice (s : State) : Option Nat :=
  let l := s.tr.queues.filter (fun p => wantsTeller s p.1 p.2)
  let e := l.foldl (fun m p => max m p.2.epri) 0
  let l := (l.filter (fun p => p.2.epri == e)).map (fun p => p.1)
  let last := s.tr.served.find? (fun p => p.1 == e)
  match last with
  | none => l.head?
  | some (_, n) => match l.find? (fun q => n < q) with | some q => some q | none => l.head?

/-- Records which queue was served (R325). -/
def noteServed (s : State) (q : Nat) : State := { s with tr := { s.tr with served := tins s.tr.served (s.queue q).epri q } }

/-- Reserved bits of words 1 to 15 of a packet of a type; none for an unlisted type (R319, R320). -/
def pktMasks (ty : Nat) : Option (List Nat) :=
  let all := 2 ^ 64 - 1
  match ty with
  | 0 => some (List.replicate 7 0)
  | 1 => some [all, all, all, all, 0, 0, 0]
  | 2 => some [all, 0xFFF, 0xFFFF, all, 0, 0, 0]
  | 3 => some ([all, all, 0x0000FFFF00FFFFFF, all, 0xFFFFFFF00000007F, all, 0x7F, all] ++ List.replicate 7 0)
  | 4 | 5 => some [all, all, 3, 0, 0, 0, 0]
  | 6 => some (List.replicate 14 all ++ [0])
  | 7 => some (all :: List.replicate 6 0)
  | 8 => some (7 :: List.replicate 6 0)
  | _ => none

/-- A scope code of a packet (R319). -/
def scopeField (n : Nat) : Bool := n = 0 || n = 4 || n = 5

/-- Whether a header is bad before its packet's second slot is read (R319). -/
def badHeader (x : Queue) (h : Word) : Bool :=
  fld h 10 8 != 0 || fld h 24 40 != 0 || !scopeField (fld h 18 3) || !scopeField (fld h 21 3)
  || (match pktMasks (fld h 0 8) with | some l => (l.length == 15) != bit h 8 | none => true)
  || (bit h 8 && (x.head + 1) % 2 ^ x.log2n = 0)

/-- Whether a packet has a field outside its stated range (R320). (DEDUCED, log 60.) -/
def badFields (s : State) (x : Queue) (ws : List Word) : Bool :=
  let w (i : Nat) : Word := dsc ws i
  match fld (w 0) 0 8 with
  | 1 => fld (w 2) 0 32 = 0
  | 2 => fld (w 3) 0 16 % 64 != 0 || 28672 < fld (w 3) 0 16
  | 3 => bit (w 5) 6 || fld (w 5) 44 4 != 0 || !s.tenHas x.tslot (fld (w 7) 0 7)
  | 4 => fld (w 3) 0 2 = 3
  | 6 => ((ws.drop 1).take 14).all (fun a => a == 0)
  | 7 => (w 1).toNat % 8 != 0
  | 8 => x.pmax < fld (w 1) 0 3
  | _ => false

/-- Whether reserved bits of words 1 onward are set. -/
def badReserved (ws : List Word) : Bool :=
  match pktMasks (fld (dsc ws 0) 0 8) with
  | some l => ((ws.drop 1).zip l).any (fun p => p.1 &&& ~~~(wordOf p.2) != 0)
  | none => true

/-- Reads the packet at QHEAD: its words, or ERR and CAUSE with the header word if it was read (R319, R330). -/
def readPacket (s : State) (x : Queue) : Except (Nat × Nat × List Word) (List Word) :=
  match readSlot s x x.head with
  | .error (cause, _, _) => .error (3, cause, [])
  | .ok ws =>
    if badHeader x (dsc ws 0) then .error (2, 0, ws)
    else
      let more := if bit (dsc ws 0) 8 then readSlot s x (x.head + 1) else .ok []
      match more with
      | .error (cause, _, _) => .error (3, cause, ws)
      | .ok l => if badReserved (ws ++ l) || badFields s x (ws ++ l) then .error (2, 0, ws ++ l) else .ok (ws ++ l)

/-- PACKET_FETCH: a free teller takes the queue chosen and reads the packet at QHEAD (R319, R325, R330). A queue whose work met
a fault halts at this boundary (R320). -/
def execPacketFetch (q : Nat) (s : State) : Out :=
  let x := s.queue q
  if isDevQueue q then .next s
  else
    match x.haltPend with
    | some c => if x.state = 1 && x.pkt.isEmpty && !x.wasBlocked then .next (haltQueue s q 3 c) else .next s
    | none =>
      if !tellerFree s || !fetchable s x || choice s != some q then .next s
      else
        let s1 := noteServed s q
        match readPacket s x with
        | .ok ws => .next (s1.setQueue q { x with pkt := ws })
        | .error (err, cause, ws) => .next (haltQueue (s1.setQueue q { x with pkt := ws, wide := false }) q err cause)

/-! Starting (R320). -/

/-- Whether the fetched packet of a queue has a type and may start now (R319, R320). -/
def mayStart (s : State) (q ty : Nat) : Bool :=
  let x := s.queue q
  x.state = 1 && !x.pkt.isEmpty && x.type = ty && !x.wasBlocked && !heldByOrdb x && !s.tr.halted

/-- The packet has started: QHEAD passes it, EPRI returns to PRI, and what waits for the boundary takes effect (R317, R325). -/
def startPkt (s : State) (q : Nat) : State :=
  let x := s.queue q
  let y := { x.advance with epri := x.pri, readyAt := s.time }
  let s1 := s.setQueue q (if x.suspPend then { y with state := 3, suspPend := false } else y)
  match x.haltPend with
  | some c => haltQueue s1 q 3 c
  | none => s1

/-- Lists a started packet that has not completed, whose completion is signalled later: its number. -/
def addPkt (s : State) (q : Nat) (sig : Word) : State × Nat :=
  let x := s.queue q
  let id := s.tr.nextId
  let s1 := s.setQueue q { x with live := x.live + 1 }
  ({ s1 with tr := { s1.tr with pkts := s1.tr.pkts ++ [⟨id, q, fld (x.word 0) 21 3, sig, false, false, []⟩], nextId := id + 1 } }, id)

/-- The acquire of a packet (R320). -/
def pktAcq (x : Queue) : Option Scope :=
  match fld (x.word 0) 18 3 with
  | 4 => some .pkg
  | 5 => some .dom
  | _ => none

/-- NOP: it starts and completes at once. -/
def execNop (q : Nat) (s : State) : Out := if mayStart s q 0 then .next (startPkt s q) else .next s

/-- A packet's fault halts its queue with ERR 3 (R320, R327): nothing of the packet has taken effect. -/
def stopPkt (s : State) (q cause : Nat) : Out := .next (haltQueue s q 3 cause)

/-- Where a packet's 8-B access leads: 8-B aligned, outside device register space, free of poison when read (R327). (DEDUCED, log 59.) -/
def signalKey (s : State) (tslot : Nat) (acc : Acc) (a : Word) : Except Nat Nat :=
  if a.toNat % 8 != 0 then .error 0x05
  else
    match resolveOut s tslot acc a with
    | .error (cause, _, _) => .error cause
    | .ok k => if acc != .write && s.poisoned (lineOf k) then .error 0x09 else .ok k

/-- Writes a signal or a TIME at its ordering point. -/
def putSignal (s : State) (k : Nat) (v : Word) : State :=
  let s1 := s.put k (leBytes 8 v.toNat)
  match placeOf k with
  | .sram c o => touchRegs s1 c o 8
  | _ => s1

/-- SIGNAL: an atomic set, add or subtract (R98, R320). -/
def execSignal (q : Nat) (s : State) : Out :=
  if !mayStart s q 4 then .next s
  else
    let x := s.queue q
    match signalKey s x.tslot .rmw (x.word 1) with
    | .error cause => stopPkt s q cause
    | .ok k =>
      if storeWaits s k 8 then .next s
      else
        let old := s.w64 k
        let v := match fld (x.word 3) 0 2 with
          | 0 => x.word 2
          | 1 => old + x.word 2
          | _ => old - x.word 2
        .next (putSignal (startPkt s q) k v)

/-- TIMESTAMP: TIME as it is when written (R320). -/
def execTimestamp (q : Nat) (s : State) : Out :=
  if !mayStart s q 7 then .next s
  else
    let x := s.queue q
    match signalKey s x.tslot .write (x.word 1) with
    | .error cause => stopPkt s q cause
    | .ok k => if storeWaits s k 8 then .next s else .next (putSignal (startPkt s q) k s.time)

/-- CONFIG: PRI and EPRI receive the value (R320, R325). -/
def execConfig (q : Nat) (s : State) : Out :=
  if !mayStart s q 8 then .next s
  else
    let x := s.queue q
    let cfg := (x.cfg &&& ~~~(wordOf (7 * 4))) ||| wordOf (4 * fld (x.word 1) 0 3)
    .next (startPkt (s.setQueue q { x with cfg := cfg }) q)

/-! WAIT and ANDBAR (R327). -/

/-- Wait slots held (R327). -/
def slotsHeld (s : State) : Nat := (s.tr.slots.filter (fun w => w.reg && !w.done && !w.onList)).length

/-- The locations of a packet's signals, which must be mapped with RD and W, or the cause of the first that faults (R327). -/
def signalKeys (s : State) (tslot : Nat) : List (Word × Nat × Word) → Except Nat (List (Nat × Nat × Word))
  | [] => .ok []
  | (a, cond, v) :: l =>
    match signalKey s tslot .rmw a, signalKeys s tslot l with
    | .error c, _ => .error c
    | _, .error c => .error c
    | .ok k, .ok ks => .ok ((k, cond, v) :: ks)

/-- Registers the waits of a queue that have no slot yet, in order, while slots are free. -/
def registerSlots (s : State) (q : Nat) : List WaitSlot → Nat → List WaitSlot
  | [], _ => []
  | w :: l, held =>
    if w.q == q && !w.reg && !w.done && held < 256 then
      let v := evalSlot s { w with reg := true }
      v :: registerSlots s q l (if v.done then held else held + 1)
    else w :: registerSlots s q l held

/-- Registers what it can for a blocked queue, and completes its packet when every wait is satisfied (R327, R328). -/
def registerWaits (s : State) (q : Nat) : State :=
  let held := slotsHeld s
  let s1 := { s with tr := { s.tr with slots := registerSlots s q s.tr.slots held } }
  let s2 := if held < 256 && slotsHeld s1 = 256 then { s1 with tr := { s1.tr with fullAt := s1.time } } else s1
  settleQueue s2 q

/-- The waits of a packet as it starts: an ANDBAR needs no slot for a signal that is 0 already (R327). -/
def waitsOf (s : State) (q ty : Nat) (ks : List (Nat × Nat × Word)) : List WaitSlot :=
  ks.map (fun (k, cond, v) => ⟨q, k, k, v, cond, s.time, ty = 6 && waitCond cond (s.w64 k) v, false, false, none⟩)

/-- WAIT or ANDBAR: it starts, and QHEAD passes it; it blocks its queue until it completes; a queue whose packet found too few slots takes those that are free
now (R320, R327). (DEDUCED, log 61.) -/
def waitPacket (ty q : Nat) (s : State) : Out :=
  let x := s.queue q
  if x.wasBlocked && x.type = ty then
    if slotsHeld s < 256 && s.tr.slots.any (fun w => w.q == q && !w.reg && !w.done) then .next (registerWaits s q) else .next s
  else if !mayStart s q ty then .next s
  else
    match signalKeys s x.tslot x.signals with
    | .error cause => stopPkt s q cause
    | .ok ks =>
      let y := { x with head := (x.head + x.slotsOf) % 2 ^ 32, wasBlocked := true, state := if x.suspPend then 3 else 2, suspPend := false, epri := x.pri, readyAt := s.time, live := x.live + 1 }
      let s1 := s.setQueue q y
      .next (registerWaits { s1 with tr := { s1.tr with slots := s1.tr.slots ++ waitsOf s q ty ks } } q)

def execWait (q : Nat) (s : State) : Out := waitPacket 5 q s
def execAndbar (q : Nat) (s : State) : Out := waitPacket 6 q s

/-! COPY and APPLY packets (R320, R330). -/

/-- COPY: as a copy of a thread of the named cluster, with no tag (R320). -/
def execCopyPacket (q : Nat) (s : State) : Out :=
  if !mayStart s q 3 then .next s
  else
    let x := s.queue q
    let set : CopySet := { CopySet.zero with csrc := x.word 1, cdst := x.word 2, cshp := x.word 3, cstr := x.word 4, ccfg := x.word 5, cbar := x.word 6 }
    let tenant := s.tenId x.tslot
    match copyCheck s tenant set with
    | .error (cause, _, _) => stopPkt s q cause
    | .ok w =>
      let (s1, id) := addPkt s q (x.word 8)
      let md := if w.dst.isSome then fRm w.fd else RMode.rne
      .next (enqueueCopy (startPkt s1 q) { newCopy (16 * fld (x.word 7) 0 7) none 0 0 tenant false md set w.ft w.fd with packet := some id })

/-- The target core of an APPLY packet and its checks (R258, R310, R330): cause, or core. -/
def applyCheck (s : State) (x : Queue) (h : Word) : Except Nat Nat :=
  if hdlKind h && !bit (s.clu (cluOf (hdlCore h))).rmemb x.tslot then .error 0x08
  else if hdlReason s h != 0 then .error 0x0D
  else if pRmask (s.purse (hdlCore h) (hdlEnv h) 1) != 0 then .error 0x0B
  else
    let named := bit (x.word 2) 11
    let c := if named then fld (x.word 2) 0 11 else hdlCore h
    if named && (Config.nCores ≤ c || !s.tenHas x.tslot (cluOf c)) then .error 0x07
    else if (capturedAbove s h (s.nregs c)).isSome then .error 0x03
    else if hdlFull s h then .error 0x0C
    else .ok c

/-- APPLY: the handle word is read atomically, the record gains a count, and the creation is asked for (R330). -/
def execApplyPacket (q : Nat) (s : State) : Out :=
  if !mayStart s q 2 then .next s
  else
    let x := s.queue q
    match signalKey s x.tslot .read (x.word 1) with
    | .error cause => .next (haltQueue s q 4 cause)
    | .ok k =>
      let h := s.w64 k
      match applyCheck s x h with
      | .error cause => .next (haltQueue s q 4 cause)
      | .ok c =>
        let (s1, id) := addPkt s q (x.word 4)
        let s2 := takeCount (startPkt s1 q) h
        .next { s2 with eng := { s2.eng with creations := s2.eng.creations ++ [{
          core := c, entry := pEntry (s.purse (hdlCore h) (hdlEnv h) 0), regs := captured s (hdlCore h) (hdlEnv h),
          bsize := max (fld (x.word 3) 0 16) (8 * s.nregs c), acq := pktAcq x, env := some h, origin := .packet id, cell := none, flit := none,
          stamp := some s.now }] } }

/-! Launches (R321, R322, R297, R334). -/

/-- The launch a packet or an entry asks for. -/
structure LaunchReq where
  tslot : Nat
  tenant : Nat
  lrec : Word
  first : Nat
  count : Nat
  arg : Word

/-- Whether a record breaks R321. -/
def badRecord (r : List Word) : Bool :=
  let bs := fld (dsc r 1) 0 16
  let least := if bit (dsc r 1) 16 then 256 else 128
  !canonical (dsc r 0) || fld (dsc r 0) 0 2 != 0 || fld (dsc r 1) 17 47 != 0 || bs % 64 != 0 || bs < least || 28672 < bs
  || ((r.drop 2).take 12).any (fun f => fld f 16 48 != 0 || !fmtOk f) || dsc r 14 != 0 || dsc r 15 != 0

/-- The cores of a tenant slot's rectangles in a die whose TENANT is its ID (R323). -/
def tenantCores (s : State) (tslot die : Nat) : List Nat :=
  ((List.range 24).filter (fun i => s.tenHas tslot (24 * die + i))).flatMap (fun i =>
    ((List.range 16).map (fun c => 16 * (24 * die + i) + c)).filter (fun c => s.tenantOf c == s.tenId tslot && s.tenId tslot != 0))

/-- The checks of R322 in order: the refusal's code, or the record. (DEDUCED, log 64.) -/
def launchCheck (s : State) (r : LaunchReq) : Except Nat (List Word) :=
  if r.lrec.toNat % 64 != 0 then .error 1
  else
    match readBy s (resolveOut s r.tslot .read) r.lrec 128 with
    | .error _ => .error 1
    | .ok bs =>
      let ws := wordsOf 16 bs
      let wide := bit (dsc ws 1) 16
      if badRecord ws then .error 2
      else if !(List.range 4).any (fun d => (tenantCores s r.tslot d).any (fun c => (s.core c).wide == wide)) then .error 3
      else if 2 ^ 32 ≤ r.first + r.count - 1 then .error 4
      else .ok ws

/-- The die shares of a range of tasks (R37): the first `n mod d` dies take one more. -/
def dieShares : List Nat → Nat → Nat → Nat → List (Nat × Nat × Nat)
  | [], _, _, _ => []
  | die :: l, lo, k, extra =>
    let n := if extra = 0 then k else k + 1
    (die, lo, lo + n) :: dieShares l (lo + n) k (extra - 1)

/-- Posts a launch whose checks have passed (R322). -/
def postLaunch (s : State) (q : Nat) (pkt : Option Nat) (h : Option Word) (acq : Option Scope) (r : LaunchReq) (ws : List Word) : State :=
  let dies := (List.range 4).filter (fun d => bit (s.ten r.tslot (2 + d)) 10)
  let shares := dieShares dies r.first (r.count / dies.length) (r.count % dies.length)
  let l : Launch := ⟨s.tr.nextId, q, pkt, h, r.tslot, r.tenant, dsc ws 0, fld (dsc ws 1) 0 16, bit (dsc ws 1) 16, (ws.drop 2).take 12, r.arg, acq,
    shares, r.count, 0, 0, s.now⟩
  let dry := (shares.filter (fun p => p.2.1 = p.2.2)).map (fun p => (l.id, p.1))
  { s with tr := { s.tr with launches := s.tr.launches ++ [l], nextId := s.tr.nextId + 1, steals := s.tr.steals ++ dry } }

/-- The oldest entry of a device-launch queue starts (R334): refused, its future completes with STATE 2 (R322). -/
def startEntry (s : State) (q : Nat) (e : DevLaunch) : State :=
  let x := s.queue q
  let s1 := (noteServed s q).setQueue q { x with dev := x.dev.drop 1, head := (x.head + 1) % 2 ^ 32, live := x.live + 1, epri := x.pri, readyAt := s.time }
  match s.tenSlot e.tenant with
  | none => refuse s1 1
  | some tslot =>
    let r : LaunchReq := ⟨tslot, e.tenant, e.lrec, 0, e.count, e.arg⟩
    match launchCheck s r with
    | .error code => refuse s1 code
    | .ok ws => postLaunch s1 q none (some e.h) (some .pkg) r ws
where
  /-- A refused launch completes its future, and reports (R286, R297). -/
  refuse (s : State) (code : Nat) : State :=
    pushDone (liveDown (futFault s e.h code 6) q) e.h (wordOf (2 * 2 ^ 60 + code * 2 ^ 52))

/-- LAUNCH_PACKET: the packet at QHEAD, or the oldest entry of a device-launch queue, is checked and its shares are posted. -/
def execLaunchPacket (q : Nat) (s : State) : Out :=
  let x := s.queue q
  if isDevQueue q then
    match x.dev with
    | [] => .next s
    | e :: _ => if tellerFree s && choice s == some q then .next (startEntry s q e) else .next s
  else if !mayStart s q 1 then .next s
  else
    let r : LaunchReq := ⟨x.tslot, s.tenId x.tslot, x.word 1, fld (x.word 2) 32 32, fld (x.word 2) 0 32, x.word 3⟩
    match launchCheck s r with
    | .error code => .next (haltQueue s q 4 code)
    | .ok ws =>
      let (s1, id) := addPkt s q (x.word 4)
      .next (postLaunch (startPkt s1 q) q (some id) none (pktAcq x) r ws)

/-- LAUNCH (R297, R334): the release, the wait for a place, then the entry and the future. -/
def execLaunch (d a b e : WReg) (pri : Fin 8) (s : State) : Out := run (do
  chk [(0, d), (1, a), (2, b), (3, e)]
  let lrec ← rd a
  let arg ← rd b
  let n ← rd e
  if n.toNat = 0 || 2 ^ 32 ≤ n.toNat then outOfRange 64 else pure ()
  needDst d
  release .pkg
  phaseEnd .pkg
  let q := 1016 + pri.val
  let full ← ask (fun s => decide (1024 ≤ (s.queue q).dev.length))
  if full then waitOn (.launchPlace pri.val) else pure ()
  let (c, _) ← me
  let h ← newFuture 6 d
  upd (fun s => s.modQueue q (fun x => { x with
    dev := x.dev ++ [⟨lrec, arg, n.toNat, s.tenantOf c, c, h⟩], tail := (x.tail + 1) % 2 ^ 32,
    readyAt := if x.dev.isEmpty then s.time else x.readyAt }))
  fin 16) s

/-! Placement (R323) and steals (R37). -/

/-- Whether the twelve format registers of a core are a launch's. -/
def fmtsEqual (s : State) (c : Nat) (l : Launch) : Bool := (List.range 12).all (fun i => s.fmt c i == dsc l.fmts i)

/-- Whether a core holds nothing, so that a launch may set its formats (R323). -/
def fmtFree (s : State) (c : Nat) : Bool := noThreads s c && !coreBusy s c && !landsOn s c

/-- Whether a launch's next task may be created on a core (R323). -/
def mayPlace (s : State) (l : Launch) (c : Nat) : Bool :=
  c < Config.nCores && s.tenHas l.tslot (cluOf c) && s.tenId l.tslot == l.tenant && s.tenantOf c == l.tenant && (s.core c).wide == l.wide
  && (fmtsEqual s c l || fmtFree s c) && hasRoom s c l.bsize

/-- The next unstarted task of a launch on a die. -/
def nextTask (l : Launch) (die : Nat) : Option Nat :=
  match l.shares.find? (fun p => p.1 == die) with
  | some (_, a, b) => if a < b then some a else none
  | none => none

/-- The launch a die's unit serves at a core (R323): highest EPRI of its queue, then the first started. -/
def servedLaunch (s : State) (die c : Nat) : Option Launch :=
  let l := s.tr.launches.filter (fun l => (nextTask l die).isSome && mayPlace s l c)
  let e := l.foldl (fun m x => max m (s.queue x.q).epri) 0
  l.find? (fun x => (s.queue x.q).epri == e)

/-- Writes a launch's formats into a core (R323). -/
def setFmts (s : State) (c : Nat) (l : Launch) : State := (l.fmts.zipIdx).foldl (fun s p => s.setFmt c p.2 p.1) s

/-- TASK_PLACEMENT: the unit of a die creates the next task of a launch's share on a core (R37, R323),
unless that would take the place reserved for an aged tile (R239). -/
def execTaskPlacement (l die core : Nat) (s : State) : Out :=
  match servedLaunch s die core with
  | none => .next s
  | some x =>
    if x.id != l || die != cluOf core / 24 then .next s
    else
      match nextTask x die with
      | none => .next s
      | some i =>
        let s1 := if fmtsEqual s core x then s else setFmts s core x
        match create s1 core x.entry x.bsize [(0, wordOf i), (1, x.arg)] (.task l) (bornFloors x.acq x.stamp) with
        | none => .next s
        | some (s2, _) =>
         if heldForTile s2 core then .next s
         else
          let s3 := modLaunch s2 l (fun y => { y with shares := y.shares.map (fun p => if p.1 == die then (p.1, p.2.1 + 1, p.2.2) else p) })
          .next (match s3.launch l with
            | some y => if (nextTask y die).isNone then { s3 with tr := { s3.tr with steals := s3.tr.steals ++ [(l, die)] } } else s3
            | none => s3)

/-- Unstarted tasks of a share. -/
def unstarted (p : Nat × Nat × Nat) : Nat := p.2.2 - p.2.1

/-- The share a dry die steals from (R37): the most unstarted tasks, at least two, the lowest die winning ties. -/
def victim (l : Launch) : Option (Nat × Nat × Nat) :=
  let m := l.shares.foldl (fun m p => max m (unstarted p)) 0
  if m < 2 then none else l.shares.find? (fun p => unstarted p == m)

/-- A steal (R37): a dry die takes the upper half of the fullest die's unstarted tasks, where one has two or more. -/
def steal (s : State) (l die : Nat) : State :=
  match s.launch l with
  | none => s
  | some x =>
    match x.shares.find? (fun p => p.1 == die), victim x with
    | some p, some v =>
      if unstarted p != 0 then s
      else
        let k := unstarted v / 2
        modLaunch s l (fun y => { y with shares := y.shares.map (fun p =>
          if p.1 == die then (die, v.2.2 - k, v.2.2) else if p.1 == v.1 then (p.1, p.2.1, p.2.2 - k) else p) })
    | _, _ => s

/-- DIE_STEAL: a teller performs the oldest steal request (R37, R323); none is performed while the tellers are halted. -/
def execDieSteal (l die : Nat) (s : State) : Out :=
  if s.tr.halted || s.tr.steals.head? != some (l, die) then .next s
  else .next (steal { s with tr := { s.tr with steals := s.tr.steals.drop 1 } } l die)

/-! Completion and ageing (R320, R325). -/

/-- The scope of RSCOPE (R319). -/
def Pkt.rel (p : Pkt) : Option Scope :=
  match p.rscope with
  | 4 => some .pkg
  | 5 => some .dom
  | _ => none

/-- The release of a packet at its completion (R320): the stores that its threads left buffered; whether one must wait (R41). -/
def pktRelease (s : State) (p : Pkt) : State × Bool :=
  match p.rel with
  | some sc => flushEach (fun s e => releaseIn s e.1 e.1 sc) p.ran s
  | none => (s, false)

/-- PACKET_COMPLETION: the work of started packet `n` has ended; its release is performed, then the subtract on SIG (R320). -/
def execPacketCompletion (n : Nat) (s : State) : Out :=
  match s.tr.pkts.find? (fun p => p.id == n) with
  | none => .next s
  | some p =>
    if !p.ready then .next s
    else
      let off (s : State) : State := liveDown { s with tr := { s.tr with pkts := s.tr.pkts.filter (fun x => x.id != n) } } p.q
      if p.dead then .next (off s)
      else
        let r := pktRelease s p
        if r.2 then .next r.1
        else if p.sig = 0 then .next (off r.1)
        else
          match signalKey r.1 (r.1.queue p.q).tslot .rmw p.sig with
          | .error cause => .next (haltAtBoundary (off r.1) p.q cause)
          | .ok k => if storeWaits r.1 k 8 then .next r.1 else .next (off (putSignal r.1 k (r.1.w64 k - 1)))

/-- QUEUE_AGEING: 64 µs ready and unserved (R325). -/
def execQueueAgeing (q : Nat) (s : State) : Out :=
  let x := s.queue q
  if readyQueue s q x && x.epri < 7 && timeGe s.time (x.readyAt + wordOf (us 64)) then
    .next (s.setQueue q { x with epri := x.epri + 1, readyAt := x.readyAt + wordOf (us 64) })
  else .next s

/-! The software wait list (R328). -/

/-- The lowest unused entry of the list. (DEDUCED, log 62.) -/
def freeEntry (s : State) : Option Nat := (List.range 4096).find? (fun i => !bit (s.w64 (listKey s i 3)) 0)

/-- The wait with the oldest LAST among those in slots, the lower slot winning ties: its place in the list of waits. -/
def oldestWait (s : State) : Option Nat :=
  let l := (s.tr.slots.zipIdx).filter (fun p => p.1.reg && !p.1.done && !p.1.onList)
  match l with
  | [] => none
  | p :: t => some (t.foldl (fun b x => if timeGe x.1.last b.1.last then b else x) p).2

/-- Moves up to `n` waits to the list: how many it moved. -/
def moveWaits : Nat → State → State × Nat
  | 0, s => (s, 0)
  | n + 1, s =>
    match oldestWait s, freeEntry s with
    | some i, some e =>
      match s.tr.slots[i]? with
      | none => (s, 0)
      | some w =>
        let bs := leBytes 8 w.pa ++ leBytes 8 w.value.toNat ++ leBytes 8 (w.cond * 1024 + w.q) ++ leBytes 8 1
        let s1 := { s with tr := { s.tr with slots := setAt s.tr.slots i { w with onList := true } } }
        let (s2, m) := moveWaits n (s1.put (listKey s1 e 0) bs)
        (s2, m + 1)
    | _, _ => (s, 0)

/-- WAIT_SLOT_SPILL: all 256 slots held for 50 µs (R328). -/
def execWaitSlotSpill (s : State) : Out :=
  if slotsHeld s < 256 || !timeGe s.time (s.tr.fullAt + wordOf (us 50)) then .next s
  else
    let (s1, m) := moveWaits 32 s
    let s2 := { s1 with tr := { s1.tr with fullAt := s1.time } }
    if m = 0 then .next s2 else .next (tevEvent s2 4 0 0 0 0 (wordOf m) 0)

/-! Deadlock (R329). -/

/-- The tenant of a queue. -/
def queueTenant (s : State) (q : Nat) : Nat := s.tenId (s.queue q).tslot

/-- Whether a tenant has a thread: live, spilled, or on its way to another core (R329, R260). -/
def tenantThreads (s : State) (id : Nat) : Bool :=
  s.slots.any (fun p => p.2.thread.isSome && s.tenantOf (p.1 / 16) == id) || s.cores.any (fun p => p.2.tenant == id && !p.2.spilled.isEmpty)
  || (s.eng.flits ++ s.eng.creations).any (fun r => match r.flit with | some f => f.tenant == id | none => false)

/-- Whether a tenant has engine work outstanding (R329). -/
def tenantWork (s : State) (id : Nat) : Bool :=
  s.eng.copies.any (fun k => k.tenant == id) || s.eng.futs.any (fun f => s.tenantOf (futCore f.h) == id)
  || s.eng.sweeps.any (fun w => w.tenant == id) || s.eng.parks.any (fun r => r.tenant == id)
  || s.eng.creations.any (fun r => s.tenantOf r.core == id)
  || s.clus.any (fun p => (p.2.arrQ ++ p.2.arrWait).any (fun a => s.tenantOf a.core == id) || (match p.2.arr with | some r => s.tenantOf r.cmd.core == id | none => false))

/-- Whether a queue counts as still in R329: empty, suspended, halted or blocked at a wait, or not enabled. -/
def stillQueue (q : Nat) (x : Queue) : Bool :=
  x.wasBlocked || x.state = 0 || x.state = 3 || x.state = 4 || x.state = 6
  || (if isDevQueue q then x.dev.isEmpty else x.pkt.isEmpty && x.head = x.tail)

/-- Whether a tenant is quiet (R329). -/
def tenantQuiet (s : State) (id : Nat) : Bool :=
  !tenantThreads s id && !tenantWork s id && s.tr.queues.all (fun p => queueTenant s p.1 != id || stillQueue p.1 p.2)

/-- The signals a packet may change: SIGNAL's target and SIG (R329). -/
def namesOf (ws : List Word) : List Word :=
  match fld (dsc ws 0) 0 8 with
  | 1 | 2 => [dsc ws 4]
  | 3 => [dsc ws 8]
  | 4 => [dsc ws 1]
  | _ => []

/-- The packets in a queue from slot `i`: slot number and words. -/
def packetsFrom (s : State) (x : Queue) : Nat → Nat → List (Nat × List Word)
  | 0, _ => []
  | n + 1, i =>
    if i = x.tail then []
    else
      match readSlot s x i with
      | .error _ => packetsFrom s x n ((i + 1) % 2 ^ 32)
      | .ok ws =>
        if bit (dsc ws 0) 8 then
          let more := match readSlot s x (i + 1) with | .ok l => l | .error _ => []
          (i, ws ++ more) :: packetsFrom s x n ((i + 2) % 2 ^ 32)
        else (i, ws) :: packetsFrom s x n ((i + 1) % 2 ^ 32)

/-- Whether a packet of a queue's tenant slot names a location. -/
def namesKey (s : State) (tslot key : Nat) (ws : List Word) : Bool :=
  (namesOf ws).any (fun a => a != 0 && (match resolveOut s tslot .rmw a with | .ok k => k == key | .error _ => false))

/-- The queue in which every packet that names a location lies, from its QHEAD on, where there is such a packet and no started packet
names it (R329). -/
def onlyNamer (s : State) (key : Nat) : Option Nat :=
  match s.tr.queues.flatMap (fun p => ((packetsFrom s p.2 p.2.avail p.2.head).filter (fun e => namesKey s p.2.tslot key e.2)).map (fun _ => p.1)) with
  | [] => none
  | b :: l =>
    if l.all (fun x => x == b) && !s.tr.pkts.any (fun p => !p.dead && p.sig != 0 &&
        (match resolveOut s (s.queue p.q).tslot .rmw p.sig with | .ok k => k == key | .error _ => false)) then some b
    else none

/-- A wait with the queue that alone can write its signal, and since when (R329). -/
def noteNamer (s : State) (w : WaitSlot) : WaitSlot :=
  { w with needs := (onlyNamer s w.key).map (fun b => match w.needs with | some (x, t) => (b, if x = b then t else s.time) | none => (b, s.time)) }

/-- Notes what R329 asks to have stood for 1 ms: the tenants with a blocked queue that are not quiet now, and for each wait the queue that
alone can write its signal. -/
def noteActive (s : State) : State :=
  if s.tr.slots.isEmpty then s
  else
    let ids := (s.tr.slots.map (fun w => queueTenant s w.q)).eraseDups
    { s with tr := { s.tr with active := ids.foldl (fun t id => if tenantQuiet s id then t else tins t id s.time) s.tr.active
                               slots := s.tr.slots.map (noteNamer s) } }

/-- The unsatisfied wait of a queue whose signal, for 1 ms, only queue `b` could write and none has written (R329). (DEDUCED, log 63.) -/
def stuckOn (s : State) (a b : Nat) : Option WaitSlot :=
  s.tr.slots.find? (fun w => w.q == a && !w.done && w.reg && timeGe s.time (w.last + wordOf (us 1000))
    && (match w.needs with | some (x, t) => x == b && timeGe s.time (t + wordOf (us 1000)) | none => false))

/-- The stuck waits of a cycle of queues, each on the next (R329). -/
def cycleWaits (s : State) (l : List Nat) : Option (List WaitSlot) :=
  (l.zip (l.drop 1 ++ l.take 1)).mapM (fun p => stuckOn s p.1 p.2)

/-- DEADLOCK_REPORT: a cycle of blocked queues of one quiet tenant has stood for 1 ms: one event each (R329). -/
def execDeadlockReport (qs : List Nat) (s : State) : Out :=
  match qs with
  | [] | [_] => .next s
  | q0 :: _ =>
    let id := queueTenant s q0
    let ok := decide (qs.eraseDups.length = qs.length) && id != 0
      && qs.all (fun q => queueTenant s q == id && (s.queue q).wasBlocked && (s.queue q).state == 2 && !(s.queue q).dlDone)
      && tenantQuiet s id && (match s.tr.active.find? (fun p => p.1 == id) with | some (_, t) => timeGe s.time (t + wordOf (us 1000)) | none => true)
    if !ok then .next s
    else
      match cycleWaits s qs with
      | none => .next s
      | some ws =>
        let ev (s : State) (p : WaitSlot × WaitSlot) : State :=
          (tevEvent s 1 0 (s.queue p.1.q).tslot p.2.q p.1.q (wordOf p.1.pa) (wordOf p.2.pa)).modQueue p.1.q (fun x => { x with dlDone := true })
        .next ((ws.zip (ws.drop 1 ++ ws.take 1)).foldl ev s)

/-! Destruction (R331). -/

/-- KILL: unstarted tasks are dropped, and completions of the queue's packets are no longer performed. -/
def killQueue (s : State) (q : Nat) : State :=
  let s1 : State := { s with tr := { s.tr with pkts := s.tr.pkts.map (fun p => if p.q == q then { p with dead := true } else p) } }
  (s1.tr.launches.filter (fun l => l.q == q)).foldl (fun s l =>
    let n := (l.shares.map unstarted).foldl (· + ·) 0
    let y := { l with shares := l.shares.map (fun p => (p.1, p.2.2, p.2.2)), left := l.left - n }
    let s2 := modLaunch s l.id (fun _ => y)
    if y.left = 0 then finishLaunch s2 y else s2) s1

/-- Whether a thread was created by a packet that a destruction with kill has ended (R331). -/
def doomed (s : State) (q : Nat) (o : Origin) : Bool :=
  let dead (id : Nat) : Bool := s.tr.pkts.any (fun p => p.id == id && p.q == q && p.dead)
  match o with
  | .packet id => dead id
  | .task l => match s.launch l with | some x => (match x.pkt with | some id => dead id | none => false) | none => false
  | _ => false

/-- The first live thread of a queue's dead packets that stands at a spill point; only SPILLSLOT removes a halted one (R283). -/
def doomedLive (s : State) (q : Nat) : Option (Nat × Nat) :=
  (s.slots.find? (fun p => match p.2.thread with
    | some t => doomed s q t.origin && !t.halted && spillPoint s (p.1 / 16) (p.1 % 16) t
    | none => false)).map (fun p => (p.1 / 16, p.1 % 16))

/-- The first spilled thread of a queue's dead packets. -/
def doomedSpilled (s : State) (q : Nat) : Option (Nat × Spilled) :=
  s.cores.findSome? (fun p => (p.2.spilled.find? (fun x => doomed s q x.th.origin)).map (fun x => (p.1, x)))

/-- Ends a spilled thread as ERET.END ends a thread (R294, R331). -/
def endSpilled (s : State) (c : Nat) (x : Spilled) : State :=
  let old := s.slot c x.slot
  let k := s.core c
  let s1 := (s.setCore c { k with spilled := k.spilled.filter (fun y => y.tid != x.tid) }).setSlot c x.slot { SlotSt.reset with thread := some x.th, seq := old.seq, created := old.created }
  (retire s1 c x.slot false 0).setSlot c x.slot old

/-- Ends one thread of a destroyed queue's packets, if one stands at a spill point (R331). -/
def endDoomed (s : State) (q : Nat) : State :=
  match doomedSpilled s q with
  | some (c, x) => endSpilled s c x
  | none =>
    match doomedLive s q with
    | some (c, sl) =>
      let (s1, stuck) := releaseBy s c (s.tid c sl) .pkg
      if stuck then s1 else retire s1 c sl false (fld (s.slot c sl).trapcause 0 8)
    | none => s

/-- QUEUE_DESTRUCTION: a destroying queue is at its boundary, or a read of it is abandoned; after a destruction with kill, the
threads of its packets end at their spill points (R331). A wait is abandoned in a later moment than the DESTROY, so that one satisfied
in the same moment completes (R332). -/
def execQueueDestruction (q : Nat) (s : State) : Out :=
  let x := s.queue q
  if x.state != 5 then .next (endDoomed s q)
  else if x.wasBlocked && s.time == x.readyAt then .next s
  else
    let lost := !x.pkt.isEmpty
    let s1 := if lost then tevEvent s 3 0 x.tslot 0 q (wordOf x.off) 0 else s
    let s2 := if x.wasBlocked then dropWaits s1 q else s1
    let y := { x with state := 6, cfg := x.cfg &&& ~~~1, err := if lost then 5 else x.err, cause := if lost then 0 else x.cause, pkt := [],
                      wasBlocked := false, suspPend := false, haltPend := none, dlDone := false, live := if x.wasBlocked then x.live - 1 else x.live }
    let s3 := s2.setQueue q y
    .next (if x.kill then killQueue s3 q else s3)

end Sys2Proof.Machine
end

