-- ==== Sys2Proof/Machine/Fetch.lean ====
section
/-! DEFINITION. Fetching an instruction for issue (R23, R106-R108, R117, R284): its bytes through the cluster cache slice, and the checks in their order. -/

namespace Sys2Proof.Machine

/-- Whether the page of a translated address is under image replacement (R284, R302). -/
def underReplacement (s : State) (c : Nat) (va : Word) : Bool :=
  if isHub c || va.toNat / 2 ^ 56 % 2 = 1 then false
  else
    match s.slotOfCore c with
    | none => false
    | some slot => match (leafOf s c slot va.toNat).1 with | .ok (e, _) => bit e 7 | .error _ => false

/-- Whether the fetch of a line meets poison, in the slice's copy that serves it or where it must be fetched, or no route to it (R153,
R338, R344). -/
def fetchBad (s : State) (c sl k : Nat) : Bool :=
  let far := s.poisoned (lineOf k) || !s.reach k
  match s.thread c sl with
  | some t =>
    if pinned c k then (match sliceFind s (cluOf c) (lineOf k) (viewFloor s.now t c k) with | some x => x.2.2.2 | none => far) else far
  | none => far

/-- Where an instruction fetch leads (R117 check 1): a location, or cause and TRAPINFO. (DEDUCED, log 67.) -/
def fetchPlace (s : State) (c sl : Nat) (kernel : Bool) (pc : Word) : Except (Nat × Word) Nat × State :=
  if !canonical pc then (.error (0x07, pc), s)
  else if pc.toNat % 4 != 0 then (.error (0x05, pc), s)
  else
    match resolve s c sl kernel false .fetch pc 4 with
    | (.error e, s1) => (.error e, s1)
    | (.ok k, s1) =>
      if underReplacement s1 c pc then (.error (0x13, wordOf (pc.toNat / 32 * 32)), s1)
      else if (devOff k).isSome then (.error (0x07, pc), s1)
      else if fetchBad s1 c sl k then (.error (0x09, pc), s1)
      else (.ok k, s1)

/-- The bytes at a location as the fetch port delivers them, as a number: through the cluster cache slice where it serves the
location, no older than the thread's view of it (R23, R92). -/
def fetchBytes (s : State) (c : Nat) (t : Thread) (k n : Nat) : Nat × State :=
  if pinned c k then
    let r := sliceLine s (cluOf c) (lineOf k) (viewFloor s.now t c k)
    (lineNat r.1.1 (k % 64) n, r.2)
  else (natAt s.mem k n, s)

/-- Why the fetch of a line that the slice does not hold is refused where it arrives (R310, R311); 0 where it is served. -/
def fetchRefused (s : State) (c : Nat) (t : Thread) (k : Nat) : Nat :=
  if pinned c k && sliceHas s (cluOf c) (lineOf k) (viewFloor s.now t c k) then 0 else fetchCause s c k

/-- What the checks of R117 ask of a thread. -/
def decCtx (s : State) (c : Nat) (t : Thread) : DecCtx := ⟨t.kernel, isHub c, !isHub c && bit (s.clu (cluOf c)).actl 3⟩

/-- Bytes of an instruction of a LEN code (R107); 0 for none. -/
def lenBytes (w : Nat) : Nat :=
  match w % 4 with
  | 0 => 0
  | n => 4 + 4 * n

/-- Fetches and checks the instruction at an address, checks 1 to 7 of R117: cause and TRAPINFO, or the instruction and its
length in bytes. (DEDUCED, log 68.) -/
def fetchAt (s : State) (c sl : Nat) (t : Thread) (pc : Word) : Except (Nat × Word) (Instr × Nat) × State :=
  match fetchPlace s c sl t.kernel pc with
  | (.error e, s1) => (.error e, s1)
  | (.ok k, s1) =>
    if fetchRefused s1 c t k != 0 then (.error (fetchRefused s1 c t k, pc), s1)
    else
    let (w, s2) := fetchBytes s1 c t k (min 16 (32 - pc.toNat % 32))
    let n := lenBytes w
    if n = 0 then (.error (0x01, 1), s2)
    else if 32 < pc.toNat % 32 + n then (.error (0x02, 0), s2)
    else
      match decode (decCtx s2 c t) (w % 2 ^ (8 * n)) with
      | .ok i len => (.ok (i, len), s2)
      | .bad sub b => (.error (0x01, wordOf (sub + 256 * b)), s2)

/-- Whether a REPCNT other than 0 fits the instruction at the PC (R121): a REP prefix, or a BSYNC whose arrival is counted. -/
def repcntFits (i : Instr) (n : Nat) : Bool :=
  match i with
  | .rep .. => true
  | .bsync .. => n ≤ 1
  | _ => n = 0

/-- What the fetch of a thread's next instruction gives: an instruction to perform, or the state in which its fault is taken. -/
inductive Fetched
  | instr (i : Instr) (s : State)
  | ended (s : State)

/-- The next instruction of the thread in a slot, after the checks made before its own (R117, R121). (DEDUCED, log 13.) -/
def fetchNext (s : State) (c sl : Nat) : Fetched :=
  match s.thread c sl with
  | none => .ended s
  | some t =>
    match fetchAt s c sl t t.pc with
    | (.error (cause, info), s1) => .ended (takeTrap s1 c sl cause info)
    | (.ok (i, _), s1) =>
      if repcntFits i t.repcnt then .instr i s1
      else .ended (takeTrap (s1.modThread c sl (fun t => { t with repcnt := 0 })) c sl 0x01 7)

end Sys2Proof.Machine
end

