-- ==== Sys2Proof/Machine/Rep.lean ====
section
/-! DEFINITION. The REP prefix (R120, R121): its checks, and one repetition of its target. -/

namespace Sys2Proof.Machine

/-- How the fields of a REP target are stepped at a repetition. -/
structure Stepped where
  d : WReg → WReg
  a : WReg → WReg
  b : WReg → WReg

/-- A register field stepped by `k` if it is marked. -/
def stepReg (marked : Bool) (k : Nat) (r : WReg) : WReg := if marked then Fin.ofNat 32 (r.val + k) else r

/-- The stepping of the marked fields by `k`. -/
def Stepped.by (md ma mb : Bool) (k : Nat) : Stepped := ⟨stepReg md k, stepReg ma k, stepReg mb k⟩

/-- The operands of a vector target, stepped. -/
def Stepped.ops (f : Stepped) (o : VOps) : VOps := { o with d := f.d o.d, a := f.a o.a, b := f.b o.b }

/-- A REP target, stepped: its W-class register fields, a pair being listed twice, and its meaning. -/
structure Target where
  fields : List FReg
  run : State → Out

/-- The W-class fields of a vector form (R173). -/
def vFields (i : Instr) : List FReg :=
  match vForm i with
  | some f => (0, f.d) :: (if f.useA then [(1, f.a)] else []) ++ (if f.useB then [(2, f.b)] else [])
  | none => []

/-- The targets REP takes (R120), with a stepping. -/
def repTarget (f : Stepped) (i : Instr) : Option Target :=
  match i with
  | .add d a b => some ⟨[(0, f.d d), (1, f.a a), (2, f.b b)], execAdd (f.d d) (f.a a) (f.b b)⟩
  | .sub d a b => some ⟨[(0, f.d d), (1, f.a a), (2, f.b b)], execSub (f.d d) (f.a a) (f.b b)⟩
  | .adc d a b => some ⟨[(0, f.d d), (1, f.a a), (2, f.b b)], execAdc (f.d d) (f.a a) (f.b b)⟩
  | .sbc d a b => some ⟨[(0, f.d d), (1, f.a a), (2, f.b b)], execSbc (f.d d) (f.a a) (f.b b)⟩
  | .and d a b => some ⟨[(0, f.d d), (1, f.a a), (2, f.b b)], execAnd (f.d d) (f.a a) (f.b b)⟩
  | .or d a b => some ⟨[(0, f.d d), (1, f.a a), (2, f.b b)], execOr (f.d d) (f.a a) (f.b b)⟩
  | .xor d a b => some ⟨[(0, f.d d), (1, f.a a), (2, f.b b)], execXor (f.d d) (f.a a) (f.b b)⟩
  | .andn d a b => some ⟨[(0, f.d d), (1, f.a a), (2, f.b b)], execAndn (f.d d) (f.a a) (f.b b)⟩
  | .shl d a b => some ⟨[(0, f.d d), (1, f.a a), (2, f.b b)], execShl (f.d d) (f.a a) (f.b b)⟩
  | .shr d a b => some ⟨[(0, f.d d), (1, f.a a), (2, f.b b)], execShr (f.d d) (f.a a) (f.b b)⟩
  | .sar d a b => some ⟨[(0, f.d d), (1, f.a a), (2, f.b b)], execSar (f.d d) (f.a a) (f.b b)⟩
  | .ror d a b => some ⟨[(0, f.d d), (1, f.a a), (2, f.b b)], execRor (f.d d) (f.a a) (f.b b)⟩
  | .mul d a b => some ⟨[(0, f.d d), (1, f.a a), (2, f.b b)], execMul (f.d d) (f.a a) (f.b b)⟩
  | .mulhu d a b => some ⟨[(0, f.d d), (1, f.a a), (2, f.b b)], execMulhu (f.d d) (f.a a) (f.b b)⟩
  | .mulhs d a b => some ⟨[(0, f.d d), (1, f.a a), (2, f.b b)], execMulhs (f.d d) (f.a a) (f.b b)⟩
  | .divu d a b => some ⟨[(0, f.d d), (1, f.a a), (2, f.b b)], execDivu (f.d d) (f.a a) (f.b b)⟩
  | .divs d a b => some ⟨[(0, f.d d), (1, f.a a), (2, f.b b)], execDivs (f.d d) (f.a a) (f.b b)⟩
  | .remu d a b => some ⟨[(0, f.d d), (1, f.a a), (2, f.b b)], execRemu (f.d d) (f.a a) (f.b b)⟩
  | .rems d a b => some ⟨[(0, f.d d), (1, f.a a), (2, f.b b)], execRems (f.d d) (f.a a) (f.b b)⟩
  | .minu d a b => some ⟨[(0, f.d d), (1, f.a a), (2, f.b b)], execMinu (f.d d) (f.a a) (f.b b)⟩
  | .mins d a b => some ⟨[(0, f.d d), (1, f.a a), (2, f.b b)], execMins (f.d d) (f.a a) (f.b b)⟩
  | .maxu d a b => some ⟨[(0, f.d d), (1, f.a a), (2, f.b b)], execMaxu (f.d d) (f.a a) (f.b b)⟩
  | .maxs d a b => some ⟨[(0, f.d d), (1, f.a a), (2, f.b b)], execMaxs (f.d d) (f.a a) (f.b b)⟩
  | .cmp a b => some ⟨[(1, f.a a), (2, f.b b)], execCmp (f.a a) (f.b b)⟩
  | .tst a b => some ⟨[(1, f.a a), (2, f.b b)], execTst (f.a a) (f.b b)⟩
  | .neg d a => some ⟨[(0, f.d d), (1, f.a a)], execNeg (f.d d) (f.a a)⟩
  | .addi d a i => some ⟨[(0, f.d d), (1, f.a a)], execAddi (f.d d) (f.a a) i⟩
  | .subi d a i => some ⟨[(0, f.d d), (1, f.a a)], execSubi (f.d d) (f.a a) i⟩
  | .adci d a i => some ⟨[(0, f.d d), (1, f.a a)], execAdci (f.d d) (f.a a) i⟩
  | .sbci d a i => some ⟨[(0, f.d d), (1, f.a a)], execSbci (f.d d) (f.a a) i⟩
  | .andi d a i => some ⟨[(0, f.d d), (1, f.a a)], execAndi (f.d d) (f.a a) i⟩
  | .ori d a i => some ⟨[(0, f.d d), (1, f.a a)], execOri (f.d d) (f.a a) i⟩
  | .xori d a i => some ⟨[(0, f.d d), (1, f.a a)], execXori (f.d d) (f.a a) i⟩
  | .andni d a i => some ⟨[(0, f.d d), (1, f.a a)], execAndni (f.d d) (f.a a) i⟩
  | .shli d a i => some ⟨[(0, f.d d), (1, f.a a)], execShli (f.d d) (f.a a) i⟩
  | .shri d a i => some ⟨[(0, f.d d), (1, f.a a)], execShri (f.d d) (f.a a) i⟩
  | .sari d a i => some ⟨[(0, f.d d), (1, f.a a)], execSari (f.d d) (f.a a) i⟩
  | .rori d a i => some ⟨[(0, f.d d), (1, f.a a)], execRori (f.d d) (f.a a) i⟩
  | .muli d a i => some ⟨[(0, f.d d), (1, f.a a)], execMuli (f.d d) (f.a a) i⟩
  | .mulhui d a i => some ⟨[(0, f.d d), (1, f.a a)], execMulhui (f.d d) (f.a a) i⟩
  | .mulhsi d a i => some ⟨[(0, f.d d), (1, f.a a)], execMulhsi (f.d d) (f.a a) i⟩
  | .divui d a i => some ⟨[(0, f.d d), (1, f.a a)], execDivui (f.d d) (f.a a) i⟩
  | .divsi d a i => some ⟨[(0, f.d d), (1, f.a a)], execDivsi (f.d d) (f.a a) i⟩
  | .remui d a i => some ⟨[(0, f.d d), (1, f.a a)], execRemui (f.d d) (f.a a) i⟩
  | .remsi d a i => some ⟨[(0, f.d d), (1, f.a a)], execRemsi (f.d d) (f.a a) i⟩
  | .minui d a i => some ⟨[(0, f.d d), (1, f.a a)], execMinui (f.d d) (f.a a) i⟩
  | .minsi d a i => some ⟨[(0, f.d d), (1, f.a a)], execMinsi (f.d d) (f.a a) i⟩
  | .maxui d a i => some ⟨[(0, f.d d), (1, f.a a)], execMaxui (f.d d) (f.a a) i⟩
  | .maxsi d a i => some ⟨[(0, f.d d), (1, f.a a)], execMaxsi (f.d d) (f.a a) i⟩
  | .cmpi a i => some ⟨[(1, f.a a)], execCmpi (f.a a) i⟩
  | .tsti a i => some ⟨[(1, f.a a)], execTsti (f.a a) i⟩
  | .mov d a => some ⟨[(0, f.d d), (1, f.a a)], execMov (f.d d) (f.a a)⟩
  | .movi d i => some ⟨[(0, f.d d)], execMovi (f.d d) i⟩
  | .movhi d v => some ⟨[(0, f.d d)], execMovhi (f.d d) v⟩
  | .lea d a i => some ⟨[(0, f.d d), (1, f.a a)], execLea (f.d d) (f.a a) i⟩
  | .leax d a b sh => some ⟨[(0, f.d d), (1, f.a a), (2, f.b b)], execLeax (f.d d) (f.a a) (f.b b) sh⟩
  | .adr d i => some ⟨[(0, f.d d)], execAdr (f.d d) i⟩
  | .sext sz d a => some ⟨[(0, f.d d), (1, f.a a)], execSext sz (f.d d) (f.a a)⟩
  | .zext sz d a => some ⟨[(0, f.d d), (1, f.a a)], execZext sz (f.d d) (f.a a)⟩
  | .clz d a => some ⟨[(0, f.d d), (1, f.a a)], execClz (f.d d) (f.a a)⟩
  | .ctz d a => some ⟨[(0, f.d d), (1, f.a a)], execCtz (f.d d) (f.a a)⟩
  | .popc d a => some ⟨[(0, f.d d), (1, f.a a)], execPopc (f.d d) (f.a a)⟩
  | .bswap d a => some ⟨[(0, f.d d), (1, f.a a)], execBswap (f.d d) (f.a a)⟩
  | .brev d a => some ⟨[(0, f.d d), (1, f.a a)], execBrev (f.d d) (f.a a)⟩
  | .bfx d a pos len => some ⟨[(0, f.d d), (1, f.a a)], execBfx (f.d d) (f.a a) pos len⟩
  | .bfxs d a pos len => some ⟨[(0, f.d d), (1, f.a a)], execBfxs (f.d d) (f.a a) pos len⟩
  | .bfi d a pos len => some ⟨[(0, f.d d), (1, f.a a)], execBfi (f.d d) (f.a a) pos len⟩
  | .csel c d a b => some ⟨[(0, f.d d), (1, f.a a), (2, f.b b)], execCsel c (f.d d) (f.a a) (f.b b)⟩
  | .cset c d => some ⟨[(0, f.d d)], execCset c (f.d d)⟩
  | .fadd t d a b => some ⟨[(0, f.d d), (1, f.a a), (2, f.b b)], execFadd t (f.d d) (f.a a) (f.b b)⟩
  | .fsub t d a b => some ⟨[(0, f.d d), (1, f.a a), (2, f.b b)], execFsub t (f.d d) (f.a a) (f.b b)⟩
  | .fmul t d a b => some ⟨[(0, f.d d), (1, f.a a), (2, f.b b)], execFmul t (f.d d) (f.a a) (f.b b)⟩
  | .fdiv t d a b => some ⟨[(0, f.d d), (1, f.a a), (2, f.b b)], execFdiv t (f.d d) (f.a a) (f.b b)⟩
  | .fsqrt t d a => some ⟨[(0, f.d d), (1, f.a a)], execFsqrt t (f.d d) (f.a a)⟩
  | .fma t d a b => some ⟨[(0, f.d d), (1, f.a a), (2, f.b b)], execFma t (f.d d) (f.a a) (f.b b)⟩
  | .fmin t d a b => some ⟨[(0, f.d d), (1, f.a a), (2, f.b b)], execFmin t (f.d d) (f.a a) (f.b b)⟩
  | .fmax t d a b => some ⟨[(0, f.d d), (1, f.a a), (2, f.b b)], execFmax t (f.d d) (f.a a) (f.b b)⟩
  | .fcmp t a b => some ⟨[(1, f.a a), (2, f.b b)], execFcmp t (f.a a) (f.b b)⟩
  | .fabs t d a => some ⟨[(0, f.d d), (1, f.a a)], execFabs t (f.d d) (f.a a)⟩
  | .fneg t d a => some ⟨[(0, f.d d), (1, f.a a)], execFneg t (f.d d) (f.a a)⟩
  | .fcvt dst src d a => some ⟨[(0, f.d d), (1, f.a a)], execFcvt dst src (f.d d) (f.a a)⟩
  | .ld sz d a o => some ⟨pairFields 0 (f.d d) sz ++ [(1, f.a a)], execLd sz (f.d d) (f.a a) o⟩
  | .lds sz d a o => some ⟨pairFields 0 (f.d d) sz ++ [(1, f.a a)], execLds sz (f.d d) (f.a a) o⟩
  | .ldPostinc sz d a => some ⟨pairFields 0 (f.d d) sz ++ [(1, f.a a)], execLdPostinc sz (f.d d) (f.a a)⟩
  | .ldsPostinc sz d a => some ⟨pairFields 0 (f.d d) sz ++ [(1, f.a a)], execLdsPostinc sz (f.d d) (f.a a)⟩
  | .st sz a o b => some ⟨[(1, f.a a)] ++ pairFields 2 (f.b b) sz, execSt sz (f.a a) o (f.b b)⟩
  | .stPostinc sz a b => some ⟨[(1, f.a a)] ++ pairFields 2 (f.b b) sz, execStPostinc sz (f.a a) (f.b b)⟩
  | .ald sz d a o r => some ⟨pairFields 0 (f.d d) sz ++ [(1, f.a a)], execAld sz (f.d d) (f.a a) o r⟩
  | .ast sz a o b r => some ⟨[(1, f.a a)] ++ pairFields 2 (f.b b) sz, execAst sz (f.a a) o (f.b b) r⟩
  | .aswp sz d a o b r => some ⟨[(0, f.d d), (1, f.a a), (2, f.b b)], execAswp sz (f.d d) (f.a a) o (f.b b) r⟩
  | .aadd sz d a o b r => some ⟨[(0, f.d d), (1, f.a a), (2, f.b b)], execAadd sz (f.d d) (f.a a) o (f.b b) r⟩
  | .aand sz d a o b r => some ⟨[(0, f.d d), (1, f.a a), (2, f.b b)], execAand sz (f.d d) (f.a a) o (f.b b) r⟩
  | .aor sz d a o b r => some ⟨[(0, f.d d), (1, f.a a), (2, f.b b)], execAor sz (f.d d) (f.a a) o (f.b b) r⟩
  | .axor sz d a o b r => some ⟨[(0, f.d d), (1, f.a a), (2, f.b b)], execAxor sz (f.d d) (f.a a) o (f.b b) r⟩
  | .aminu sz d a o b r => some ⟨[(0, f.d d), (1, f.a a), (2, f.b b)], execAminu sz (f.d d) (f.a a) o (f.b b) r⟩
  | .amins sz d a o b r => some ⟨[(0, f.d d), (1, f.a a), (2, f.b b)], execAmins sz (f.d d) (f.a a) o (f.b b) r⟩
  | .amaxu sz d a o b r => some ⟨[(0, f.d d), (1, f.a a), (2, f.b b)], execAmaxu sz (f.d d) (f.a a) o (f.b b) r⟩
  | .amaxs sz d a o b r => some ⟨[(0, f.d d), (1, f.a a), (2, f.b b)], execAmaxs sz (f.d d) (f.a a) o (f.b b) r⟩
  | .acas sz d a o b r => some ⟨pairFields 0 (f.d d) sz ++ [(1, f.a a)] ++ pairFields 2 (f.b b) sz, execAcas sz (f.d d) (f.a a) o (f.b b) r⟩
  | .afadd t d a o b r => some ⟨[(0, f.d d), (1, f.a a), (2, f.b b)], execAfadd t (f.d d) (f.a a) o (f.b b) r⟩
  | .vmov o => some ⟨vFields (.vmov (f.ops o)), execVmov (f.ops o)⟩
  | .vadd o => some ⟨vFields (.vadd (f.ops o)), execVadd (f.ops o)⟩
  | .vsub o => some ⟨vFields (.vsub (f.ops o)), execVsub (f.ops o)⟩
  | .vmul o => some ⟨vFields (.vmul (f.ops o)), execVmul (f.ops o)⟩
  | .vdiv o => some ⟨vFields (.vdiv (f.ops o)), execVdiv (f.ops o)⟩
  | .vmin o => some ⟨vFields (.vmin (f.ops o)), execVmin (f.ops o)⟩
  | .vmax o => some ⟨vFields (.vmax (f.ops o)), execVmax (f.ops o)⟩
  | .vfma o => some ⟨vFields (.vfma (f.ops o)), execVfma (f.ops o)⟩
  | .vand o => some ⟨vFields (.vand (f.ops o)), execVand (f.ops o)⟩
  | .vor o => some ⟨vFields (.vor (f.ops o)), execVor (f.ops o)⟩
  | .vxor o => some ⟨vFields (.vxor (f.ops o)), execVxor (f.ops o)⟩
  | .vshl o => some ⟨vFields (.vshl (f.ops o)), execVshl (f.ops o)⟩
  | .vshr o => some ⟨vFields (.vshr (f.ops o)), execVshr (f.ops o)⟩
  | .vsar o => some ⟨vFields (.vsar (f.ops o)), execVsar (f.ops o)⟩
  | .vabs o => some ⟨vFields (.vabs (f.ops o)), execVabs (f.ops o)⟩
  | .vneg o => some ⟨vFields (.vneg (f.ops o)), execVneg (f.ops o)⟩
  | .vsqrt o => some ⟨vFields (.vsqrt (f.ops o)), execVsqrt (f.ops o)⟩
  | .vrcp o => some ⟨vFields (.vrcp (f.ops o)), execVrcp (f.ops o)⟩
  | .vrsqrt o => some ⟨vFields (.vrsqrt (f.ops o)), execVrsqrt (f.ops o)⟩
  | .vexp o => some ⟨vFields (.vexp (f.ops o)), execVexp (f.ops o)⟩
  | .vlog o => some ⟨vFields (.vlog (f.ops o)), execVlog (f.ops o)⟩
  | .vtanh o => some ⟨vFields (.vtanh (f.ops o)), execVtanh (f.ops o)⟩
  | .vsigm o => some ⟨vFields (.vsigm (f.ops o)), execVsigm (f.ops o)⟩
  | .vcmp c o => some ⟨vFields (.vcmp c (f.ops o)), execVcmp c (f.ops o)⟩
  | .vsel o => some ⟨vFields (.vsel (f.ops o)), execVsel (f.ops o)⟩
  | .vred arr msk o => some ⟨vFields (.vred arr msk (f.ops o)), execVred arr msk (f.ops o)⟩
  | .vredmax arr msk o => some ⟨vFields (.vredmax arr msk (f.ops o)), execVredmax arr msk (f.ops o)⟩
  | .vredmin arr msk o => some ⟨vFields (.vredmin arr msk (f.ops o)), execVredmin arr msk (f.ops o)⟩
  | .vdot arr o => some ⟨vFields (.vdot arr (f.ops o)), execVdot arr (f.ops o)⟩
  | .vsmax dvM1 o => some ⟨vFields (.vsmax dvM1 (f.ops o)), execVsmax dvM1 (f.ops o)⟩
  | .vsmaxf dvM1 o => some ⟨vFields (.vsmaxf dvM1 (f.ops o)), execVsmaxf dvM1 (f.ops o)⟩

  | _ => none

/-- The register a field names, and whether it is a pair. -/
def fieldReg (l : List FReg) (k : Nat) : Option (Nat × Bool) :=
  match l.filter (fun p => p.1 == k) with
  | [] => none
  | p :: t => some (p.2.val, !t.isEmpty)

/-- Whether a post-increment load names its own address register as a destination (R151). -/
def postClash (f : Stepped) (i : Instr) : Bool :=
  match i with
  | .ldPostinc sz d a => !postOk sz (f.d d) (f.a a)
  | .ldsPostinc _ d a => f.d d == f.a a
  | _ => false

/-- The checks of a REP and its target (R117 checks 8 to 10, R121, R151) for marked fields, step and count: cause and TRAPINFO of the
first that fails. A target or mask that REP does not take comes before REPCNT. (DEDUCED, log 66.) -/
def repChecks (nregs : Nat) (i : Instr) (md ma mb : Bool) (st n repcnt : Nat) : Option (Nat × Word) :=
  match repTarget (Stepped.by false false false 0) i, repTarget (Stepped.by md ma mb (st * (n - 1))) i with
  | some t0, some t1 =>
    let marks := [(0, md), (1, ma), (2, mb)].filter (fun p => p.2)
    if marks.any (fun p => (fieldReg t0.fields p.1).isNone) then some (0x01, 6)
    else if n ≤ repcnt then some (0x01, 7)
    else
      match marks.find? (fun p => match fieldReg t0.fields p.1 with | some (r, _) => 31 < r + st * (n - 1) | none => false) with
      | some p => some (0x04, wordOf (p.1 * 2 ^ 21))
      | none =>
        let odd := marks.find? (fun p => match fieldReg t0.fields p.1 with | some (_, pair) => pair && st % 2 = 1 && 1 < n | none => false)
        match odd with
        | some p => some (0x01, wordOf (4 + 256 * (16 + 5 * p.1)))
        | none =>
          if (List.range n).any (fun k => postClash (Stepped.by md ma mb (st * k)) i) then some (0x01, wordOf (4 + 256 * 21)) else
          match outOfPart nregs t1.fields with
          | some (k, r) => some (0x03, wordOf (k * 2 ^ 21 + r.val * 2 ^ 16))
          | none => none
  | _, _ => some (0x01, 6)

/-- Marks the repetition being performed. (DEDUCED, log 86.) -/
def State.inRep (s : State) (r : Option (Nat × Nat)) : State := { s with cur := { s.cur with rep := r } }

/-- After the target's meaning, the repetition is over. -/
def leaveRep (o : Out) : Out :=
  match o with
  | .next s => .next (s.inRep none)
  | .fault f => .fault f
  | .refused r => .refused r

/-- REP (R120, R121): the checks, then repetition REPCNT of the target. -/
def execRep (stepM1 : BitVec 2) (md ma mb : Bool) (cntM1 : BitVec 6) (s : State) : Out :=
  let c := s.cur.core
  let sl := s.cur.slot
  match s.thread c sl with
  | none => .next s
  | some t =>
    match fetchAt s c sl t (t.pc + 8) with
    | (.error (cause, info), s1) => .next (takeTrap s1 c sl cause info)
    | (.ok (i, _), s1) =>
      let st := stepM1.toNat + 1
      let n := cntM1.toNat + 1
      match repChecks (s1.nregs c) i md ma mb st n t.repcnt with
      | some (cause, info) =>
        let s2 := if info = 7 && cause = 0x01 then s1.modThread c sl (fun t => { t with repcnt := 0 }) else s1
        .next (takeTrap s2 c sl cause info)
      | none =>
        match repTarget (Stepped.by md ma mb (st * t.repcnt)) i with
        | some g => leaveRep (g.run (s1.inRep (some (t.repcnt, n))))
        | none => .next s1

end Sys2Proof.Machine
end

