-- ==== Sys2Proof/Machine/Walks.lean ====
section
/-! DEFINITION. Queued walks of engine work (R303, R306, R307). -/

namespace Sys2Proof.Machine

/-- The engine number and PAY of a report about waiting work, and its thread (R286, R355). -/
def refReport (s : State) (r : EngRef) : Nat × Word × Word :=
  match r with
  | .copy id => match s.eng.copies.find? (fun c => c.id == id) with | some c => (1, c.xfer s, c.tid) | none => (1, 0, 0)
  | .array n h => match s.arrRun n h with | some a => (2, h, a.cmd.tid) | none => (2, h, 0)
  | .tile w _ | .sweepEnd w => match s.eng.sweeps.find? (fun x => x.id == w) with | some x => (3, x.h, x.tid) | none => (3, 0, 0)

/-- A page fault of engine work: recorded, reported when ENG holds cause 0x06, and posted (R286, R307, R355). -/
def foundFault (s : State) (w : Walk) (reason : Nat) : State :=
  let (eng, pay, tid) := refReport s w.ref
  postFault (engFault s w.core w.slot tid 0x06 eng pay w.va) w reason s.time

/-- The access of an ACC code (R305). -/
def Acc.ofCode (n : Nat) : Acc :=
  match n with
  | 0 => .read
  | 1 => .write
  | 2 => .rmw
  | _ => .fetch

/-- What a walk's outcome is to one miss that it serves (R304, R307): the work goes on, waits for an answer, or ends. -/
def serveMiss (s : State) (w : Walk) : State :=
  if !s.waits w.ref then s
  else
  let x : EngCtx := ⟨w.tenant, w.kernel, w.core, w.slot, false⟩
  match resolveFrom s x (Acc.ofCode w.acc) w.va with
  | .ok _ => resumeEng (noteUsed s x [w.va]) w.ref
  | .error (0x06, _, reason) => foundFault s w reason
  | .error (cause, _, _) => endEng s w.ref cause w.va

/-- PAGE_WALK: queued walk `n` is made, with fewer than 64 of its die before it, and serves the misses that wait for it (R306).
(DESIGN CHOICE, log 75.) -/
def execPageWalk (n : Nat) (s : State) : Out :=
  match s.xl.walks[n]? with
  | none => .next s
  | some w =>
    if 64 ≤ ((s.xl.walks.take n).filter (fun x => cluOf x.core / 24 == cluOf w.core / 24)).length then .next s
    else
      let s1 := { s with xl := { s.xl with walks := delAt s.xl.walks n, merged := s.xl.merged.filter (fun x => !w.same x) } }
      .next (unstall ((w :: s.xl.merged.filter w.same).foldl serveMiss s1))

end Sys2Proof.Machine
end

