-- ==== Sys2Proof/Machine/Dispatch.lean ====
section
/-! DEFINITION. One arm for every constructor of `Instr`: a direct call of its meaning, or a refusal by name. -/

namespace Sys2Proof.Machine

def exec (i : Instr) (s : State) : Host.Outcome State Fault Refusal :=
  match i with
  | .add d a b => Sys2Proof.Machine.execAdd d a b s
  | .sub d a b => Sys2Proof.Machine.execSub d a b s
  | .adc d a b => Sys2Proof.Machine.execAdc d a b s
  | .sbc d a b => Sys2Proof.Machine.execSbc d a b s
  | .and d a b => Sys2Proof.Machine.execAnd d a b s
  | .or d a b => Sys2Proof.Machine.execOr d a b s
  | .xor d a b => Sys2Proof.Machine.execXor d a b s
  | .andn d a b => Sys2Proof.Machine.execAndn d a b s
  | .shl d a b => Sys2Proof.Machine.execShl d a b s
  | .shr d a b => Sys2Proof.Machine.execShr d a b s
  | .sar d a b => Sys2Proof.Machine.execSar d a b s
  | .ror d a b => Sys2Proof.Machine.execRor d a b s
  | .mul d a b => Sys2Proof.Machine.execMul d a b s
  | .mulhu d a b => Sys2Proof.Machine.execMulhu d a b s
  | .mulhs d a b => Sys2Proof.Machine.execMulhs d a b s
  | .divu d a b => Sys2Proof.Machine.execDivu d a b s
  | .divs d a b => Sys2Proof.Machine.execDivs d a b s
  | .remu d a b => Sys2Proof.Machine.execRemu d a b s
  | .rems d a b => Sys2Proof.Machine.execRems d a b s
  | .minu d a b => Sys2Proof.Machine.execMinu d a b s
  | .mins d a b => Sys2Proof.Machine.execMins d a b s
  | .maxu d a b => Sys2Proof.Machine.execMaxu d a b s
  | .maxs d a b => Sys2Proof.Machine.execMaxs d a b s
  | .cmp a b => Sys2Proof.Machine.execCmp a b s
  | .tst a b => Sys2Proof.Machine.execTst a b s
  | .neg d a => Sys2Proof.Machine.execNeg d a s
  | .addi d a imm => Sys2Proof.Machine.execAddi d a imm s
  | .subi d a imm => Sys2Proof.Machine.execSubi d a imm s
  | .adci d a imm => Sys2Proof.Machine.execAdci d a imm s
  | .sbci d a imm => Sys2Proof.Machine.execSbci d a imm s
  | .andi d a imm => Sys2Proof.Machine.execAndi d a imm s
  | .ori d a imm => Sys2Proof.Machine.execOri d a imm s
  | .xori d a imm => Sys2Proof.Machine.execXori d a imm s
  | .andni d a imm => Sys2Proof.Machine.execAndni d a imm s
  | .shli d a imm => Sys2Proof.Machine.execShli d a imm s
  | .shri d a imm => Sys2Proof.Machine.execShri d a imm s
  | .sari d a imm => Sys2Proof.Machine.execSari d a imm s
  | .rori d a imm => Sys2Proof.Machine.execRori d a imm s
  | .muli d a imm => Sys2Proof.Machine.execMuli d a imm s
  | .mulhui d a imm => Sys2Proof.Machine.execMulhui d a imm s
  | .mulhsi d a imm => Sys2Proof.Machine.execMulhsi d a imm s
  | .divui d a imm => Sys2Proof.Machine.execDivui d a imm s
  | .divsi d a imm => Sys2Proof.Machine.execDivsi d a imm s
  | .remui d a imm => Sys2Proof.Machine.execRemui d a imm s
  | .remsi d a imm => Sys2Proof.Machine.execRemsi d a imm s
  | .minui d a imm => Sys2Proof.Machine.execMinui d a imm s
  | .minsi d a imm => Sys2Proof.Machine.execMinsi d a imm s
  | .maxui d a imm => Sys2Proof.Machine.execMaxui d a imm s
  | .maxsi d a imm => Sys2Proof.Machine.execMaxsi d a imm s
  | .cmpi a imm => Sys2Proof.Machine.execCmpi a imm s
  | .tsti a imm => Sys2Proof.Machine.execTsti a imm s
  | .mov d a => Sys2Proof.Machine.execMov d a s
  | .movi d imm => Sys2Proof.Machine.execMovi d imm s
  | .movhi d v => Sys2Proof.Machine.execMovhi d v s
  | .lea d a imm => Sys2Proof.Machine.execLea d a imm s
  | .leax d a b sh => Sys2Proof.Machine.execLeax d a b sh s
  | .adr d imm => Sys2Proof.Machine.execAdr d imm s
  | .sext sz d a => Sys2Proof.Machine.execSext sz d a s
  | .zext sz d a => Sys2Proof.Machine.execZext sz d a s
  | .clz d a => Sys2Proof.Machine.execClz d a s
  | .ctz d a => Sys2Proof.Machine.execCtz d a s
  | .popc d a => Sys2Proof.Machine.execPopc d a s
  | .bswap d a => Sys2Proof.Machine.execBswap d a s
  | .brev d a => Sys2Proof.Machine.execBrev d a s
  | .bfx d a pos len => Sys2Proof.Machine.execBfx d a pos len s
  | .bfxs d a pos len => Sys2Proof.Machine.execBfxs d a pos len s
  | .bfi d a pos len => Sys2Proof.Machine.execBfi d a pos len s
  | .csel c d a b => Sys2Proof.Machine.execCsel c d a b s
  | .cset c d => Sys2Proof.Machine.execCset c d s
  | .fadd t d a b => Sys2Proof.Machine.execFadd t d a b s
  | .fsub t d a b => Sys2Proof.Machine.execFsub t d a b s
  | .fmul t d a b => Sys2Proof.Machine.execFmul t d a b s
  | .fdiv t d a b => Sys2Proof.Machine.execFdiv t d a b s
  | .fsqrt t d a => Sys2Proof.Machine.execFsqrt t d a s
  | .fma t d a b => Sys2Proof.Machine.execFma t d a b s
  | .fmin t d a b => Sys2Proof.Machine.execFmin t d a b s
  | .fmax t d a b => Sys2Proof.Machine.execFmax t d a b s
  | .fcmp t a b => Sys2Proof.Machine.execFcmp t a b s
  | .fabs t d a => Sys2Proof.Machine.execFabs t d a s
  | .fneg t d a => Sys2Proof.Machine.execFneg t d a s
  | .fcvt dst src d a => Sys2Proof.Machine.execFcvt dst src d a s
  | .nop64 => Sys2Proof.Machine.execNop64 s
  | .nop96 => Sys2Proof.Machine.execNop96 s
  | .b disp => Sys2Proof.Machine.execB disp s
  | .bc c disp => Sys2Proof.Machine.execBc c disp s
  | .bl d disp => Sys2Proof.Machine.execBl d disp s
  | .cbz a disp => Sys2Proof.Machine.execCbz a disp s
  | .cbnz a disp => Sys2Proof.Machine.execCbnz a disp s
  | .dbnz d disp => Sys2Proof.Machine.execDbnz d disp s
  | .jr a => Sys2Proof.Machine.execJr a s
  | .jlr d a => Sys2Proof.Machine.execJlr d a s
  | .jmpa t => Sys2Proof.Machine.execJmpa t s
  | .bla d t => Sys2Proof.Machine.execBla d t s
  | .exit => Sys2Proof.Machine.execExit s
  | .rep stepM1 md ma mb cntM1 => Sys2Proof.Machine.execRep stepM1 md ma mb cntM1 s
  | .hintAlign m t => Sys2Proof.Machine.execHintAlign m t s
  | .rdctl d c => Sys2Proof.Machine.execRdctl d c s
  | .wrctl c a => Sys2Proof.Machine.execWrctl c a s
  | .rmset m => Sys2Proof.Machine.execRmset m s
  | .flgrd d => Sys2Proof.Machine.execFlgrd d s
  | .flgrdClu d => Sys2Proof.Machine.execFlgrdClu d s
  | .flgclr m => Sys2Proof.Machine.execFlgclr m s
  | .flgclrClu m => Sys2Proof.Machine.execFlgclrClu m s
  | .flgftClu d f => Sys2Proof.Machine.execFlgftClu d f s
  | .tsrd d => Sys2Proof.Machine.execTsrd d s
  | .evmark a b code => Sys2Proof.Machine.execEvmark a b code s
  | .ld sz d a o => Sys2Proof.Machine.execLd sz d a o s
  | .lds sz d a o => Sys2Proof.Machine.execLds sz d a o s
  | .ldPostinc sz d a => Sys2Proof.Machine.execLdPostinc sz d a s
  | .ldsPostinc sz d a => Sys2Proof.Machine.execLdsPostinc sz d a s
  | .st sz a o b => Sys2Proof.Machine.execSt sz a o b s
  | .stPostinc sz a b => Sys2Proof.Machine.execStPostinc sz a b s
  | .ald sz d a o r => Sys2Proof.Machine.execAld sz d a o r s
  | .ast sz a o b r => Sys2Proof.Machine.execAst sz a o b r s
  | .aswp sz d a o b r => Sys2Proof.Machine.execAswp sz d a o b r s
  | .aadd sz d a o b r => Sys2Proof.Machine.execAadd sz d a o b r s
  | .aand sz d a o b r => Sys2Proof.Machine.execAand sz d a o b r s
  | .aor sz d a o b r => Sys2Proof.Machine.execAor sz d a o b r s
  | .axor sz d a o b r => Sys2Proof.Machine.execAxor sz d a o b r s
  | .aminu sz d a o b r => Sys2Proof.Machine.execAminu sz d a o b r s
  | .amins sz d a o b r => Sys2Proof.Machine.execAmins sz d a o b r s
  | .amaxu sz d a o b r => Sys2Proof.Machine.execAmaxu sz d a o b r s
  | .amaxs sz d a o b r => Sys2Proof.Machine.execAmaxs sz d a o b r s
  | .acas sz d a o b r => Sys2Proof.Machine.execAcas sz d a o b r s
  | .afadd t d a o b r => Sys2Proof.Machine.execAfadd t d a o b r s
  | .phaseRel s1 => Sys2Proof.Machine.execPhaseRel s1 s
  | .phaseAcq s1 => Sys2Proof.Machine.execPhaseAcq s1 s
  | .phase s1 => Sys2Proof.Machine.execPhase s1 s
  | .fenceRel s1 => Sys2Proof.Machine.execFenceRel s1 s
  | .fenceAcq s1 => Sys2Proof.Machine.execFenceAcq s1 s
  | .fenceAcqRel s1 => Sys2Proof.Machine.execFenceAcqRel s1 s
  | .binit byt s1 a b => Sys2Proof.Machine.execBinit byt s1 a b s
  | .barr a b r => Sys2Proof.Machine.execBarr a b r s
  | .bardrop a b r => Sys2Proof.Machine.execBardrop a b r s
  | .bwait a b r => Sys2Proof.Machine.execBwait a b r s
  | .bsync a b r => Sys2Proof.Machine.execBsync a b r s
  | .bexpect a b => Sys2Proof.Machine.execBexpect a b s
  | .barrb a b r => Sys2Proof.Machine.execBarrb a b r s
  | .send d a b code => Sys2Proof.Machine.execSend d a b code s
  | .mytid d => Sys2Proof.Machine.execMytid d s
  | .mret => Sys2Proof.Machine.execMret s
  | .mmask => Sys2Proof.Machine.execMmask s
  | .munmask => Sys2Proof.Machine.execMunmask s
  | .mwait => Sys2Proof.Machine.execMwait s
  | .vmov o => Sys2Proof.Machine.execVmov o s
  | .vadd o => Sys2Proof.Machine.execVadd o s
  | .vsub o => Sys2Proof.Machine.execVsub o s
  | .vmul o => Sys2Proof.Machine.execVmul o s
  | .vdiv o => Sys2Proof.Machine.execVdiv o s
  | .vmin o => Sys2Proof.Machine.execVmin o s
  | .vmax o => Sys2Proof.Machine.execVmax o s
  | .vfma o => Sys2Proof.Machine.execVfma o s
  | .vand o => Sys2Proof.Machine.execVand o s
  | .vor o => Sys2Proof.Machine.execVor o s
  | .vxor o => Sys2Proof.Machine.execVxor o s
  | .vshl o => Sys2Proof.Machine.execVshl o s
  | .vshr o => Sys2Proof.Machine.execVshr o s
  | .vsar o => Sys2Proof.Machine.execVsar o s
  | .vabs o => Sys2Proof.Machine.execVabs o s
  | .vneg o => Sys2Proof.Machine.execVneg o s
  | .vsqrt o => Sys2Proof.Machine.execVsqrt o s
  | .vrcp o => Sys2Proof.Machine.execVrcp o s
  | .vrsqrt o => Sys2Proof.Machine.execVrsqrt o s
  | .vexp o => Sys2Proof.Machine.execVexp o s
  | .vlog o => Sys2Proof.Machine.execVlog o s
  | .vtanh o => Sys2Proof.Machine.execVtanh o s
  | .vsigm o => Sys2Proof.Machine.execVsigm o s
  | .vcmp c o => Sys2Proof.Machine.execVcmp c o s
  | .vsel o => Sys2Proof.Machine.execVsel o s
  | .vred arr msk o => Sys2Proof.Machine.execVred arr msk o s
  | .vredmax arr msk o => Sys2Proof.Machine.execVredmax arr msk o s
  | .vredmin arr msk o => Sys2Proof.Machine.execVredmin arr msk o s
  | .vdot arr o => Sys2Proof.Machine.execVdot arr o s
  | .vsmax dvM1 o => Sys2Proof.Machine.execVsmax dvM1 o s
  | .vsmaxf dvM1 o => Sys2Proof.Machine.execVsmaxf dvM1 o s
  | .mtc c a => Sys2Proof.Machine.execMtc c a s
  | .mfc d c => Sys2Proof.Machine.execMfc d c s
  | .claunch d => Sys2Proof.Machine.execClaunch d s
  | .cstat d a => Sys2Proof.Machine.execCstat d a s
  | .halo d a b gxM1 gyM1 wrap => Sys2Proof.Machine.execHalo d a b gxM1 gyM1 wrap s
  | .twaitany d a => Sys2Proof.Machine.execTwaitany d a s
  | .twaitall d a => Sys2Proof.Machine.execTwaitall d a s
  | .tffr d a => Sys2Proof.Machine.execTffr d a s
  | .twaitanySrc d a => Sys2Proof.Machine.execTwaitanySrc d a s
  | .twaitallSrc d a => Sys2Proof.Machine.execTwaitallSrc d a s
  | .tffrSrc d a => Sys2Proof.Machine.execTffrSrc d a s
  | .cseal => Sys2Proof.Machine.execCseal s
  | .cwaitn n => Sys2Proof.Machine.execCwaitn n s
  | .cwaitnSrc n => Sys2Proof.Machine.execCwaitnSrc n s
  | .ftest d a => Sys2Proof.Machine.execFtest d a s
  | .fpass d a => Sys2Proof.Machine.execFpass d a s
  | .fpassMem a o b => Sys2Proof.Machine.execFpassMem a o b s
  | .fcancel a => Sys2Proof.Machine.execFcancel a s
  | .ftime d a => Sys2Proof.Machine.execFtime d a s
  | .fwait a => Sys2Proof.Machine.execFwait a s
  | .mcfg keep t a r => Sys2Proof.Machine.execMcfg keep t a r s
  | .mzero t r => Sys2Proof.Machine.execMzero t r s
  | .mma sc pp o r => Sys2Proof.Machine.execMma sc pp o r s
  | .mmas pat8 o r => Sys2Proof.Machine.execMmas pat8 o r s
  | .mcomp pat8 d a e km1 rowsM1 => Sys2Proof.Machine.execMcomp pat8 d a e km1 rowsM1 s
  | .mstat d t => Sys2Proof.Machine.execMstat d t s
  | .mprog d => Sys2Proof.Machine.execMprog d s
  | .sweep t arr res d a k e f seg cl0 nclM1 r => Sys2Proof.Machine.execSweep t arr res d a k e f seg cl0 nclM1 r s
  | .swstat d a => Sys2Proof.Machine.execSwstat d a s
  | .swcancel a => Sys2Proof.Machine.execSwcancel a s
  | .swmerge t arr d a b => Sys2Proof.Machine.execSwmerge t arr d a b s
  | .swmergeSsa d a => Sys2Proof.Machine.execSwmergeSsa d a s
  | .capt k a cmask cbase => Sys2Proof.Machine.execCapt k a cmask cbase s
  | .captr k a cmask rmask cbase => Sys2Proof.Machine.execCaptr k a cmask rmask cbase s
  | .apply k => Sys2Proof.Machine.execApply k s
  | .ret => Sys2Proof.Machine.execRet s
  | .applyA d k named r => Sys2Proof.Machine.execApplyA d k named r s
  | .kdup d b => Sys2Proof.Machine.execKdup d b s
  | .kdrop b => Sys2Proof.Machine.execKdrop b s
  | .kst a o b => Sys2Proof.Machine.execKst a o b s
  | .kld d a o => Sys2Proof.Machine.execKld d a o s
  | .krelm a o => Sys2Proof.Machine.execKrelm a o s
  | .migr a => Sys2Proof.Machine.execMigr a s
  | .migrto a => Sys2Proof.Machine.execMigrto a s
  | .park d a k e npM1 cls r => Sys2Proof.Machine.execPark d a k e npM1 cls r s
  | .wakew a b r => Sys2Proof.Machine.execWakew a b r s
  | .estat d a => Sys2Proof.Machine.execEstat d a s
  | .trap code => Sys2Proof.Machine.execTrap code s
  | .syscall code => Sys2Proof.Machine.execSyscall code s
  | .eret => Sys2Proof.Machine.execEret s
  | .eretEnd => Sys2Proof.Machine.execEretEnd s
  | .mfs d r => Sys2Proof.Machine.execMfs d r s
  | .mts r a => Sys2Proof.Machine.execMts r a s
  | .repart d a => Sys2Proof.Machine.execRepart d a s
  | .spillslot d a b => Sys2Proof.Machine.execSpillslot d a b s
  | .fillslot d a b => Sys2Proof.Machine.execFillslot d a b s
  | .fillslotEnd d a b => Sys2Proof.Machine.execFillslotEnd d a b s
  | .tlbinv kind a b => Sys2Proof.Machine.execTlbinv kind a b s
  | .launch d a b e pri => Sys2Proof.Machine.execLaunch d a b e pri s
  | .sleep a => Sys2Proof.Machine.execSleep a s
  | .assaytrig tag => Sys2Proof.Machine.execAssaytrig tag s
  | .alignPointRelease core slot => Sys2Proof.Machine.execAlignPointRelease core slot s
  | .messageArrival n => Sys2Proof.Machine.execMessageArrival n s
  | .messageDelivery core slot => Sys2Proof.Machine.execMessageDelivery core slot s
  | .messageMaskOverrun core slot => Sys2Proof.Machine.execMessageMaskOverrun core slot s
  | .vectorStart core => Sys2Proof.Machine.execVectorStart core s
  | .vectorCompletion core => Sys2Proof.Machine.execVectorCompletion core s
  | .copyStart id => Sys2Proof.Machine.execCopyStart id s
  | .copyReleased id => Sys2Proof.Machine.execCopyReleased id s
  | .copyLanded id => Sys2Proof.Machine.execCopyLanded id s
  | .haloCopy id => Sys2Proof.Machine.execHaloCopy id s
  | .futureCompletion n => Sys2Proof.Machine.execFutureCompletion n s
  | .arrayCommandStart clu => Sys2Proof.Machine.execArrayCommandStart clu s
  | .rowBlockWrite clu => Sys2Proof.Machine.execRowBlockWrite clu s
  | .arrayCommandEnd clu => Sys2Proof.Machine.execArrayCommandEnd clu s
  | .sweepAcceptance core slot => Sys2Proof.Machine.execSweepAcceptance core slot s
  | .tileDelivery sw tile core => Sys2Proof.Machine.execTileDelivery sw tile core s
  | .tileAgePriority sw tile => Sys2Proof.Machine.execTileAgePriority sw tile s
  | .swsuspGo tslot => Sys2Proof.Machine.execSwsuspGo tslot s
  | .migrationFlit n => Sys2Proof.Machine.execMigrationFlit n s
  | .parkAcceptance n => Sys2Proof.Machine.execParkAcceptance n s
  | .wakeWrite cell v => Sys2Proof.Machine.execWakeWrite cell v s
  | .hbmDwellExpiry cell => Sys2Proof.Machine.execHbmDwellExpiry cell s
  | .cxlDwellExpiry cell => Sys2Proof.Machine.execCxlDwellExpiry cell s
  | .pageMoveComplete cell page err => Sys2Proof.Machine.execPageMoveComplete cell page err s
  | .promotionStageComplete cell page err => Sys2Proof.Machine.execPromotionStageComplete cell page err s
  | .ecellclr p v => Sys2Proof.Machine.execEcellclr p v s
  | .spill core slot => Sys2Proof.Machine.execSpill core slot s
  | .sleepExpiry core slot => Sys2Proof.Machine.execSleepExpiry core slot s
  | .memoryReply core slot => Sys2Proof.Machine.execMemoryReply core slot s
  | .bufferedWritePerformed core n => Sys2Proof.Machine.execBufferedWritePerformed core n s
  | .pinFreeResume core slot => Sys2Proof.Machine.execPinFreeResume core slot s
  | .pageWalk n => Sys2Proof.Machine.execPageWalk n s
  | .efrespResolve p token => Sys2Proof.Machine.execEfrespResolve p token s
  | .efrespUnresolvable p token => Sys2Proof.Machine.execEfrespUnresolvable p token s
  | .efheadWrite p v => Sys2Proof.Machine.execEfheadWrite p v s
  | .threadCreation n => Sys2Proof.Machine.execThreadCreation n s
  | .taskPlacement l die core => Sys2Proof.Machine.execTaskPlacement l die core s
  | .dieSteal l die => Sys2Proof.Machine.execDieSteal l die s
  | .ctenWrite p core v => Sys2Proof.Machine.execCtenWrite p core v s
  | .covfWrite p core v => Sys2Proof.Machine.execCovfWrite p core v s
  | .qdoor p q v => Sys2Proof.Machine.execQdoor p q v s
  | .qcfgWrite p q v => Sys2Proof.Machine.execQcfgWrite p q v s
  | .suspend p q => Sys2Proof.Machine.execSuspend p q s
  | .resume p q => Sys2Proof.Machine.execResume p q s
  | .skip p q => Sys2Proof.Machine.execSkip p q s
  | .destroy p q kill => Sys2Proof.Machine.execDestroy p q kill s
  | .queueDestruction q => Sys2Proof.Machine.execQueueDestruction q s
  | .wsat p q v => Sys2Proof.Machine.execWsat p q v s
  | .packetFetch q => Sys2Proof.Machine.execPacketFetch q s
  | .nop q => Sys2Proof.Machine.execNop q s
  | .launchPacket q => Sys2Proof.Machine.execLaunchPacket q s
  | .applyPacket q => Sys2Proof.Machine.execApplyPacket q s
  | .copyPacket q => Sys2Proof.Machine.execCopyPacket q s
  | .signal q => Sys2Proof.Machine.execSignal q s
  | .wait q => Sys2Proof.Machine.execWait q s
  | .andbar q => Sys2Proof.Machine.execAndbar q s
  | .timestamp q => Sys2Proof.Machine.execTimestamp q s
  | .config q => Sys2Proof.Machine.execConfig q s
  | .packetCompletion n => Sys2Proof.Machine.execPacketCompletion n s
  | .queueAgeing q => Sys2Proof.Machine.execQueueAgeing q s
  | .waitSlotSpill => Sys2Proof.Machine.execWaitSlotSpill s
  | .deadlockReport qs => Sys2Proof.Machine.execDeadlockReport qs s
  | .tevheadWrite p v => Sys2Proof.Machine.execTevheadWrite p v s
  | .patrolScrub line => Sys2Proof.Machine.execPatrolScrub line s
  | .ccsctlWrite p v => Sys2Proof.Machine.execCcsctlWrite p v s
  | .ccsWindowWrite p block data chunks => Sys2Proof.Machine.execCcsWindowWrite p block data chunks s
  | .eyeMarginLow n ew eh lane => Sys2Proof.Machine.execEyeMarginLow n ew eh lane s
  | .repair p n => Sys2Proof.Machine.execRepair p n s
  | .rtrn p n => Sys2Proof.Machine.execRtrn p n s
  | .flitReceive n crcOk => Sys2Proof.Machine.execFlitReceive n crcOk s
  | .linkFailure m down => Sys2Proof.Machine.execLinkFailure m down s
  | .timeMessageSend port => Sys2Proof.Machine.execTimeMessageSend port s
  | .timeMessageReceive port sent rtt => Sys2Proof.Machine.execTimeMessageReceive port sent rtt s
  | .cxlLinkDown port => Sys2Proof.Machine.execCxlLinkDown port s
  | .flashCommandCompletion cell page status => Sys2Proof.Machine.execFlashCommandCompletion cell page status s
  | .ppsEdge => Sys2Proof.Machine.execPpsEdge s
  | .todMessage lo hi => Sys2Proof.Machine.execTodMessage lo hi s
  | .timeSourceLoss => Sys2Proof.Machine.execTimeSourceLoss s
  | .timeWrap => Sys2Proof.Machine.execTimeWrap s
  | .tstep p v => Sys2Proof.Machine.execTstep p v s
  | .actlWrite clu v => Sys2Proof.Machine.execActlWrite clu v s
  | .arheadWrite clu v => Sys2Proof.Machine.execArheadWrite clu v s
  | .traceRecordWrite clu => Sys2Proof.Machine.execTraceRecordWrite clu s
  | .snapshotTrigger src tag tid => Sys2Proof.Machine.execSnapshotTrigger src tag tid s
  | .snapin => Sys2Proof.Machine.execSnapin s
  | .fire p => Sys2Proof.Machine.execFire p s
  | .arm p => Sys2Proof.Machine.execArm p s
  | .getVersion => Sys2Proof.Machine.execGetVersion s
  | .getCapabilities => Sys2Proof.Machine.execGetCapabilities s
  | .negotiateAlgorithms asym hash aead => Sys2Proof.Machine.execNegotiateAlgorithms asym hash aead s
  | .getDigests => Sys2Proof.Machine.execGetDigests s
  | .getCertificate slot off len => Sys2Proof.Machine.execGetCertificate slot off len s
  | .challenge slot nonce => Sys2Proof.Machine.execChallenge slot nonce s
  | .getMeasurements index nonce => Sys2Proof.Machine.execGetMeasurements index nonce s
  | .keyExchange share => Sys2Proof.Machine.execKeyExchange share s
  | .finish mac => Sys2Proof.Machine.execFinish mac s
  | .endSession => Sys2Proof.Machine.execEndSession s
  | .fwverify p v => Sys2Proof.Machine.execFwverify p v s
  | .fwverifyDone => Sys2Proof.Machine.execFwverifyDone s
  | .fwswitch p v => Sys2Proof.Machine.execFwswitch p v s
  | .fwswitchDone => Sys2Proof.Machine.execFwswitchDone s
  | .fwhb p v => Sys2Proof.Machine.execFwhb p v s
  | .fwRollback => Sys2Proof.Machine.execFwRollback s
  | .fwdig p v => Sys2Proof.Machine.execFwdig p v s
  | .fwdigDone => Sys2Proof.Machine.execFwdigDone s
  | .powerOn badGroup => Sys2Proof.Machine.execPowerOn badGroup s
  | .islWrite p n v => Sys2Proof.Machine.execIslWrite p n v s
  | .thermalThrottle n tj => Sys2Proof.Machine.execThermalThrottle n tj s
  | .throttleStep n => Sys2Proof.Machine.execThrottleStep n s
  | .powerLimitWindow draw => Sys2Proof.Machine.execPowerLimitWindow draw s
  | .registerWrite p pa bytes v => Sys2Proof.Machine.execRegisterWrite p pa bytes v s
  | .hostBar2Write func va data => Sys2Proof.Machine.execHostBar2Write func va data s
  | .holdoverLockExpiry => Sys2Proof.Machine.execHoldoverLockExpiry s
  | .retrainHoldEnd n => Sys2Proof.Machine.execRetrainHoldEnd n s
  | .islandChangeHoldEnd n => Sys2Proof.Machine.execIslandChangeHoldEnd n s

end Sys2Proof.Machine
end

