-- ==== Sys2Proof/Machine/Sched.lean ====
section
/-! DEFINITION. What comes next: how a thread comes to issue (R35, R44, R45, R291), and the turn the machine takes of itself when its surroundings order none (log 1). -/

namespace Sys2Proof.Machine

/-! Issue. -/

/-- Whether a thread waits for what only its instruction tests, each time it issues again (R35, R216, R260). -/
def polls (t : Thread) : Bool :=
  match t.wait with
  | .tags | .flush | .arrayFull | .migr => true
  | _ => false

/-- The state that a step of a meaning answers, if it answers one. -/
def outState (s : State) (o : Out) : State :=
  match o with
  | .next s1 => s1
  | _ => s

/-- The slot whose thread issues, back in the rotation. -/
def enterIssue (s : State) (c sl : Nat) : State :=
  let k := s.ckOf c
  { (s.setCore c { s.core c with lastSlot := sl, nextCk := k + 1 }).modThread c sl (fun t =>
      s.touched c 1 { t with wait := .none, nextCk := k + Config.issueCk }) with cur := ⟨c, sl, none⟩ }

/-- Whether what a thread's instruction tests has come: issued now, it would not wait for it again. -/
def pollEnds (s : State) (c sl : Nat) : Bool :=
  match fetchNext (enterIssue s c sl) c sl with
  | .ended _ => true
  | .instr i s1 => (match (outState s1 (exec i s1)).thread c sl with | some t => !polls t | none => true)

/-- Whether the wait of a thread is over, so that it is in the rotation or re-enters it now (R35, R41, R45): a slot whose thread waits is
skipped. -/
def reissues (s : State) (c sl : Nat) (t : Thread) : Bool := reentered s c t || overrunEnds s c sl t || (polls t && pollEnds s c sl)

/-- Whether the thread of a slot may issue: it is not halted, its wait is over, and its island does not hold issue (R35, R283,
R368). -/
def mayIssue (s : State) (c sl : Nat) (t : Thread) : Bool := !t.halted && !(s.isl (islandOf c)).hold && reissues s c sl t

/-- Whether a spill request stands for the slot's thread at its spill point (R291). -/
def spillDue (s : State) (c sl : Nat) (t : Thread) : Bool :=
  match (s.core c).spillQ with
  | r :: _ => r.slot == sl && spillPoint s c sl t
  | [] => false

/-- The queue whose destruction with kill ends the thread here (R331). -/
def doomQueue (s : State) (c sl : Nat) (t : Thread) : Option Nat :=
  (s.tr.pkts.find? (fun p => p.dead && doomed s p.q t.origin && spillPoint s c sl t)).map (fun p => p.q)

/-- What happens to a thread at its instruction boundary before it issues: a message, a spill, an end (R44, R291, R331). -/
def boundaryAct (s : State) (c sl : Nat) (t : Thread) : Option State :=
  if deliverable s c sl t && atDelivery t.wait then some (outState s (execMessageDelivery c sl s))
  else if spillDue s c sl t then some (outState s (execSpill c sl s))
  else
    match doomQueue s c sl t with
    | some q => some (endDoomed s q)
    | none => none

/-- Whether the instruction at an address is a vector form. -/
def vectorAt (s : State) (c sl : Nat) (t : Thread) (pc : Word) : Bool :=
  match (fetchAt s c sl t pc).1 with
  | .ok (i, _) => (vForm i).isSome
  | .error _ => false

/-- Whether a thread's next instruction, with a REP prefix or without, is a vector form that the core's vector queue has no place for (R34,
R121, R180). -/
def vectorHeld (s : State) (c sl : Nat) (t : Thread) : Bool :=
  (s.core c).vq.isSome && (match (fetchAt s c sl t t.pc).1 with
    | .ok (.rep .., _) => vectorAt s c sl t (t.pc + 8)
    | .ok (i, _) => (vForm i).isSome
    | .error _ => false)

/-- Whether the thread of a slot is ready (R17, R34): it may issue, and its last issue lies 8 ck or more in the past. -/
def ready (s : State) (c sl : Nat) (t : Thread) : Bool := t.nextCk ≤ s.ckOf c && mayIssue s c sl t && !vectorHeld s c sl t

/-- Whether a slot is the next ready one in slot order after the last that issued (R17). -/
def inOrder (s : State) (c sl : Nat) : Bool :=
  let far (x : Nat) : Nat := (x + 15 - (s.core c).lastSlot) % 16
  (List.range 16).all (fun x => far sl ≤ far x || (match s.thread c x with | some t => !ready s c x t | none => true))

/-- Whether the core issues the thread of a slot now (R17, R50): it has not issued in this ck, the slot is next, and nothing that
follows an issue in the order of one ck has touched the thread. -/
def issuable (s : State) (c sl : Nat) (t : Thread) : Bool :=
  (s.core c).nextCk ≤ s.ckOf c && ready s c sl t && !s.tooLate c t 1 && inOrder s c sl

/-- The thread of a slot comes to issue: what the boundary brings, a mask overrun (R45), or the instruction it fetches. -/
def prepare (s : State) (c sl : Nat) : Fetched :=
  match s.thread c sl with
  | none => .ended s
  | some t =>
    if !mayIssue s c sl t then .ended s
    else
      match boundaryAct s c sl t with
      | some s1 => .ended s1
      | none =>
        if !issuable s c sl t then .ended s
        else if overrunDue s c sl t then .ended (takeOverrun (enterIssue s c sl) c sl)
        else fetchNext (enterIssue s c sl) c sl

/-! The machine's own turns (log 1). -/

/-- An event the machine may bring about of itself. -/
abbrev Ev := State → Out

/-- Live threads with their slots. -/
def liveSlots (s : State) : List (Nat × Nat × Thread) :=
  s.slots.filterMap (fun p => match p.2.thread with | some t => some (p.1 / 16, p.1 % 16, t) | none => none)

/-- Events of a thread that is out of the rotation. -/
def threadEvents (c sl : Nat) (t : Thread) : List Ev :=
  (match t.wait with
    | .none => []
    | .reply => [execMemoryReply c sl]
    | .pin => [execPinFreeResume c sl]
    | .sweep => [execSweepAcceptance c sl]
    | .sleep _ => [execSleepExpiry c sl]
    | .align .. => [execAlignPointRelease c sl]
    | _ => [])
  ++ (if t.wait = .none then [] else [execMessageDelivery c sl])

/-- Events of a core. -/
def coreEvents (c : Nat) (k : CoreSt) : List Ev :=
  (if k.vrun.isSome || k.vq.isSome then [execVectorStart c, execVectorCompletion c] else [])
  ++ ((List.range k.wbuf.length).map (fun n => execBufferedWritePerformed c n))
  ++ (match k.spillQ with | r :: _ => [execSpill c r.slot] | [] => [])

/-- Events of a cluster. -/
def cluEvents (n : Nat) (k : CluSt) : List Ev :=
  (if k.arr.isSome || !k.arrQ.isEmpty then [execArrayCommandStart n, execRowBlockWrite n, execArrayCommandEnd n] else [])
  ++ (if k.staging.isEmpty then [] else [execTraceRecordWrite n])

/-- Events of a sweep: its lowest pending tile, on each core that may take it. -/
def sweepEvents (w : Sweep) : List Ev :=
  match (List.range w.nt).find? (fun t => w.pendingTile t) with
  | some t => execTileAgePriority w.id t :: (targetCores w.cl0 w.ncl).map (fun c => execTileDelivery w.id t c)
  | none => []

/-- Events of a park's pages. -/
def parkEvents (n : Nat) (k : Park) : List Ev :=
  (List.range k.pages.length).flatMap (fun i => [execPageMoveComplete n i false, execPromotionStageComplete n i false])

/-- Events of a wake cell. -/
def cellEvents (n : Nat) (x : Cell) : List Ev :=
  [execHbmDwellExpiry n, execCxlDwellExpiry n] ++ (match x.park with | some k => parkEvents n k | none => [])

/-- Events of the engines. -/
def engEvents (s : State) : List Ev :=
  let e := s.eng
  let idx {α : Type} (l : List α) (f : Nat → Ev) : List Ev := (List.range l.length).map f
  idx e.dones execFutureCompletion ++ idx e.net execMessageArrival ++ idx e.creations execThreadCreation ++ idx e.flits execMigrationFlit
  ++ idx e.parks execParkAcceptance ++ idx s.xl.walks execPageWalk
  ++ e.copies.flatMap (fun k => [execCopyStart k.id, execCopyReleased k.id, execCopyLanded k.id, execHaloCopy k.id])
  ++ e.sweeps.flatMap sweepEvents ++ e.cells.flatMap (fun p => cellEvents p.1 p.2) ++ e.failing.flatMap (fun p => parkEvents p.1 p.2)
  ++ idx s.fab.inbound (fun n => execFlitReceive n true)

/-- The cycle of blocked queues that starts at a queue, if there is one (R329). -/
def cycleFrom (s : State) (blocked : List Nat) : Nat → List Nat → Nat → Option (List Nat)
  | 0, _, _ => none
  | n + 1, path, q =>
    match blocked.find? (fun b => (stuckOn s q b).isSome) with
    | none => none
    | some b => if path.head? == some b then some path else if path.contains b then none else cycleFrom s blocked n (path ++ [b]) b

/-- Events of a queue. -/
def queueEvents (q : Nat) : List Ev :=
  [execQueueDestruction q, execPacketFetch q, execNop q, execLaunchPacket q, execApplyPacket q, execCopyPacket q, execSignal q, execWait q,
   execAndbar q, execTimestamp q, execConfig q, execQueueAgeing q]

/-- Events of a launch. -/
def launchEvents (s : State) (l : Launch) : List Ev :=
  l.shares.flatMap (fun p =>
    if p.2.1 < p.2.2 then (tenantCores s l.tslot p.1).map (fun c => execTaskPlacement l.id p.1 c) else [execDieSteal l.id p.1])

/-- Events of the Treasury. -/
def treasuryEvents (s : State) : List Ev :=
  let blocked := (s.tr.queues.filter (fun p => p.2.wasBlocked && !p.2.dlDone)).map (fun p => p.1)
  s.tr.queues.flatMap (fun p => queueEvents p.1) ++ s.tr.pkts.map (fun p => execPacketCompletion p.id) ++ s.tr.launches.flatMap (launchEvents s)
  ++ (if slotsHeld s < 256 then [] else [execWaitSlotSpill])
  ++ (if blocked.length < 2 then [] else blocked.filterMap (fun q => (cycleFrom s blocked blocked.length [q] q).map (fun l => execDeadlockReport l)))

/-- Events of the hub's blocks. -/
def hubEvents (s : State) : List Ev :=
  (if s.sec.state = 0 then [] else [execFwverifyDone, execFwswitchDone, execFwRollback]) ++ (if s.sec.digBusy then [execFwdigDone] else [])
  ++ s.fab.eyes.filterMap (fun p => if p.2.hold then some (execRetrainHoldEnd p.1) else none)
  ++ s.pwr.isl.flatMap (fun p => (if p.2.hold then [execIslandChangeHoldEnd p.1] else []) ++ (if p.2.thr = 1 then [execThrottleStep p.1] else []))
  ++ (if s.tm.hold then [execHoldoverLockExpiry] else if s.tm.src = 0 then [] else [execTimeSourceLoss])

/-- Every event the machine may bring about of itself now. -/
def ownEvents (s : State) : List Ev :=
  (liveSlots s).flatMap (fun p => threadEvents p.1 p.2.1 p.2.2) ++ s.cores.flatMap (fun p => coreEvents p.1 p.2)
  ++ s.clus.flatMap (fun p => cluEvents p.1 p.2) ++ engEvents s ++ treasuryEvents s ++ hubEvents s

/-- A list turned so that it starts at its element `n`. -/
def turned {α : Type} (l : List α) (n : Nat) : List α := l.drop (n % max l.length 1) ++ l.take (n % max l.length 1)

/-- The first event, from a place that moves with the steps, that changes the state: its outcome. -/
def eventTurn (s : State) : Option State :=
  (turned (ownEvents s) (s.now / 2)).findSome? (fun f =>
    match f s with
    | .next s1 => if s1 = s then none else some s1
    | _ => none)

/-- The slot that issues next: the first one of the module that issues now, after the one that issued last (R17, log 1). -/
def issueTurn (s : State) : Option (Nat × Nat) :=
  let l := (liveSlots s).filter (fun p => mayIssue s p.1 p.2.1 p.2.2 && ((boundaryAct s p.1 p.2.1 p.2.2).isSome || issuable s p.1 p.2.1 p.2.2))
  let k := slotKey s.cur.core s.cur.slot
  let p := match l.find? (fun p => k < slotKey p.1 p.2.1) with | some p => some p | none => l.head?
  p.map (fun p => (p.1, p.2.1))

/-- A turn of the machine's own. -/
inductive Own
  | issue (c sl : Nat)
  | event (s : State)
  | idle

/-- The turn the machine takes of itself: threads and events take turns, and where neither has one only time passes. -/
def ownTurn (s : State) : Own :=
  if s.now % 2 = 1 then
    match issueTurn s with
    | some (c, sl) => .issue c sl
    | none => match eventTurn s with | some s1 => .event s1 | none => .idle
  else
    match eventTurn s with
    | some s1 => .event s1
    | none => match issueTurn s with | some (c, sl) => .issue c sl | none => .idle

/-- A step begins: TIME and the masks' counts go on, and the step has a stamp of its own. -/
def beginStep (s : State) (dt : Nat) : State :=
  let s1 := passTime { s with now := s.now + 1 } dt
  tickMasks s s1

end Sys2Proof.Machine
end

