-- ==== Sys2Proof/Machine/Step.lean ====
section
/-! DEFINITION. One step of the module: a turn its surroundings order, or one of its own (log 1). -/

namespace Sys2Proof.Machine

/-- The thread of a slot comes to issue and performs what it fetched. -/
def issue (c sl : Nat) (s : State) : Out :=
  match prepare s c sl with
  | .ended s1 => .next s1
  | .instr i s1 => exec i s1

/-- Whether a thread's instruction has waited to write a register word, and its completion has come (R41). -/
def writeDue (s : State) (c : Nat) (t : Thread) : Bool :=
  match t.wait with
  | .pendWrite _ | .store _ _ => !t.halted && reentered s c t
  | _ => false

/-- The instruction of a thread that waited to write a register word is performed: its value replaces the completion's at once (R41).
(DEDUCED, log 23.) -/
def settleWrite (s : State) (c sl : Nat) (t : Thread) : State :=
  if !writeDue s c t then s
  else if overrunDue s c sl t then takeOverrun s c sl
  else
    let s1 := { s.modThread c sl (fun t => { t with wait := .none }) with cur := ⟨c, sl, none⟩ }
    let s2 := match fetchNext s1 c sl with | .ended s2 => s2 | .instr i s2 => outState s2 (exec i s2)
    { s2 with cur := s.cur }

/-- Every such instruction of the module. -/
def settleWrites (s : State) : State :=
  s.slots.foldl (fun s p => match s.thread (p.1 / 16) (p.1 % 16) with | some t => settleWrite s (p.1 / 16) (p.1 % 16) t | none => s) s

/-- A minute of elapsed time, in units of 2^-16 ns. -/
def minute : Nat := 60000000000 * 65536

/-- A corrected error: its counter goes on, and the trace takes a record of it once a minute at most (R337, R354). (DESIGN CHOICE, log 102.) -/
def correctedError (s : State) (n : Nat) : State :=
  let x := tget (0, none) s.fab.errs n
  let due := match x.2 with | some t => decide (t + minute ≤ s.real) | none => true
  let s1 := { s with fab := { s.fab with errs := tins s.fab.errs n (x.1 + 1, if due then some s.real else x.2) } }
  if due then s1.traceSys 2 n (wordOf (x.1 + 1)) 0 else s1

/-- An error that cannot be corrected poisons its line of HBM, SRAM or CXL memory (R337, R338). -/
def uncorrectedError (s : State) (line : Nat) : State :=
  match placeOf (64 * line) with
  | .sram _ _ | .hbm _ | .cxl => { s with poison := addPoison s.poison line }
  | _ => s

/-- A stored line of a slice as an error leaves it, where it is the one that a fetch at `stamp` gave. -/
def spoilLine (line stamp : Nat) (x : Nat × BitVec 512 × Nat × Bool) : Nat × BitVec 512 × Nat × Bool :=
  if x.1 = line && x.2.2.1 = stamp then (x.1, x.2.1, x.2.2.1, true) else x

/-- A thread whose pin is that stored line. -/
def spoilPins (line stamp : Nat) (t : Thread) : Thread := { t with pins := t.pins.map (spoilLine line stamp) }

/-- An error that cannot be corrected poisons a stored line of a slice, which may be one that its cluster's threads hold pinned (R24, R337,
R338). -/
def sliceLineError (s : State) (n line stamp : Nat) : State :=
  if Config.nClusters ≤ n then s
  else
    let s1 := s.setClu n { s.clu n with slice := (s.clu n).slice.map (spoilLine line stamp) }
    (List.range 16).foldl (fun s i =>
      let c := 16 * n + i
      let s1 := (List.range 16).foldl (fun s sl => s.modThread c sl (spoilPins line stamp)) s
      s1.setCore c { s1.core c with spilled := (s1.core c).spilled.map (fun x => { x with th := spoilPins line stamp x.th }) }) s1

/-- A slice drops a stored line that no pin holds (R24). -/
def evictLine (s : State) (n line : Nat) : State :=
  if Config.nClusters ≤ n then s
  else
    let pins := cluPins s n
    s.setClu n { s.clu n with slice := (s.clu n).slice.filter (fun x => x.1 != line || pins.contains (x.1, x.2.2.1)) }

/-- A write is performed in another module's memory, where waits of this one may watch (R327). -/
def remoteWrite (s : State) (m lpa : Nat) (data : List Byte) : State :=
  if m = s.modid || 1024 ≤ m || 2 ^ 45 ≤ lpa then s else s.put (keyOf s.modid (2 ^ 55 + m * 2 ^ 45 + lpa)) data

/-- Another module begins or ceases to reject packets (R311, R375). -/
def remoteRefuses (s : State) (r : Refusing) (on : Bool) : State :=
  let l := s.fab.refusing.filter (fun x => x != r)
  { s with fab := { s.fab with refusing := if on then r :: l else l } }

/-- Performs a move. A program form is no event. -/
def perform (m : Move) (s : State) : Out :=
  match m with
  | .issue c sl => issue c sl s
  | .event i => if (encode i).isSome then .refused .notAnEvent else exec i s
  | .evict n line => .next (evictLine s n line)
  | .flit r => .next { s with fab := { s.fab with inbound := s.fab.inbound ++ [r] } }
  | .remoteWrite m lpa data => .next (remoteWrite s m lpa data)
  | .remoteRefuses r on => .next (remoteRefuses s r on)
  | .corrected n => .next (correctedError s n)
  | .uncorrected line => .next (uncorrectedError s line)
  | .sliceError n line stamp => .next (sliceLineError s n line stamp)
  | .tick => .next s

/-- Performs a turn of the machine's own. -/
def performOwn (s : State) : Out :=
  match ownTurn s with
  | .issue c sl => issue c sl s
  | .event s1 => .next s1
  | .idle => .next s

/-- Ends a step: instructions and host writes that a register word held back go on (R41), and what a deadlock report asks to have stood is
noted (R329). -/
def endStep (o : Out) : Out :=
  match o with
  | .next s => .next (noteActive (settleBar2 (settleWrites s)))
  | .fault f => .fault f
  | .refused r => .refused r

/-- Whether the next turn switches power on (R365). -/
def powersOn (s : State) : Bool :=
  match s.agenda with
  | ⟨_, .event (.powerOn _)⟩ :: _ => true
  | _ => false

/-- One step. -/
def step (s : State) : Host.Outcome State Fault Refusal :=
  if !s.pwr.on && !powersOn s then .fault .poweredOff
  else
    match s.agenda with
    | t :: l => endStep (perform t.move (beginStep { s with agenda := l } t.dt))
    | [] => endStep (performOwn (beginStep s Config.issueTime))

/-! Placing an instruction where the next step fetches. -/

/-- Where the thread at `cur` fetches its next instruction, if the next step can issue it. -/
def fetchKey (s : State) : Option (Nat × Nat) :=
  match s.thread s.cur.core s.cur.slot with
  | none => none
  | some t =>
    if s.pwr.on && (boundaryAct s s.cur.core s.cur.slot t).isNone && issuable s s.cur.core s.cur.slot t
        && !overrunDue s s.cur.core s.cur.slot t && t.repcnt = 0 then
      match (fetchPlace s s.cur.core s.cur.slot t.kernel t.pc).1 with
      | .ok k => some (k, min 16 (32 - t.pc.toNat % 32))
      | .error _ => none
    else none

/-- A thread of tenant 1 on core 0 with its PC in bank X0 (R57, R299, R309, R310), in user mode or in its kernel frame (R278):
what a program placed there needs. -/
def withThread (s : State) (kernel : Bool) : State :=
  let s1 := { s with
    xl := { s.xl with tentab := tins (tins (tins s.xl.tentab 0 0x10001) 1 0) 2 0x400 }
    pwr := { s.pwr with on := true }
    cur := ⟨0, 0, none⟩ }
  let s2 := (s1.setCore 0 { CoreSt.reset with tenant := 1 }).setClu 0 { s1.clu 0 with rmemb := (s1.clu 0).rmemb ||| 1 }
  let s3 := (s2.setIsl 0 { s2.isl 0 with hold := false }).setSlot 0 0 SlotSt.reset
  let s4 := createIn s3 0 0 0x1000 (flatVa 0 0x8000) 128 false [] .none (bornFloors none 0)
  if kernel then
    let x := s4.slot 0 0
    s4.setSlot 0 0 { x with uwp := 0x1000, thread := x.thread.map (fun t => { t with kernel := true, wp := s4.kernelOff 0 0 }) }
  else s4

/-- Whether an instruction's bits are a form for kernel mode only (R117 check 6). -/
def privileged (w : Nat) : Bool :=
  match decode ⟨false, false, true⟩ w with
  | .bad 5 _ => true
  | _ => false

/-- The state with an instruction's bits stored where the next step fetches, which issues it. (DESIGN CHOICE, log 9.) -/
def State.withFetchWord (s : State) (nbits w : Nat) : State :=
  let v := w % 2 ^ nbits
  let place (s : State) (k n : Nat) : State :=
    let s1 := { s with mem := setBytes s.mem k (leBytes n v), agenda := ⟨0, .issue s.cur.core s.cur.slot⟩ :: s.agenda }
    dropLine s1 (cluOf s.cur.core) (lineOf k)
  match fetchKey s with
  | some (k, n) => place s k n
  | none => place (withThread s (privileged v)) (winKey 0 0x8000) 16

end Sys2Proof.Machine
end

