-- ==== Sys2Proof/Safety.lean ====
section
/-! DEFINITION. What a safe run keeps, and the terms the claims are made in: the canonical form of the sparse tables, the thread that issues and its operands, what an instruction leaves in a register, and what it leaves alone. -/

namespace Sys2Proof.Machine

/-! The canonical form (log 3): every step keeps it. -/

/-- Memory and the tables of slots, cores and clusters stand in their one canonical form. -/
structure Tidy (s : State) : Prop where
  mem : Memory.wf s.mem = true
  slots : twf SlotSt.reset s.slots = true
  cores : twf CoreSt.reset s.cores = true
  clus : twf CluSt.reset s.clus = true

/-! The issuing thread and its operands. -/

/-- Thread `t` stands in the slot whose instruction is performed. -/
def Issues (s : State) (t : Thread) : Prop := s.thread s.cur.core s.cur.slot = some t

/-- Every register of a list lies in the core's partition (R43, R111). -/
def InPart (s : State) (l : List WReg) : Prop := ∀ r ∈ l, r.val < s.nregs s.cur.core

/-- Thread `t` issues and can read the registers of a list at once: in the partition and not pending (R41, R111). -/
structure Ready (s : State) (t : Thread) (l : List WReg) : Prop where
  issues : Issues s t
  part : InPart s l
  settled : ∀ r ∈ l, t.pends r.val = false

/-- What register `r` of the issuing thread's current frame holds: the little-endian word at WP + 8r (R33, R34). -/
def opnd (s : State) (t : Thread) (r : WReg) : Word := BitVec.ofNat 64 (natAt s.mem (winKey s.cur.core (t.wp + 8 * r.val)) 8)

/-- Register `d` of the issuing thread can be written at once: in the partition, and not pending or stopped (R41, R210). -/
structure Dst (s : State) (t : Thread) (d : WReg) : Prop where
  part : d.val < s.nregs s.cur.core
  free : t.pends d.val = false ∨ bit (opnd s t d) 23 = true

/-! What a step leaves. -/

/-- The thread past an instruction of `n` bytes; a repetition of a REP counts, and the last passes prefix and target (R121). -/
def passed (s : State) (t : Thread) (n : Nat) : Thread :=
  match s.cur.rep with
  | none => { t with pc := t.pc + BitVec.ofNat 64 n }
  | some (i, m) => if i + 1 < m then { t with repcnt := i + 1 } else { t with repcnt := 0, pc := t.pc + BitVec.ofNat 64 (8 + n) }

/-- The address of the instruction performed: the PC, or 8 past it for a REP target (R121). -/
def atAddr (s : State) (t : Thread) : Word := if s.cur.rep.isSome then t.pc + 8 else t.pc

/-- Nothing changed but memory and the issuing slot. -/
structure OnlySlot (s s' : State) : Prop where
  rest : s' = { s with mem := s'.mem, slots := s'.slots }
  slots : ∀ c sl, slotKey c sl ≠ slotKey s.cur.core s.cur.slot → s'.slot c sl = s.slot c sl

/-- Bytes of memory outside `n` bytes from `a` are unchanged. -/
def MemBut (s s' : State) (a n : Nat) : Prop := ∀ k, (k < a ∨ a + n ≤ k) → byteAt s'.mem k = byteAt s.mem k

/-- No byte of memory changed. -/
def MemSame (s s' : State) : Prop := ∀ k, byteAt s'.mem k = byteAt s.mem k

/-- Register `d` was written with `v`, its completion-time word and PEND bit cleared (R210, R211), the thread otherwise became
`u`, and nothing else changed. -/
structure Sets (s s' : State) (t : Thread) (d : WReg) (v : Word) (u : Thread) : Prop where
  value : opnd s' t d = v
  slot : s'.slot s.cur.core s.cur.slot = { s.slot s.cur.core s.cur.slot with
    ctime := tset 0 (s.slot s.cur.core s.cur.slot).ctime d.val 0
    thread := some { u with pend := t.pend &&& ~~~(BitVec.ofNat 32 (2 ^ d.val)) } }
  only : OnlySlot s s'
  mem : MemBut s s' (winKey s.cur.core (t.wp + 8 * d.val)) 8

/-- The thread became `u` and nothing else changed. -/
structure Turns (s s' : State) (u : Thread) : Prop where
  slot : s'.slot s.cur.core s.cur.slot = { s.slot s.cur.core s.cur.slot with thread := some u }
  only : OnlySlot s s'
  mem : s'.mem = s.mem

/-! FLAGS as the manual's tables give them. -/

/-- FLAGS of `x + y + cin` (R129): Z and N from the sum modulo 2^64, C when it reaches 2^64, V when the operands' signs agree
and the sum's differs. -/
def sumFlags (x y : Word) (cin : Bool) : Flags :=
  let r := x + y + BitVec.ofNat 64 (bitNat cin)
  ⟨r == 0, r.msb, decide (2 ^ 64 ≤ x.toNat + y.toNat + bitNat cin), x.msb == y.msb && r.msb != x.msb⟩

/-- FLAGS of a logical result (R128): Z and N from it, C and V clear. -/
def plainFlags (r : Word) : Flags := ⟨r == 0, r.msb, false, false⟩

/-- The bits of a word that satisfy a test, from bit 0 upward. -/
def bitsWhere (p : Bool → Bool) (x : Word) : List Nat := (List.range 64).filter (fun i => p (x.getLsbD i))

/-- Zero bits of a word below its first one bit, from bit 0 upward. -/
def zerosBelow (x : Word) : Nat := ((List.range 64).takeWhile (fun i => !x.getLsbD i)).length

/-- Zero bits of a word above its last one bit. -/
def zerosAbove (x : Word) : Nat := ((List.range 64).takeWhile (fun i => !x.getLsbD (63 - i))).length

/-- Byte `i` of a word. -/
def byteNo (x : Word) (i : Nat) : Byte := (x >>> (8 * i)).setWidth 8

/-- Length of a bit field: a len field of 0 encodes 64 (R132). -/
def lenOf (l : BitVec 6) : Nat := if l = 0 then 64 else l.toNat

/-- Ones in the lowest `n` bits. -/
def lowOnes (n : Nat) : Word := BitVec.ofNat 64 (2 ^ n - 1)

/-- The truth of a condition code (R112). -/
def condTruth (c : Cond) (f : Flags) : Prop :=
  match c with
  | .eq => f.z = true
  | .ne => f.z = false
  | .hs => f.c = true
  | .lo => f.c = false
  | .mi => f.n = true
  | .pl => f.n = false
  | .vs => f.v = true
  | .vc => f.v = false
  | .hi => f.c = true ∧ f.z = false
  | .ls => f.c = false ∨ f.z = true
  | .ge => f.n = f.v
  | .lt => f.n ≠ f.v
  | .gt => f.z = false ∧ f.n = f.v
  | .le => f.z = true ∨ f.n ≠ f.v
  | .al => True

/-- A target that R139 lets pass: a multiple of 4, and canonical (R51). -/
def goodTarget (x : Word) : Prop := x.toNat % 4 = 0 ∧ (x.toNat < 2 ^ 56 ∨ 2 ^ 64 - 2 ^ 56 ≤ x.toNat)

/-! Numbers. -/

/-- A finite value scaled by 2^k, which makes it whole. -/
def scaled (k : Nat) (neg : Bool) (m : Nat) (e : Int) : Int := (if neg then -1 else 1) * ((m * 2 ^ (e + k).toNat : Nat) : Int)

/-- The order of exact values: −0 equals +0, a NaN has no place. -/
def numBefore (x y : Num) : Prop :=
  match x, y with
  | .nan _, _ => False
  | .inf _, .nan _ => False
  | .fin _ _ _, .nan _ => False
  | .inf n, .inf k => n = true ∧ k = false
  | .inf n, .fin _ _ _ => n = true
  | .fin _ _ _, .inf k => k = false
  | .fin n m e, .fin k l g => ∃ j : Nat, 0 ≤ e + j ∧ 0 ≤ g + j ∧ scaled j n m e < scaled j k l g

/-- Whether `k` is the magnitude m / w, of a sign, rounded to a whole number as a mode chooses (R72). -/
def roundsTo (md : RMode) (neg : Bool) (m w k : Nat) : Prop :=
  match md with
  | .rtz => k * w ≤ m ∧ m < (k + 1) * w
  | .rup => if neg then k * w ≤ m ∧ m < (k + 1) * w else m ≤ k * w ∧ k * w < m + w
  | .rdn => if neg then m ≤ k * w ∧ k * w < m + w else k * w ≤ m ∧ m < (k + 1) * w
  | .rne => 2 * (k * w) ≤ 2 * m + w ∧ 2 * m ≤ 2 * (k * w) + w ∧
      (2 * (k * w) = 2 * m + w ∨ 2 * m = 2 * (k * w) + w → k % 2 = 0)
  | .rna => 2 * (k * w) ≤ 2 * m + w ∧ 2 * m < 2 * (k * w) + w

/-- Code `r` and flags `g` are (−1)^neg × m × 2^e, m > 0, put through steps 2 to 5 of RoundTo (R72): `k` counts of 2^q are the magnitude at the
format's precision with an unbounded exponent, and `j` makes the magnitudes whole. -/
def roundedTo (f : FFmt) (md : RMode) (neg : Bool) (m : Nat) (e : Int) (r : Nat) (g : BitVec 5) : Prop :=
  ∃ (k j : Nat) (q : Int),
    let sign := if neg then 2 ^ (f.width - 1) else 0
    let mag := m * 2 ^ (e + j).toNat
    let u := 2 ^ (q + j).toNat
    let low : Int := f.emin - f.fbits
    let w := 2 ^ (low + j).toNat
    0 ≤ e + j ∧ 0 ≤ q + j ∧ 0 ≤ low + j ∧ 2 ^ f.fbits * u ≤ mag ∧ mag < 2 ^ (f.fbits + 1) * u ∧ roundsTo md neg mag u k ∧
    (if 2 ^ (f.bias + 1 + j) ≤ k * u then
       r = sign + f.infBits - (match md, neg with | .rtz, _ => 1 | .rup, true => 1 | .rdn, false => 1 | _, _ => 0) ∧ g = 0b10100#5
     else if k * u < 2 ^ (f.emin + j).toNat then
       ∃ n, roundsTo md neg mag w n ∧ f.val r = .fin neg n low ∧ g = if n * w = mag then 0 else 0b11000#5
     else ∃ n p, f.val r = .fin neg n p ∧ 0 ≤ p + j ∧ n * 2 ^ (p + j).toNat = k * u ∧ g = if k * u = mag then 0 else 0b10000#5)

/-! What floating-point forms leave. -/

/-- The flags `g` are added to the issuing thread's IFLAGS, which becomes `u` otherwise (R75), and reach the OR tree of its
cluster (R78); nothing else but memory changed. A hub core has no cluster. -/
structure Raises (s s' : State) (t u : Thread) (g : BitVec 5) : Prop where
  thread : s'.thread s.cur.core s.cur.slot = some { u with iflags := t.iflags ||| g }
  slot : s'.slot s.cur.core s.cur.slot = { s.slot s.cur.core s.cur.slot with
    thread := s'.thread s.cur.core s.cur.slot, ctime := (s'.slot s.cur.core s.cur.slot).ctime }
  tree : isHub s.cur.core = false →
    (s'.clu (cluOf s.cur.core)).u = (s.clu (cluOf s.cur.core)).u ||| g
  own : s'.clu (cluOf s.cur.core) = { s.clu (cluOf s.cur.core) with
    u := (s'.clu (cluOf s.cur.core)).u, first := (s'.clu (cluOf s.cur.core)).first,
    staging := (s'.clu (cluOf s.cur.core)).staging, adrop := (s'.clu (cluOf s.cur.core)).adrop,
    raised := (s'.clu (cluOf s.cur.core)).raised }
  rest : s' = { s with mem := s'.mem, slots := s'.slots, clus := s'.clus }
  slots : ∀ c sl, slotKey c sl ≠ slotKey s.cur.core s.cur.slot → s'.slot c sl = s.slot c sl
  clus : ∀ n, n ≠ cluOf s.cur.core → s'.clu n = s.clu n

/-- Register `d` was written with `v` and its PEND bit cleared, the thread passed `n` bytes, the flags `g` were raised, and
nothing else changed. -/
structure FloatSets (s s' : State) (t : Thread) (d : WReg) (v : Word) (n : Nat) (g : BitVec 5) : Prop where
  value : opnd s' t d = v
  raised : Raises s s' t { passed s t n with pend := t.pend &&& ~~~(BitVec.ofNat 32 (2 ^ d.val)) } g
  mem : MemBut s s' (winKey s.cur.core (t.wp + 8 * d.val)) 8

/-! Memory operands. -/

/-- The registers an operand of a size occupies: a pair for Q (R149). -/
def regsOf (r : WReg) (sz : Size) : List WReg := match sz with | .q => [r, r + 1] | _ => [r]

/-- A pair has its second register beside its first (R149: a pair's register field is even). -/
def pairOk (r : WReg) (sz : Size) : Prop := sz = .q → r.val % 2 = 0

/-- The value of an operand of a size: for Q, the pair with its first register lowest (R149). -/
def opndSz (s : State) (t : Thread) (r : WReg) (sz : Size) : Nat :=
  match sz with
  | .q => (opnd s t r).toNat + 2 ^ 64 * (opnd s t (r + 1)).toNat
  | _ => (opnd s t r).toNat

/-- Bytes of registers that an operand of a size occupies. -/
def regBytes (sz : Size) : Nat := match sz with | .q => 16 | _ => 8

/-- Destination registers of a size can be written at once (R41). -/
def DstSz (s : State) (t : Thread) (d : WReg) (sz : Size) : Prop := ∀ r ∈ regsOf d sz, Dst s t r

/-- Registers of a size hold a value: for Q its two halves, else its low 64 bits. -/
def HoldsSz (s : State) (t : Thread) (d : WReg) (sz : Size) (v : Nat) : Prop :=
  match sz with
  | .q => opnd s t d = BitVec.ofNat 64 v ∧ opnd s t (d + 1) = BitVec.ofNat 64 (v / 2 ^ 64)
  | _ => opnd s t d = BitVec.ofNat 64 v

/-- Key of register `r`'s word in the issuing thread's frame (R33, R34). -/
def wordKey (s : State) (t : Thread) (r : WReg) : Nat := winKey s.cur.core (t.wp + 8 * r.val)

/-- What the reply of an access writes in the registers of a size (R35). -/
def lateSz (d : WReg) (sz : Size) (v : Nat) : List (Nat × Word) :=
  match sz with
  | .q => [(d.val, BitVec.ofNat 64 v), ((d + 1).val, BitVec.ofNat 64 (v / 2 ^ 64))]
  | _ => [(d.val, BitVec.ofNat 64 v)]

/-- The state with the thread of slot `sl` of core `c` as the one that terms name. -/
def State.viewOf (s : State) (c sl : Nat) : State := { s with cur := ⟨c, sl, none⟩ }

/-- No pending register's word lies in `n` bytes from a location (R33, R41). -/
def NoPending (s : State) (k n : Nat) : Prop := match placeOf k with | .sram c o => pendingAt s c o n = [] | _ => True

/-- Whether a byte lies in the registers of a list. -/
def inRegs (s : State) (t : Thread) (l : List WReg) (k : Nat) : Prop := ∃ r ∈ l, wordKey s t r ≤ k ∧ k < wordKey s t r + 8

/-- Byte `i` of a number, little-endian (R3). -/
def leByte (v i : Nat) : Byte := BitVec.ofNat 8 (v / 2 ^ (8 * i))

/-- Outside the registers of a list, memory is as it was. -/
def MemButRegs (s s' : State) (t : Thread) (l : List WReg) : Prop := ∀ k, ¬ inRegs s t l k → byteAt s'.mem k = byteAt s.mem k

/-- Outside the registers of a list, memory is as it was but for `n` bytes at `a`, which hold `v` (R3). -/
def MemStored (s s' : State) (t : Thread) (l : List WReg) (a n v : Nat) : Prop :=
  ∀ k, ¬ inRegs s t l k → byteAt s'.mem k = if a ≤ k ∧ k < a + n then leByte v (k - a) else byteAt s.mem k

/-- Apart from memory and the issuing slot, an access may have added cached translations, cached table entries and slice lines, and nothing
else. -/
structure Quiet (s s' : State) : Prop where
  rest : s' = { s with mem := s'.mem, slots := s'.slots, cores := s'.cores, clus := s'.clus, xl := { s.xl with wcache := s'.xl.wcache } }
  slots : ∀ c sl, slotKey c sl ≠ slotKey s.cur.core s.cur.slot → s'.slot c sl = s.slot c sl
  core : s'.core s.cur.core = { s.core s.cur.core with tlb := (s'.core s.cur.core).tlb }
  cores : ∀ c, c ≠ s.cur.core → s'.core c = s.core c
  clu : s'.clu (cluOf s.cur.core) = { s.clu (cluOf s.cur.core) with
    tlb := (s'.clu (cluOf s.cur.core)).tlb, slice := (s'.clu (cluOf s.cur.core)).slice }
  clus : ∀ n, n ≠ cluOf s.cur.core → s'.clu n = s.clu n

/-- `n` bytes from `ea` lie in the data part of the issuing core's own window, under the window's address in the flat region
(R18, R51, R57), the core having a tenant in force there (R299); `k` is where. -/
structure OwnBank (s : State) (ea : Word) (n k : Nat) : Prop where
  core : s.cur.core < Config.nCores
  tenant : ∃ j, s.slotOfCore s.cur.core = some j ∧ s.tenHas j (cluOf s.cur.core) = true
  place : ∃ o, 0x1000 ≤ o ∧ o + n ≤ 0x5C000 ∧ o % n = 0 ∧
    ea = BitVec.ofNat 64 (0xFF00000000000000 + s.cur.core * 0x80000 + o) ∧ k = winKey s.cur.core o

/-- No store waits in the core's buffer for the line of a location. -/
def Unbuffered (s : State) (k : Nat) : Prop :=
  ∀ e ∈ (s.core s.cur.core).wbuf, match e with | .store _ j _ _ _ => j / 64 ≠ k / 64 | .fence _ _ _ => True

/-- Thread `t` issues under an identifier of its own (R167), and no core that it left by MIGR may hold a store of its (R91, R97). -/
structure Homed (s : State) (t : Thread) : Prop where
  core : s.cur.core < 2048
  slot : s.cur.slot < 16
  inc : t.inc < 65536
  left : t.left = []

/-- No buffered store of the issuing core, or of the issuing thread, is outstanding (R91). -/
structure Drained (s : State) (t : Thread) : Prop where
  homed : Homed s t
  buf : (s.core s.cur.core).wbuf = []

/-- State `s1`, reached inside an instruction, still has the issuing slot of `s`, which holds thread `u`, and is tidy. -/
structure Follows (s s1 : State) (u : Thread) : Prop where
  cur : s1.cur = s.cur
  issues : Issues s1 u
  tidy : Tidy s1

/-- `n` bytes from a physical address on, each at its own key (R55). -/
def bytesFrom (s : State) (a n : Nat) : List Byte := (List.range n).map (fun i => byteAt s.mem (keyOf s.modid (a + i)))

/-- The eight registers of a copy control set, in the order of their codes (R191). -/
def csetWords (x : CopySet) : List Word := [x.csrc, x.cdst, x.cshp, x.cstr, x.ccfg, x.cbar, x.cfol0, x.cfol1]

/-! Counting barriers, in the manual's own terms (R163). -/

/-- The fields of a counting record that an arrival acts on (R161). -/
structure Counting where
  ph : Nat
  cnt : Nat
  exp : Nat
  drops : Nat
  nxt : Nat
  ndrops : Nat
  deriving DecidableEq, Repr

/-- An arrival for phase `q`, before any phase completes; none for an over-arrival. -/
def Counting.arrive (c : Counting) (q drop : Nat) : Option Counting :=
  if q = c.ph ∧ c.cnt < c.exp then some { c with cnt := c.cnt + 1, drops := c.drops + drop }
  else if q = (c.ph + 1) % 65536 ∧ c.nxt + c.drops < c.exp then some { c with nxt := c.nxt + 1, ndrops := c.ndrops + drop }
  else none

/-- One phase completes. -/
def Counting.next (c : Counting) : Counting := ⟨(c.ph + 1) % 65536, c.nxt, c.exp - c.drops, c.ndrops, 0, 0⟩

/-- The manual's loop: phases complete while EXP > 0 and CNT = EXP. -/
inductive Counting.Completes : Counting → Counting → Prop
  | stop (c : Counting) : ¬ (0 < c.exp ∧ c.cnt = c.exp) → Counting.Completes c c
  | step (c d : Counting) : 0 < c.exp → c.cnt = c.exp → Counting.Completes c.next d → Counting.Completes c d

end Sys2Proof.Machine
end

