-- ==== Sys2Proof/Certificates/Slice0/Obligations.lean ====
section
/-! DEFINITION. The statements about the model, for the provers: what each instruction and event does where it completes, what it leaves unchanged, when it faults, and what holds of every step. -/

open Sys2Proof Sys2Proof.Machine

/-! Integer forms. -/

/-- R128, R129: every three-register integer form writes the table's value and FLAGS, passes 8 bytes and changes nothing else. -/
def Obligations.IntegerRegisterForms : Prop :=
  ∀ (d a b : WReg) (s : State) (t : Thread), Tidy s → Ready s t [a, b] → Dst s t d →
    let A := opnd s t a
    let B := opnd s t b
    let F := t.flags
    let sh := B.toNat % 64
    let two (x : Word) (f : Flags) : Word × Flags := (x, f)
    ∀ p ∈ ([
      (.add d a b, two (A + B) (sumFlags A B false)),
      (.sub d a b, two (A - B) (sumFlags A (~~~B) true)),
      (.adc d a b, two (A + B + BitVec.ofNat 64 (bitNat F.c)) (sumFlags A B F.c)),
      (.sbc d a b, two (A + ~~~B + BitVec.ofNat 64 (bitNat F.c)) (sumFlags A (~~~B) F.c)),
      (.and d a b, two (A &&& B) (plainFlags (A &&& B))),
      (.or d a b, two (A ||| B) (plainFlags (A ||| B))),
      (.xor d a b, two (A ^^^ B) (plainFlags (A ^^^ B))),
      (.andn d a b, two (A &&& ~~~B) (plainFlags (A &&& ~~~B))),
      (.shl d a b, two (A <<< sh) F),
      (.shr d a b, two (A >>> sh) F),
      (.sar d a b, two (A.sshiftRight sh) F),
      (.ror d a b, two ((A >>> sh) ||| (A <<< ((64 - sh) % 64))) F),
      (.mul d a b, two (A * B) F),
      (.mulhu d a b, two (((A.setWidth 128 * B.setWidth 128) >>> 64).setWidth 64) F),
      (.mulhs d a b, two (((A.signExtend 128 * B.signExtend 128) >>> 64).setWidth 64) F),
      (.divu d a b, two (if B = 0 then 0 else A.udiv B) F),
      (.divs d a b, two (if B = 0 then 0 else A.sdiv B) F),
      (.remu d a b, two (if B = 0 then A else A.umod B) F),
      (.rems d a b, two (if B = 0 then A else A.srem B) F),
      (.minu d a b, two (if A.ult B then A else B) F),
      (.mins d a b, two (if A.slt B then A else B) F),
      (.maxu d a b, two (if A.ult B then B else A) F),
      (.maxs d a b, two (if A.slt B then B else A) F)] : List (Instr × Word × Flags)),
    ∃ s', exec p.1 s = .next s' ∧ Sets s s' t d p.2.1 { passed s t 8 with flags := p.2.2 }

/-- R130: the immediate forms do the same with the sign-extended immediate, and pass 8 or 12 bytes. -/
def Obligations.IntegerImmediateForms : Prop :=
  ∀ (d a : WReg) (i : Imm) (s : State) (t : Thread), Tidy s → Ready s t [a] → Dst s t d →
    let A := opnd s t a
    let B := i.sext
    let F := t.flags
    let sh := B.toNat % 64
    let two (x : Word) (f : Flags) : Word × Flags := (x, f)
    ∀ p ∈ ([
      (.addi d a i, two (A + B) (sumFlags A B false)),
      (.subi d a i, two (A - B) (sumFlags A (~~~B) true)),
      (.adci d a i, two (A + B + BitVec.ofNat 64 (bitNat F.c)) (sumFlags A B F.c)),
      (.sbci d a i, two (A + ~~~B + BitVec.ofNat 64 (bitNat F.c)) (sumFlags A (~~~B) F.c)),
      (.andi d a i, two (A &&& B) (plainFlags (A &&& B))),
      (.ori d a i, two (A ||| B) (plainFlags (A ||| B))),
      (.xori d a i, two (A ^^^ B) (plainFlags (A ^^^ B))),
      (.andni d a i, two (A &&& ~~~B) (plainFlags (A &&& ~~~B))),
      (.shli d a i, two (A <<< sh) F),
      (.shri d a i, two (A >>> sh) F),
      (.sari d a i, two (A.sshiftRight sh) F),
      (.rori d a i, two ((A >>> sh) ||| (A <<< ((64 - sh) % 64))) F),
      (.muli d a i, two (A * B) F),
      (.mulhui d a i, two (((A.setWidth 128 * B.setWidth 128) >>> 64).setWidth 64) F),
      (.mulhsi d a i, two (((A.signExtend 128 * B.signExtend 128) >>> 64).setWidth 64) F),
      (.divui d a i, two (if B = 0 then 0 else A.udiv B) F),
      (.divsi d a i, two (if B = 0 then 0 else A.sdiv B) F),
      (.remui d a i, two (if B = 0 then A else A.umod B) F),
      (.remsi d a i, two (if B = 0 then A else A.srem B) F),
      (.minui d a i, two (if A.ult B then A else B) F),
      (.minsi d a i, two (if A.slt B then A else B) F),
      (.maxui d a i, two (if A.ult B then B else A) F),
      (.maxsi d a i, two (if A.slt B then B else A) F)] : List (Instr × Word × Flags)),
    ∃ s', exec p.1 s = .next s' ∧ Sets s s' t d p.2.1 { passed s t i.formBytes with flags := p.2.2 }

/-- R128-R130: NEG writes −A with the flags of 0 − A; CMP, TST and their immediate forms write FLAGS alone. After CMP a, b, C
is 1 exactly when a ≥ b unsigned (R129). -/
def Obligations.NegateAndCompare : Prop :=
  (∀ (d a : WReg) (s : State) (t : Thread), Tidy s → Ready s t [a] → Dst s t d →
    ∃ s', exec (.neg d a) s = .next s' ∧
      Sets s s' t d (0 - opnd s t a) { passed s t 8 with flags := sumFlags 0 (~~~(opnd s t a)) true }) ∧
  (∀ (a b : WReg) (i : Imm) (s : State) (t : Thread), Ready s t [a, b] →
    let A := opnd s t a
    let B := opnd s t b
    ∀ p ∈ ([
      (.cmp a b, 8, sumFlags A (~~~B) true), (.tst a b, 8, plainFlags (A &&& B)),
      (.cmpi a i, i.formBytes, sumFlags A (~~~i.sext) true), (.tsti a i, i.formBytes, plainFlags (A &&& i.sext))]
        : List (Instr × Nat × Flags)),
    ∃ s', exec p.1 s = .next s' ∧ Turns s s' { passed s t p.2.1 with flags := p.2.2 }) ∧
  (∀ (a b : WReg) (s s' : State) (t u : Thread), Ready s t [a, b] → exec (.cmp a b) s = .next s' → Issues s' u →
    (u.flags.c = true ↔ opnd s t b ≤ opnd s t a))

/-- R131, R132: moves, address arithmetic and bit operations write the table's value and leave FLAGS alone.
R131, R132: MOVHI and BFI replace part of Wd and keep the rest. -/
def Obligations.MovesAndBitForms : Prop :=
  (∀ (d a b : WReg) (i : Imm) (sh : Fin 5) (sz : Size) (q l : BitVec 6) (s : State) (t : Thread),
     Tidy s → Ready s t [a, b] → Dst s t d → q.toNat + lenOf l ≤ 64 →
     let A := opnd s t a
     let B := opnd s t b
     let part := A.setWidth (8 * sz.bytes)
     ∀ p ∈ ([
       (.mov d a, A, 8),
       (.movi d i, i.sext, i.formBytes),
       (.lea d a i, A + i.sext, i.formBytes),
       (.leax d a b sh, A + (B <<< sh.val), 8),
       (.adr d i, atAddr s t + i.sext, i.formBytes),
       (.sext sz d a, part.signExtend 64, 8),
       (.zext sz d a, part.setWidth 64, 8),
       (.clz d a, BitVec.ofNat 64 (zerosAbove A), 8),
       (.ctz d a, BitVec.ofNat 64 (zerosBelow A), 8),
       (.popc d a, BitVec.ofNat 64 (bitsWhere id A).length, 8),
       (.bswap d a, byteNo A 0 ++ byteNo A 1 ++ byteNo A 2 ++ byteNo A 3 ++ byteNo A 4 ++ byteNo A 5 ++ byteNo A 6 ++ byteNo A 7, 8),
       (.brev d a, A.reverse, 8),
       (.bfx d a q l, (A >>> q.toNat) &&& lowOnes (lenOf l), 12),
       (.bfxs d a q l, ((A >>> q.toNat).setWidth (lenOf l)).signExtend 64, 12)] : List (Instr × Word × Nat)),
     ∃ s', exec p.1 s = .next s' ∧ Sets s s' t d p.2.1 (passed s t p.2.2)) ∧
  (∀ (d a : WReg) (v : BitVec 32) (q l : BitVec 6) (s : State) (t : Thread), Tidy s → Ready s t [a, d] →
     q.toNat + lenOf l ≤ 64 →
     let A := opnd s t a
     let D := opnd s t d
     let m := lowOnes (lenOf l) <<< q.toNat
     (∃ s', exec (.movhi d v) s = .next s' ∧ Sets s s' t d (v ++ D.setWidth 32) (passed s t 12)) ∧
     (∃ s', exec (.bfi d a q l) s = .next s' ∧ Sets s s' t d ((D &&& ~~~m) ||| ((A <<< q.toNat) &&& m)) (passed s t 12)))

/-! Floating point. -/

/-- R134, R136, R75: each scalar floating-point form completes: it writes the code that its operation gives under RMODE, within
the width of the format and zero-extended, raises the operation's flags, and changes nothing else.
R72, R134: of finite operands, FADD and FMUL give the exact sum and product rounded once: a zero's sign and flags are those of step 1 and
others those of steps 2 to 5, of which underflow is raised where the subnormal result differs from the exact one (log 15). -/
def Obligations.FloatForms : Prop :=
  ∀ (f : FFmt) (dst src : ETy) (d a b : WReg) (s : State) (t : Thread), Tidy s → Ready s t [a, b, d] →
    let x := f.opnd (opnd s t a)
    let y := f.opnd (opnd s t b)
    let z := f.opnd (opnd s t d)
    let md := t.rmode
    (∀ p ∈ ([
      (.fadd f d a b, fAdd f md x y), (.fsub f d a b, fSub f md x y), (.fmul f d a b, fMul f md x y),
      (.fdiv f d a b, fDiv f md x y), (.fsqrt f d a, fSqrt f md x), (.fma f d a b, fFma f md x y z),
      (.fmin f d a b, fMin f md x y), (.fmax f d a b, fMax f md x y),
      (.fabs f d a, (opnd s t a).toNat % 2 ^ (f.width - 1), 0),
      (.fneg f d a, ((opnd s t a).toNat % 2 ^ f.width) ^^^ 2 ^ (f.width - 1), 0)] : List (Instr × Nat × BitVec 5)),
      p.2.1 < 2 ^ f.width ∧ ∃ s', exec p.1 s = .next s' ∧ FloatSets s s' t d (BitVec.ofNat 64 p.2.1) 8 p.2.2) ∧
    (∃ s', exec (.fcvt dst src d a) s = .next s' ∧
      FloatSets s s' t d (cvtVal dst src md (opnd s t a)).1 8 (cvtVal dst src md (opnd s t a)).2) ∧
    (∀ (n k : Bool) (m l : Nat) (e h : Int), x = .fin n m e → y = .fin k l h →
      let sign (neg : Bool) : Nat := if neg then 2 ^ (f.width - 1) else 0
      let p := fMul f md x y
      let q := fAdd f md x y
      (if m * l = 0 then p = (sign (n != k), 0) else roundedTo f md (n != k) (m * l) (e + h) p.1 p.2) ∧
      ∃ j : Nat, 0 ≤ e + j ∧ 0 ≤ h + j ∧
        let v := scaled j n m e + scaled j k l h
        if v = 0 then q = (sign (if m = 0 ∧ l = 0 ∧ n = k then n else md == .rdn), 0)
        else roundedTo f md (decide (v < 0)) v.natAbs (-(j : Int)) q.1 q.2)

/-- R72: rounding a magnitude to a multiple of 2^q chooses by the mode, and says whether the result differs.
R73: ToInt rounds to an integer by the mode; a value past a bound gives the bound and raises invalid, a NaN gives 0 and
raises invalid, an inexact result raises inexact. -/
def Obligations.RoundingAndToInteger : Prop :=
  (∀ (md : RMode) (neg : Bool) (m : Nat) (e q : Int),
     let r := roundQ md neg m e q
     (q ≤ e → r = (m * 2 ^ (e - q).toNat, false)) ∧
     (e < q → roundsTo md neg m (2 ^ (q - e).toNat) r.1 ∧ (r.2 = true ↔ r.1 * 2 ^ (q - e).toNat ≠ m))) ∧
  (∀ (w : Nat) (md : RMode), 1 ≤ w → w ≤ 64 →
     let hi : Int := 2 ^ (w - 1) - 1
     let lo : Int := -2 ^ (w - 1)
     (∀ sig, toIntN w md (.nan sig) = (0, 1)) ∧
     (∀ neg, toIntN w md (.inf neg) = (if neg then lo else hi, 1)) ∧
     (∀ (neg : Bool) (m : Nat) (e : Int) (j k : Nat), 0 ≤ e + j →
       let mag := m * 2 ^ (e + j).toNat
       let n : Int := if neg then -(k : Int) else k
       roundsTo md neg mag (2 ^ j) k →
       toIntN w md (.fin neg m e) =
         if hi < n then (hi, 1) else if n < lo then (lo, 1) else (n, if k * 2 ^ j ≠ mag then 16 else 0)))

/-- R135: FCMP writes FLAGS by the relation of its operands and raises invalid only for a signalling NaN.
R133, R112: CSEL writes A where the condition holds and B otherwise, CSET 1 or 0; FLAGS stay. -/
def Obligations.SelectAndFloatCompare : Prop :=
  (∀ (f : FFmt) (a b : WReg) (s : State) (t : Thread), Ready s t [a, b] →
     let x := f.opnd (opnd s t a)
     let y := f.opnd (opnd s t b)
     ∃ s' fl, exec (.fcmp f a b) s = .next s' ∧ s'.mem = s.mem ∧
       Raises s s' t { passed s t 8 with flags := fl } (if x.sig || y.sig then 1 else 0) ∧
       (numBefore x y → fl = ⟨false, true, false, false⟩) ∧
       (numBefore y x → fl = ⟨false, false, true, false⟩) ∧
       (x.isNan ∨ y.isNan → fl = ⟨false, false, true, true⟩) ∧
       (¬ numBefore x y → ¬ numBefore y x → x.isNan = false → y.isNan = false → fl = ⟨true, false, true, false⟩)) ∧
  (∀ (c : Cond) (d a b : WReg) (s : State) (t : Thread), Tidy s → Dst s t d →
     (Ready s t [a, b] → ∃ s' v, exec (.csel c d a b) s = .next s' ∧ Sets s s' t d v (passed s t 8) ∧
       (condTruth c t.flags → v = opnd s t a) ∧ (¬ condTruth c t.flags → v = opnd s t b)) ∧
     (Issues s t → ∃ s' v, exec (.cset c d) s = .next s' ∧ Sets s s' t d v (passed s t 8) ∧
       (condTruth c t.flags → v = 1) ∧ (¬ condTruth c t.flags → v = 0)))

/-! Control transfer. -/

/-- R138: the relative branches, NOPs and the calls. The target is the address of the instruction plus 4 × IMM23; a branch not
taken and a NOP pass the form. FLAGS stay. -/
def Obligations.RelativeBranches : Prop :=
  ∀ (c : Cond) (d a : WReg) (disp : BitVec 23) (s : State) (t : Thread), Tidy s → Ready s t [a] →
    let goal : Word := atAddr s t + (disp.signExtend 64) * 4
    let go : Thread := { t with pc := goal }
    let A := opnd s t a
    (∃ s', exec .nop64 s = .next s' ∧ Turns s s' (passed s t 8)) ∧
    (∃ s', exec .nop96 s = .next s' ∧ Turns s s' (passed s t 12)) ∧
    (∃ s', exec (.b disp) s = .next s' ∧ Turns s s' go) ∧
    (∃ s' u, exec (.bc c disp) s = .next s' ∧ Turns s s' u ∧
      (condTruth c t.flags → u = go) ∧ (¬ condTruth c t.flags → u = passed s t 8)) ∧
    (∃ s', exec (.cbz a disp) s = .next s' ∧ Turns s s' (if A = 0 then go else passed s t 8)) ∧
    (∃ s', exec (.cbnz a disp) s = .next s' ∧ Turns s s' (if A = 0 then passed s t 8 else go)) ∧
    (∃ s', exec (.dbnz a disp) s = .next s' ∧ Sets s s' t a (A - 1) (if A - 1 = 0 then passed s t 8 else go)) ∧
    (Dst s t d → ∃ s', exec (.bl d disp) s = .next s' ∧ Sets s s' t d (atAddr s t + 8) go)

/-- R138, R139: JR, JLR, JMPA and BLA go to a good target, the calls writing the next address.
R139: a register or absolute target that is no multiple of 4 takes the misaligned fault, cause 0x05, with the target in
TRAPINFO; one that is not canonical takes the protection fault, 0x07. The rules give no TRAPINFO for that fault: the target there, in the clause of cause
0x07, is the model's choice (log 107). -/
def Obligations.JumpsAndBadTargets : Prop :=
  (∀ (d a : WReg) (x : Word) (s : State) (t : Thread), Tidy s → Issues s t →
     (Ready s t [a] → goodTarget (opnd s t a) →
       ∃ s', exec (.jr a) s = .next s' ∧ Turns s s' { t with pc := opnd s t a }) ∧
     (Ready s t [a] → Dst s t d → goodTarget (opnd s t a) →
       ∃ s', exec (.jlr d a) s = .next s' ∧ Sets s s' t d (atAddr s t + 8) { t with pc := opnd s t a }) ∧
     (goodTarget x → ∃ s', exec (.jmpa x) s = .next s' ∧ Turns s s' { t with pc := x }) ∧
     (goodTarget x → Dst s t d →
       ∃ s', exec (.bla d x) s = .next s' ∧ Sets s s' t d (atAddr s t + 16) { t with pc := x })) ∧
  (∀ (d a : WReg) (x : Word) (s : State) (t : Thread), Ready s t [a] → d.val < s.nregs s.cur.core → opnd s t a = x →
     ∀ i ∈ ([.jr a, .jlr d a, .jmpa x, .bla d x] : List Instr),
       (x.toNat % 4 ≠ 0 → exec i s = .next (takeTrap s s.cur.core s.cur.slot 0x05 x)) ∧
       (x.toNat % 4 = 0 → ¬ goodTarget x → exec i s = .next (takeTrap s s.cur.core s.cur.slot 0x07 x)))

/-! Control registers, flags, time and trace. -/

/-- R142, R143: RDCTL writes the value of the control register it names.
R142: WRCTL writes FLAGS, VL up to 4,096 and RMODE up to 4; a larger value is out of range, with BIT 21 in TRAPINFO (R118,
R127). RMSET writes RMODE (R144). -/
def Obligations.ControlRegisters : Prop :=
  (∀ (d : WReg) (r : CtlReg) (s : State) (t : Thread), Tidy s → Issues s t → Dst s t d →
     let c := s.cur.core
     ∃ s' v, exec (.rdctl d r) s = .next s' ∧ Sets s s' t d v (passed s t 8) ∧
       match r with
       | .flags => v.toNat = 8 * bitNat t.flags.z + 4 * bitNat t.flags.n + 2 * bitNat t.flags.c + bitNat t.flags.v
       | .vl => v = BitVec.ofNat 64 t.vl
       | .rmode => v.toNat = (match t.rmode with | .rne => 0 | .rtz => 1 | .rup => 2 | .rdn => 3 | .rna => 4)
       | .iflags => v = t.iflags.setWidth 64
       | .pend => v = t.pend.setWidth 64
       | .repcnt => v = 0
       | .tagrel => ∀ g, g < 64 → v.getLsbD g = (tget TagSt.reset (s.core c).tags g).rel
       | .taglnd => ∀ g, g < 64 → v.getLsbD g = (tget TagSt.reset (s.core c).tags g).lnd
       | .coreid => v = BitVec.ofNat 64 c
       | .slotid => v = BitVec.ofNat 64 s.cur.slot
       | .modid => v = BitVec.ofNat 64 s.modid
       | .nregs => v.toNat = if (s.core c).wide then 32 else 16) ∧
  (∀ (a : WReg) (m : RMode) (s : State) (t : Thread), Ready s t [a] →
     let A := opnd s t a
     let u := passed s t 8
     let oor := takeTrap s s.cur.core s.cur.slot 0x01 (BitVec.ofNat 64 (4 + 256 * 21))
     (∃ s', exec (.wrctl .flags a) s = .next s' ∧
       Turns s s' { u with flags := ⟨A.getLsbD 3, A.getLsbD 2, A.getLsbD 1, A.getLsbD 0⟩ }) ∧
     (A.toNat ≤ 4096 → ∃ s', exec (.wrctl .vl a) s = .next s' ∧ Turns s s' { u with vl := A.toNat }) ∧
     (4096 < A.toNat → exec (.wrctl .vl a) s = .next oor) ∧
     (∀ x, A.toNat = (match x with | .rne => 0 | .rtz => 1 | .rup => 2 | .rdn => 3 | .rna => 4) →
       ∃ s', exec (.wrctl .rmode a) s = .next s' ∧ Turns s s' { u with rmode := x }) ∧
     (4 < A.toNat → exec (.wrctl .rmode a) s = .next oor) ∧
     (∃ s', exec (.rmset m) s = .next s' ∧ Turns s s' { u with rmode := m }))

/-- R144, R146, R147: the thread's own flag forms, TSRD and EVMARK. EVMARK with user trace off has no effect.
R78, R144, R145: the cluster forms read and clear the OR tree on the supervisor core, where a Raise in the clear's own ck stays; they take the protection fault, cause 0x07,
with no effect on any other (TRAPINFO is the model's choice, log 107). -/
def Obligations.FlagsAndTime : Prop :=
  (∀ (d a b : WReg) (m : BitVec 5) (code : BitVec 16) (s : State) (t : Thread), Tidy s → Ready s t [a, b] → Dst s t d →
     let u := passed s t 8
     (∃ s', exec (.flgrd d) s = .next s' ∧ Sets s s' t d (t.iflags.setWidth 64) u) ∧
     (∃ s', exec (.flgclr m) s = .next s' ∧ Turns s s' { u with iflags := t.iflags &&& ~~~m }) ∧
     (∃ s', exec (.tsrd d) s = .next s' ∧ Sets s s' t d s.time u) ∧
     (∃ s', exec (.evmark a b code) s = .next s' ∧ s'.thread s.cur.core s.cur.slot = some u ∧
       s'.mem = s.mem ∧ s'.cores = s.cores ∧
       ((s.clu (cluOf s.cur.core)).actl.getLsbD 4 = false → s'.clus = s.clus) ∧
       (s.cur.core < Config.nCores → (s.clu (cluOf s.cur.core)).actl.getLsbD 0 = true → (s.clu (cluOf s.cur.core)).actl.getLsbD 4 = true →
         (s.clu (cluOf s.cur.core)).staging.length < 2048 →
         ∃ r, (s'.clu (cluOf s.cur.core)).staging = (s.clu (cluOf s.cur.core)).staging ++ [r] ∧
           r.w0 = s.time ∧ r.w2 = opnd s t a ∧ r.w3 = opnd s t b))) ∧
  (∀ (d : WReg) (m : BitVec 5) (f : Fin 5) (s : State) (t : Thread), Tidy s → Issues s t → Dst s t d →
     let n := cluOf s.cur.core
     let x := s.clu n
     let u := passed s t 8
     (s.cur.core % 16 = 0 → s.cur.core < Config.nCores →
       (∃ s', exec (.flgrdClu d) s = .next s' ∧ Sets s s' t d (x.u.setWidth 64) u) ∧
       (∃ s', exec (.flgclrClu m) s = .next s' ∧ s'.thread s.cur.core s.cur.slot = some u ∧ s'.mem = s.mem ∧ (∀ j, j ≠ n → s'.clu j = s.clu j) ∧
         ((∀ p ∈ x.raised, p.2.1 ≠ s.ckClu n) → s'.clu n = { x with u := x.u &&& ~~~m }) ∧
         (∀ g v by_, g < 5 → x.raised = [(g, s.ckClu n, v, by_)] → m.getLsbD g = true → (s'.clu n).u.getLsbD g = true ∧ tget 0 (s'.clu n).first g = v)) ∧
       (∃ s', exec (.flgftClu d f) s = .next s' ∧
         Sets s s' t d (if x.u.getLsbD f.val then tget 0 x.first f.val else 0) u)) ∧
     (s.cur.core % 16 ≠ 0 → ∀ i ∈ ([.flgrdClu d, .flgclrClu m, .flgftClu d f] : List Instr),
       exec i s = .next (takeTrap s s.cur.core s.cur.slot 0x07 0)))

/-! The life of a thread. -/

/-- R46: EXIT retires the issuing thread, whose slot is then free, once no store of its own is held at a port (R41, log 20), so always
where no store of its is outstanding.
R47, R48: HINT.ALIGN passes and its thread waits at its align point under the key of its PC and tenant; ALIGN_POINT_RELEASE lets every
waiter of a key go once m distinct cores wait or t ck have passed since one arrived; a thread whose m is not 2 to 16 waits for no other
core and goes after its own t ck. -/
def Obligations.ExitAndAlign : Prop :=
  (∀ (s : State) (t : Thread), Tidy s → Issues s t →
     Drained s t ∨ (releaseBy s s.cur.core (s.tid s.cur.core s.cur.slot) .pkg).2 = false →
     ∃ s', exec .exit s = .next s' ∧ s'.thread s.cur.core s.cur.slot = none) ∧
  (∀ (m : BitVec 5) (lim : BitVec 16) (s : State) (t : Thread), Tidy s → Issues s t →
     let c := s.cur.core
     let w := Wait.align (atAddr s t) (s.tenantOf c) m.toNat lim.toNat (s.ckOf c)
     (∃ s', exec (.hintAlign m lim) s = .next s' ∧ Turns s s' { passed s t 8 with wait := w }) ∧
     (∀ (c' sl : Nat) (p : Word) (k n lim' since : Nat) (x : Thread), sl < 16 → s.thread c' sl = some x → x.wait = .align p k n lim' since →
       let i : Instr := .alignPointRelease c' sl
       let group (n : Nat) := 2 ≤ n ∧ n ≤ 16
       let waits (j sj : Nat) (y : Thread) := j / 16 = c' / 16 ∧ sj < 16 ∧ s.thread j sj = some y ∧ ∃ n' l' a, group n' ∧ y.wait = .align p k n' l' a
       (group n → (since + lim' ≤ s.ckOf c' ∨ ∃ cs : List Nat, cs.Nodup ∧ n ≤ cs.length ∧ ∀ j ∈ cs, ∃ sj y, waits j sj y) →
         ∃ s', exec i s = .next s' ∧ ∀ j sj y, waits j sj y → s'.thread j sj = some { y with wait := .none }) ∧
       (¬ group n → since + lim' ≤ s.ckOf c' → ∃ s', exec i s = .next s' ∧ s'.thread c' sl = some { x with wait := .none }) ∧
       (¬ group n → s.ckOf c' < since + lim' → exec i s = .next s)))

/-- R120, R121: REP performs repetition REPCNT of its target with each marked field moved on by step × REPCNT, for every target that it
takes, once the checks that stand before the loop have passed; what the target's own statement says of it holds of it there.
R121: so REP of ADD writes the sum of the stepped registers; then REPCNT counts the repetition, or is 0 and the PC passes prefix and target. -/
def Obligations.RepRunsItsTarget : Prop :=
  (∀ (stepM1 : BitVec 2) (md ma mb : Bool) (cntM1 : BitVec 6) (d a b d' a' b' : WReg) (len : Nat) (s s1 : State) (t : Thread),
    let n := cntM1.toNat + 1
    let st := stepM1.toNat + 1
    let last (m : Bool) (r : WReg) : Nat := if m then r.val + st * (n - 1) else r.val
    let here (m : Bool) (r : WReg) : Nat := if m then r.val + st * t.repcnt else r.val
    Tidy s → s.cur.rep = none → Ready s t [a', b'] → Dst s t d' →
    fetchAt s s.cur.core s.cur.slot t (t.pc + 8) = (.ok (.add d a b, len), s1) →
    t.repcnt < n → last md d < s.nregs s.cur.core → last ma a < s.nregs s.cur.core → last mb b < s.nregs s.cur.core →
    d'.val = here md d → a'.val = here ma a → b'.val = here mb b →
    ∃ s' u, exec (.rep stepM1 md ma mb cntM1) s = .next s' ∧ opnd s' t d' = opnd s t a' + opnd s t b' ∧
      s'.thread s.cur.core s.cur.slot = some u ∧ s'.cur = s.cur ∧
      MemBut s s' (winKey s.cur.core (t.wp + 8 * d'.val)) 8 ∧
      (t.repcnt + 1 < n → u.repcnt = t.repcnt + 1 ∧ u.pc = t.pc) ∧
      (t.repcnt + 1 = n → u.repcnt = 0 ∧ u.pc = t.pc + 16)) ∧
  (∀ (stepM1 : BitVec 2) (md ma mb : Bool) (cntM1 : BitVec 6) (d a b d' a' b' : WReg) (o : Imm) (x : BitVec 32) (sh : Fin 5) (sz : Size)
     (p l : BitVec 6) (c : Cond) (f : FFmt) (e g : ETy) (r : OrdScope) (v v' : VOps) (m k : Bool) (q : BitVec 12) (len : Nat)
     (i j : Instr) (s s1 s2 : State) (t : Thread),
    let st := stepM1.toNat + 1
    let here (m : Bool) (r : WReg) : Nat := if m then r.val + st * t.repcnt else r.val
    d'.val = here md d → a'.val = here ma a → b'.val = here mb b → v.d = d → v.a = a → v.b = b → v' = { v with d := d', a := a', b := b' } →
    (i, j) ∈ ([
      (.add d a b, .add d' a' b'), (.sub d a b, .sub d' a' b'), (.adc d a b, .adc d' a' b'), (.sbc d a b, .sbc d' a' b'),
      (.and d a b, .and d' a' b'), (.or d a b, .or d' a' b'), (.xor d a b, .xor d' a' b'), (.andn d a b, .andn d' a' b'),
      (.shl d a b, .shl d' a' b'), (.shr d a b, .shr d' a' b'), (.sar d a b, .sar d' a' b'), (.ror d a b, .ror d' a' b'),
      (.mul d a b, .mul d' a' b'), (.mulhu d a b, .mulhu d' a' b'), (.mulhs d a b, .mulhs d' a' b'), (.divu d a b, .divu d' a' b'),
      (.divs d a b, .divs d' a' b'), (.remu d a b, .remu d' a' b'), (.rems d a b, .rems d' a' b'), (.minu d a b, .minu d' a' b'),
      (.mins d a b, .mins d' a' b'), (.maxu d a b, .maxu d' a' b'), (.maxs d a b, .maxs d' a' b'),
      (.cmp a b, .cmp a' b'), (.tst a b, .tst a' b'), (.neg d a, .neg d' a'),
      (.addi d a o, .addi d' a' o), (.subi d a o, .subi d' a' o), (.adci d a o, .adci d' a' o), (.sbci d a o, .sbci d' a' o),
      (.andi d a o, .andi d' a' o), (.ori d a o, .ori d' a' o), (.xori d a o, .xori d' a' o), (.andni d a o, .andni d' a' o),
      (.shli d a o, .shli d' a' o), (.shri d a o, .shri d' a' o), (.sari d a o, .sari d' a' o), (.rori d a o, .rori d' a' o),
      (.muli d a o, .muli d' a' o), (.mulhui d a o, .mulhui d' a' o), (.mulhsi d a o, .mulhsi d' a' o), (.divui d a o, .divui d' a' o),
      (.divsi d a o, .divsi d' a' o), (.remui d a o, .remui d' a' o), (.remsi d a o, .remsi d' a' o), (.minui d a o, .minui d' a' o),
      (.minsi d a o, .minsi d' a' o), (.maxui d a o, .maxui d' a' o), (.maxsi d a o, .maxsi d' a' o), (.lea d a o, .lea d' a' o),
      (.cmpi a o, .cmpi a' o), (.tsti a o, .tsti a' o), (.mov d a, .mov d' a'), (.movi d o, .movi d' o), (.movhi d x, .movhi d' x), (.adr d o, .adr d' o),
      (.leax d a b sh, .leax d' a' b' sh), (.sext sz d a, .sext sz d' a'), (.zext sz d a, .zext sz d' a'),
      (.clz d a, .clz d' a'), (.ctz d a, .ctz d' a'), (.popc d a, .popc d' a'), (.bswap d a, .bswap d' a'), (.brev d a, .brev d' a'),
      (.bfx d a p l, .bfx d' a' p l), (.bfxs d a p l, .bfxs d' a' p l), (.bfi d a p l, .bfi d' a' p l), (.csel c d a b, .csel c d' a' b'), (.cset c d, .cset c d'),
      (.fadd f d a b, .fadd f d' a' b'), (.fsub f d a b, .fsub f d' a' b'), (.fmul f d a b, .fmul f d' a' b'), (.fdiv f d a b, .fdiv f d' a' b'),
      (.fma f d a b, .fma f d' a' b'), (.fmin f d a b, .fmin f d' a' b'), (.fmax f d a b, .fmax f d' a' b'),
      (.fsqrt f d a, .fsqrt f d' a'), (.fcmp f a b, .fcmp f a' b'), (.fabs f d a, .fabs f d' a'), (.fneg f d a, .fneg f d' a'),
      (.fcvt e g d a, .fcvt e g d' a'), (.ld sz d a o, .ld sz d' a' o), (.lds sz d a o, .lds sz d' a' o),
      (.ldPostinc sz d a, .ldPostinc sz d' a'), (.ldsPostinc sz d a, .ldsPostinc sz d' a'),
      (.st sz a o b, .st sz a' o b'), (.stPostinc sz a b, .stPostinc sz a' b'), (.ald sz d a o r, .ald sz d' a' o r), (.ast sz a o b r, .ast sz a' o b' r),
      (.aswp sz d a o b r, .aswp sz d' a' o b' r), (.aadd sz d a o b r, .aadd sz d' a' o b' r), (.aand sz d a o b r, .aand sz d' a' o b' r),
      (.aor sz d a o b r, .aor sz d' a' o b' r), (.axor sz d a o b r, .axor sz d' a' o b' r), (.aminu sz d a o b r, .aminu sz d' a' o b' r),
      (.amins sz d a o b r, .amins sz d' a' o b' r), (.amaxu sz d a o b r, .amaxu sz d' a' o b' r), (.amaxs sz d a o b r, .amaxs sz d' a' o b' r),
      (.acas sz d a o b r, .acas sz d' a' o b' r),
      (.afadd f d a o b r, .afadd f d' a' o b' r),
      (.vmov v, .vmov v'), (.vadd v, .vadd v'), (.vsub v, .vsub v'), (.vmul v, .vmul v'), (.vdiv v, .vdiv v'), (.vmin v, .vmin v'), (.vmax v, .vmax v'), (.vfma v, .vfma v'),
      (.vand v, .vand v'), (.vor v, .vor v'), (.vxor v, .vxor v'), (.vshl v, .vshl v'), (.vshr v, .vshr v'), (.vsar v, .vsar v'), (.vabs v, .vabs v'), (.vneg v, .vneg v'),
      (.vsqrt v, .vsqrt v'), (.vrcp v, .vrcp v'), (.vrsqrt v, .vrsqrt v'), (.vexp v, .vexp v'), (.vlog v, .vlog v'), (.vtanh v, .vtanh v'), (.vsigm v, .vsigm v'), (.vsel v, .vsel v'),
      (.vcmp c v, .vcmp c v'), (.vred m k v, .vred m k v'), (.vredmax m k v, .vredmax m k v'), (.vredmin m k v, .vredmin m k v'),
      (.vdot m v, .vdot m v'), (.vsmax q v, .vsmax q v'), (.vsmaxf q v, .vsmaxf q v')] : List (Instr × Instr)) →
    Issues s t → fetchAt s s.cur.core s.cur.slot t (t.pc + 8) = (.ok (i, len), s1) →
    repChecks (s1.nregs s.cur.core) i md ma mb st (cntM1.toNat + 1) t.repcnt = none →
    exec j { s1 with cur := { s1.cur with rep := some (t.repcnt, cntM1.toNat + 1) } } = .next s2 →
    exec (.rep stepM1 md ma mb cntM1) s = .next { s2 with cur := { s2.cur with rep := none } })

/-! Loads, stores and atomics. -/

/-- R35, R150, R151, R152: a load whose access passes its checks (in `s1`, where thread `u` issues) leaves the rotation with the value, zero-
or sign-extended, on its way; a post-increment form also adds the size to A. Nothing else changes there.
R35: MEMORY_REPLY writes the registers that the reply brings, whose PEND bits it clears (R210), and the thread re-enters.
R24, R93: but for cached translations, slice lines and what the thread has read, the access itself changes nothing where no store that it
must wait for is buffered.
R51, R57, R90, R148: a load of the issuing core's own window reads the bytes that stand there, unless its line is poisoned. -/
def Obligations.Loads : Prop :=
  (∀ (sg post : Bool) (sz : Size) (d a : WReg) (o : Imm) (s s1 : State) (t u : Thread) (v : Nat),
     Tidy s → Ready s t [a] → DstSz s t d sz → pairOk d sz → (sg = true → sz ≠ .d ∧ sz ≠ .q) →
     (post = true → a ∉ regsOf d sz) →
     let n := sz.bytes
     let ea := if post then opnd s t a else opnd s t a + o.sext
     let len := if post then 8 else o.formBytes
     let i : Instr :=
       match sg, post with
       | false, false => .ld sz d a o
       | true, false => .lds sz d a o
       | false, true => .ldPostinc sz d a
       | true, true => .ldsPostinc sz d a
     let x : Nat := if sg ∧ 2 ^ (8 * n - 1) ≤ v % 2 ^ (8 * n) then v % 2 ^ (8 * n) + 2 ^ 64 - 2 ^ (8 * n) else v
     let w := { passed s1 u len with wait := .reply, late := u.late ++ lateSz d sz x }
     loadAt ea n s = .ok (v, s1) → Follows s s1 u →
     (∃ s', exec i s = .next s' ∧ (if post then Sets s1 s' u a (opnd s t a + BitVec.ofNat 64 n) w else Turns s1 s' w)) ∧
     (∀ k s2, Homed s t → locate .read ea n n s = .ok (k, s2) → isCell k = false ∨ (s.core s.cur.core).wbuf = [] →
       Quiet s s1 ∧ MemSame s s1 ∧ u = { t with pins := u.pins, views := u.views, seen := u.seen, stale := u.stale })) ∧
  (∀ (c sl : Nat) (sz : Size) (d : WReg) (x : Nat) (s : State) (t : Thread),
     Tidy s → s.thread c sl = some t → t.wait = .reply → pairOk d sz → t.late = lateSz d sz x →
     let z := s.viewOf c sl
     ∃ s' u, exec (.memoryReply c sl) s = .next s' ∧ s'.thread c sl = some u ∧
       u = { t with wait := .none, late := [], pend := u.pend } ∧ HoldsSz (s'.viewOf c sl) t d sz x ∧
       (∀ r : WReg, u.pends r.val = (t.pends r.val && decide (r ∉ regsOf d sz))) ∧
       OnlySlot z (s'.viewOf c sl) ∧ MemButRegs z (s'.viewOf c sl) t (regsOf d sz)) ∧
  (∀ (sz : Size) (ea : Word) (k : Nat) (s : State) (t : Thread), Issues s t → OwnBank s ea sz.bytes k → Unbuffered s k →
     (k / 64 ∉ s.poison → loadAt ea sz.bytes s = .ok (leNat ((List.range sz.bytes).map (fun i => byteAt s.mem (k + i))), s)) ∧
     (k / 64 ∈ s.poison → ∀ (d a : WReg) (o : Imm), Ready s t [a] → DstSz s t d sz → opnd s t a + o.sext = ea →
       exec (.ld sz d a o) s = .next (takeTrap s s.cur.core s.cur.slot 0x09 ea)))

/-- R90, R150-R152: a store to the issuing core's own window is performed at once and stays in the rotation, unless a pending
register's word must wait (R41). It writes the low bytes of B at the address its operands name, and no other byte but, with
post-increment, A's register; PEND of a register that stood for a stopped future is clear where the store has written its word (R34, R210).
R91, R152: a store elsewhere, once what the thread's fences publish in buffers it left by MIGR is performed (R95), goes to the end of the
core's write buffer with its thread and bytes, changes no byte of memory but a post-increment's register, and leaves the rotation. -/
def Obligations.Stores : Prop :=
  (∀ (post : Bool) (sz : Size) (a b : WReg) (o : Imm) (s s1 : State) (t : Thread) (k : Nat),
     Tidy s → Ready s t (a :: regsOf b sz) → pairOk b sz →
     let n := sz.bytes
     let ea := if post then opnd s t a else opnd s t a + o.sext
     let len := if post then 8 else o.formBytes
     let i : Instr := if post then .stPostinc sz a b else .st sz a o b
     locate .write ea n n s = .ok (k, s1) → owned s.cur.core k = true → storeWaits s1 k n = false →
     ∃ s' u, exec i s = .next s' ∧ s'.thread s.cur.core s.cur.slot = some u ∧
       u = { passed s t len with pend := u.pend } ∧
       (NoPending s1 k n → MemStored s s' t (if post then [a] else []) k n (opndSz s t b sz)) ∧
       (post = true → opnd s' t a = opnd s t a + BitVec.ofNat 64 n) ∧
       (s.cur.slot < 16 → ∀ r : WReg, r.val < s.nregs s.cur.core → t.moved.length ≤ t.depth - 1 →
         u.pends r.val = (t.pends r.val && !(decide (wordKey s t r < k + n ∧ k < wordKey s t r + 8) || post && r == a)))) ∧
  (∀ (post : Bool) (sz : Size) (a b : WReg) (o : Imm) (s s1 : State) (t : Thread) (k : Nat),
     Tidy s → Ready s t (a :: regsOf b sz) → pairOk b sz →
     let n := sz.bytes
     let ea := if post then opnd s t a else opnd s t a + o.sext
     let len := if post then 8 else o.formBytes
     let i : Instr := if post then .stPostinc sz a b else .st sz a o b
     let c := s.cur.core
     let tid := s.tid c s.cur.slot
     locate .write ea n n s = .ok (k, s1) → owned c k = false →
     (∀ off, devOff k = some off → devWriteOk s1 (partyAt s1 c k) off n = true) → forceIn s1 (leftBy s1 tid) [] = (s1, false) →
     ∃ s' u bs, exec i s = .next s' ∧ s'.thread c s.cur.slot = some u ∧
       u = { passed s t len with wait := .reply, pend := u.pend, pins := u.pins, views := u.views, wrote := u.wrote } ∧
       (s'.core c).wbuf = (s.core c).wbuf ++ [.store tid k (physOf s1 c ea).1 bs false] ∧
       bs = (List.range n).map (leByte (opndSz s t b sz)) ∧
       MemButRegs s s' t (if post then [a] else []) ∧
       (post = true → opnd s' t a = opnd s t a + BitVec.ofNat 64 n))

/-- R157: the read-modify-write forms, once their checks, release and fences are done (in `s1`, where thread `u` issues), store
F(old, b) of N-bit numbers at the location, of which old are the bytes, change no other byte, and leave the rotation with old on its way
to Wd, which the reply writes (R35). No pending register's word lies there (R41, R210). -/
def Obligations.AtomicUpdates : Prop :=
  ∀ (sz : Size) (d a b : WReg) (o : Imm) (r : OrdScope) (s s1 : State) (t u : Thread) (k old : Nat),
    Ready s t [a, b] → Dst s t d → sz = .s ∨ sz = .d →
    let n := sz.bytes
    let m := 2 ^ (8 * n)
    let y := (opnd s t b).toNat % m
    let sg (x : Nat) : Int := if 2 * x < m then (x : Int) else (x : Int) - m
    rmwOpen (opnd s t a + o.sext) n r s = .ok ((k, old), s1) → Follows s s1 u → NoPending s1 k n →
    old = leNat ((List.range n).map (fun i => byteAt s1.mem (k + i))) ∧
    ∀ p ∈ ([
      (.aswp sz d a o b r, y), (.aadd sz d a o b r, (old + y) % m), (.aand sz d a o b r, old &&& y), (.aor sz d a o b r, old ||| y),
      (.axor sz d a o b r, old ^^^ y),
      (.aminu sz d a o b r, if old ≤ y then old else y), (.amaxu sz d a o b r, if old ≤ y then y else old),
      (.amins sz d a o b r, if sg old ≤ sg y then old else y), (.amaxs sz d a o b r, if sg old ≤ sg y then y else old)]
        : List (Instr × Nat)),
    ∃ s' v, exec p.1 s = .next s' ∧ s'.thread s.cur.core s.cur.slot = some v ∧ MemStored s1 s' u [] k n p.2 ∧
      v = { passed s1 u o.formBytes with wait := .reply, late := u.late ++ lateSz d .d old, pins := v.pins, views := v.views, floors := v.floors }

/-- R158, R159: ACAS stores B only where the old value equals the expected one, sets FLAGS by that and returns the old value;
AFADD stores the sum rounded once under RMODE, returns the old value and raises the flags. What is returned is on its way to Wd, which the
reply writes (R35); no pending register's word lies at the location.
R156: ALD reads its location at the ordering point, here one that is no device register, and AST writes it there; checks,
release and fences come first (in `s1`). -/
def Obligations.OtherAtomics : Prop :=
  (∀ (sz : Size) (f : FFmt) (d a b : WReg) (o : Imm) (r : OrdScope) (s s1 : State) (t u : Thread) (k old : Nat),
     Follows s s1 u →
     (Ready s t (a :: (regsOf b sz ++ regsOf d sz)) → pairOk d sz → pairOk b sz → sz ≠ .b → sz ≠ .h →
       let n := sz.bytes
       let m := 2 ^ (8 * n)
       let same := old = opndSz s t d sz % m
       rmwOpen (opnd s t a + o.sext) n r s = .ok ((k, old), s1) → NoPending s1 k n →
       ∃ s' v, exec (.acas sz d a o b r) s = .next s' ∧ s'.thread s.cur.core s.cur.slot = some v ∧
         (same → MemStored s1 s' u [] k n (opndSz s t b sz % m)) ∧ (¬ same → MemSame s1 s') ∧
         v = { passed s1 u o.formBytes with wait := .reply, late := u.late ++ lateSz d sz old, pins := v.pins, views := v.views, floors := v.floors,
                                            flags := ⟨decide same, false, false, false⟩ }) ∧
     (Ready s t [a, b] → Dst s t d → f = .f64 ∨ f = .f32 →
       let n := f.width / 8
       let res := fAdd f t.rmode (f.opnd (BitVec.ofNat 64 old)) (f.opnd (opnd s t b))
       rmwOpen (opnd s t a + o.sext) n r s = .ok ((k, old), s1) → NoPending s1 k n →
       ∃ s' v, exec (.afadd f d a o b r) s = .next s' ∧ s'.thread s.cur.core s.cur.slot = some v ∧ MemStored s1 s' u [] k n res.1 ∧
         v = { passed s1 u o.formBytes with wait := .reply, late := u.late ++ lateSz d .d old, pins := v.pins, views := v.views, floors := v.floors,
                                            iflags := u.iflags ||| res.2 })) ∧
  (∀ (sz : Size) (d a b : WReg) (o : Imm) (r : OrdScope) (s s0 s1 s2 : State) (t u : Thread) (k : Nat),
     let n := sz.bytes
     let ea := opnd s t a + o.sext
     devOff k = none → k / 64 ∉ s0.poison → ordRelease r s0 = .ok ((), s1) → Follows s s2 u →
     (Ready s t [a] → DstSz s t d sz → pairOk d sz → locate .ald ea n n s = .ok (k, s0) → atomicAt k n ea false s1 = .ok ((), s2) →
       let old := leNat ((List.range n).map (fun i => byteAt s2.mem (k + i)))
       ∃ s' v, exec (.ald sz d a o r) s = .next s' ∧ s'.thread s.cur.core s.cur.slot = some v ∧ MemSame s2 s' ∧
         v = { passed s2 u o.formBytes with wait := .reply, late := u.late ++ lateSz d sz old, pins := v.pins, views := v.views, floors := v.floors }) ∧
     (Ready s t (a :: regsOf b sz) → pairOk b sz → locate .rmw ea n n s = .ok (k, s0) → atomicAt k n ea true s1 = .ok ((), s2) → NoPending s2 k n →
       ∃ s' v, exec (.ast sz a o b r) s = .next s' ∧ s'.thread s.cur.core s.cur.slot = some v ∧
         MemStored s2 s' u [] k n (opndSz s t b sz) ∧
         v = { passed s2 u o.formBytes with wait := .reply, pins := v.pins, views := v.views, floors := v.floors }))

/-- R148: an address that is not a multiple of the access size takes the misaligned fault, cause 0x05, and one that is not
canonical the protection fault, 0x07, each with the address in TRAPINFO; no register and no byte changes. -/
def Obligations.BadAddresses : Prop :=
  ∀ (sz : Size) (d a b : WReg) (o : Imm) (r : OrdScope) (s : State) (t : Thread),
    Ready s t (a :: (regsOf b sz ++ regsOf d sz)) →
    let ea := opnd s t a + o.sext
    let at_ (cause : Nat) := Host.Outcome.next (φ := Fault) (ρ := Refusal) (takeTrap s s.cur.core s.cur.slot cause ea)
    ∀ i ∈ ([.ld sz d a o, .lds sz d a o, .st sz a o b, .ald sz d a o r, .ast sz a o b r, .acas sz d a o b r] : List Instr),
      (ea.toNat % sz.bytes ≠ 0 → (ea.toNat < 2 ^ 56 ∨ 2 ^ 64 - 2 ^ 56 ≤ ea.toNat) → exec i s = at_ 0x05) ∧
      (2 ^ 56 ≤ ea.toNat → ea.toNat < 2 ^ 64 - 2 ^ 56 → exec i s = at_ 0x07)

/-! Phases, fences and barriers. -/

/-- R35, R95, R160: the phase boundaries and fences. A release leaves in the core's buffer no store that its scope covers; an acquire drops what the thread holds of covered lines and refreshes the view;
FENCE.REL only marks the buffer. A PHASE form leaves the rotation, but at CORE scope only one that publishes writes to the core's own
pseudo-channel. Where no store is outstanding each form completes with the thread alone changed. -/
def Obligations.PhasesAndFences : Prop :=
  ∀ (sc : Scope) (s s1 : State) (t u : Thread), Issues s t →
    let c := s.cur.core
    let kept (x : Thread) : Thread := { x with
      pins := x.pins.filter (fun p => !covers sc c (64 * p.1)), views := x.views.filter (fun p => !covers sc c (8 * p.1)) }
    let seen (now : Nat) (x : Thread) : Thread := { x with floors := x.floors.at sc now }
    let own := ∃ tid k pa d h, .store tid k pa d h ∈ (s.core c).wbuf ∧ placeOf k = .hbm c
    let becomes (s' : State) (rel : Prop) (x : Thread) :=
      ((sc ≠ .core ∨ (rel ∧ own)) → s'.thread c s.cur.slot = some { x with wait := .reply }) ∧
      (sc = .core → ¬ (rel ∧ own) → s'.thread c s.cur.slot = some x)
    let alone (x : State) := { x with slots := s.slots } = s
    (release sc s = .ok ((), s1) → Follows s s1 u →
      (∀ tid k pa d h, .store tid k pa d h ∈ (s1.core c).wbuf → covers sc c k = false) ∧
      (∃ s', exec (.phaseRel sc) s = .next s' ∧ s'.mem = s1.mem ∧ s'.cores = s1.cores ∧ becomes s' True (kept (passed s1 u 8))) ∧
      (∃ s', exec (.phase sc) s = .next s' ∧ s'.mem = s1.mem ∧ s'.cores = s1.cores ∧ becomes s' True (seen s1.now (kept (passed s1 u 8))))) ∧
    (Drained s t →
      (∃ s', exec (.phaseRel sc) s = .next s' ∧ alone s' ∧ becomes s' True (kept (passed s t 8))) ∧
      (∃ s', exec (.phase sc) s = .next s' ∧ alone s' ∧ becomes s' True (seen s.now (kept (passed s t 8))))) ∧
    (∃ s', exec (.phaseAcq sc) s = .next s' ∧ alone s' ∧ becomes s' False (seen s.now (kept (passed s t 8)))) ∧
    (∃ s', exec (.fenceAcq sc) s = .next s' ∧ alone s' ∧ s'.thread c s.cur.slot = some { seen s.now (passed s t 8) with wait := .reply }) ∧
    (let marked := (s.core c).wbuf ++ (if (s.core c).wbuf = [] then [] else [.fence (s.tid c s.cur.slot) c sc])
     (∃ s', exec (.fenceRel sc) s = .next s' ∧ s'.mem = s.mem ∧ s'.thread c s.cur.slot = some (passed s t 8) ∧
       (Homed s t → (s'.core c).wbuf = marked)) ∧
     (∃ s', exec (.fenceAcqRel sc) s = .next s' ∧ s'.mem = s.mem ∧
       s'.thread c s.cur.slot = some { seen s.now (passed s t 8) with wait := .reply } ∧ (Homed s t → (s'.core c).wbuf = marked)))

/-- R161, R162: BINIT writes a fresh record: KIND, the scope, EXP for a counting one, all else 0.
R163: an arrival for phase q, BARDROP's with drop 1, is counted for the current phase or for the next, and completes phases
as the manual's loop does; any other breaks the barrier and faults with the over-arrival cause, 0x0F. `s1` is where the record was found
and `s2` where the release it carries is done; in the record found there the drops are among the arrivals, and no pending register's word
lies in it. -/
def Obligations.BarrierArrivals : Prop :=
  (∀ (byt : Bool) (sc : Scope) (a b : WReg) (s s1 : State) (t u : Thread) (k : Nat), Ready s t [a, b] →
     let A := opnd s t a
     let B := opnd s t b
     let code := match sc with | .thr => 0 | .core => 1 | .clu => 2 | .stk => 3 | .pkg => 4 | .dom => 5
     let w0 := (if byt then 2 else 1) * 2 ^ 60 + code * 2 ^ 55
     let w1 := if byt then 0 else B.toNat
     (byt = false → 1 ≤ B.toNat ∧ B.toNat ≤ 65535) → barLocate A s = .ok (k, s1) → Follows s s1 u → u.wait = .none → NoPending s1 k 32 →
     ∃ s' v, exec (.binit byt sc a b) s = .next s' ∧ s'.thread s.cur.core s.cur.slot = some v ∧
       v = { passed s1 u 8 with wait := .reply, pins := v.pins, views := v.views } ∧
       MemStored s1 s' u [] k 32 (w0 + 2 ^ 64 * w1)) ∧
  (∀ (drop : Bool) (a b : WReg) (r : OrdScope) (s s1 s2 : State) (t u : Thread) (k : Nat) (rec : BarRec),
     Ready s t [a, b] →
     let q := (opnd s t b).toNat % 65536
     let i : Instr := if drop then .bardrop a b r else .barr a b r
     barOpen (opnd s t a) [1] r false s = .ok ((k, rec), s1) → ordRelease r s1 = .ok ((), s2) → Follows s s2 u → u.wait = .none → NoPending s2 k 32 →
     let x := barAt s2 k
     x.broken = false → x.kind = 1 → x.drops ≤ x.cnt → x.ndrops ≤ x.nxt →
     let c0 : Counting := ⟨x.ph, x.cnt, x.exp, x.drops, x.nxt, x.ndrops⟩
     (∀ c1 c2, c0.arrive q (bitNat drop) = some c1 → c1.Completes c2 →
       ∃ s' v y, exec i s = .next s' ∧ s'.thread s.cur.core s.cur.slot = some v ∧
         v = { passed s2 u 8 with wait := .reply, pins := v.pins, views := v.views } ∧
         y = barAt s' k ∧ c2 = ⟨y.ph, y.cnt, y.exp, y.drops, y.nxt, y.ndrops⟩ ∧ y.broken = false ∧ y.kind = x.kind ∧ y.scope = x.scope ∧
         (∀ j, j < k ∨ k + 32 ≤ j → byteAt s'.mem j = byteAt s2.mem j)) ∧
     (c0.arrive q (bitNat drop) = none →
       ∃ s' v, exec i s = .next s' ∧ (barAt s' k).broken = true ∧ (barAt s' k).w2 = s2.time ∧
         s'.thread s.cur.core s.cur.slot = some v ∧ (u.kernel = false → v.kernel = true) ∧
         (s'.slot s.cur.core s.cur.slot).trapcause = (if u.kernel then (s2.slot s.cur.core s.cur.slot).trapcause else 0x0F)))

/-- R164: BWAIT returns at once when (PH − q) mod 2^16 lies in 1 to 32,768, with its acquire; else the thread registers at the
record and its PC stays. BSYNC, whose arrival is counted, does the same and clears REPCNT when it returns.
R165: BEXPECT and BARRB on a record that is not broken: the counter falls or rises by B bytes; with an expectation posted, 0
completes the phase and a positive counter breaks the barrier, as a second expectation does, with the byte-barrier fault, 0x10. No pending
register's word lies in the record. -/
def Obligations.BarrierWaits : Prop :=
  (∀ (a b : WReg) (r : OrdScope) (s s1 : State) (t u : Thread) (k : Nat) (rec : BarRec), Ready s t [a, b] →
     s.cur.rep = none → s1.cur = s.cur → Issues s1 u →
     let A := opnd s t a
     let q := (opnd s t b).toNat % 65536
     let d := (rec.ph + 65536 - q) % 65536
     let c := s.cur.core
     let acq := r.ord = .acq ∨ r.ord = .acqRel
     rec.broken = false →
     ∀ p ∈ ([(.bwait a b r, 0, barOpen A [1, 2] r true s = .ok ((k, rec), s1)),
             (.bsync a b r, 1, t.repcnt = 1 ∧ barOpen A [1] r true s = .ok ((k, rec), s1)),
             (.bsync a b r, 1, t.repcnt = 0 ∧ barArrive A q 0 r s = .ok ((k, rec), s1))] : List (Instr × Nat × Prop)),
       p.2.2 →
       (1 ≤ d ∧ d ≤ 32768 → ∃ s' v, exec p.1 s = .next s' ∧ s'.mem = s1.mem ∧ s'.thread c s.cur.slot = some v ∧
         v = { u with pc := u.pc + 8, repcnt := 0, wait := .reply, pins := v.pins, views := v.views, floors := v.floors } ∧
         (acq → v.floors = u.floors.at r.scope s1.now)) ∧
       (¬ (1 ≤ d ∧ d ≤ 32768) → ∃ s' v, exec p.1 s = .next s' ∧ s'.mem = s1.mem ∧ s'.thread c s.cur.slot = some v ∧
         v = { u with repcnt := p.2.1, wait := v.wait } ∧ ∃ sc, v.wait = .barrier k A q sc ∧ (sc = some r.scope ↔ acq))) ∧
  (∀ (a b : WReg) (r : OrdScope) (s s0 s1 : State) (t u : Thread) (k : Nat) (rec : BarRec), Ready s t [a, b] →
     let A := opnd s t a
     let n : Int := (opnd s t b).toNat
     1 ≤ n → n < 2 ^ 47 → Follows s s1 u → u.wait = .none → NoPending s1 k 32 →
     let x := barAt s1 k
     let cnt := x.w1.toInt
     (-2 ^ 62 : Int) ≤ cnt → cnt ≤ 2 ^ 62 → x.broken = false → x.kind = 2 →
     ∀ p ∈ ([(.bexpect a b, cnt - n, true, x.posted, barOpen A [2] OrdScope.none false s = .ok ((k, rec), s1)),
             (.barrb a b r, cnt + n, x.posted, false,
               barOpen A [2] r false s = .ok ((k, rec), s0) ∧ ordRelease r s0 = .ok ((), s1))]
           : List (Instr × Int × Bool × Bool × Prop)),
       let v := p.2.1
       let posted := p.2.2.1
       let twice := p.2.2.2.1
       p.2.2.2.2 →
       let breaks := twice = true ∨ (posted = true ∧ 0 < v)
       (¬ breaks → ∃ s' y w, exec p.1 s = .next s' ∧ y = barAt s' k ∧ y.w1.toInt = v ∧ y.broken = false ∧
         s'.thread s.cur.core s.cur.slot = some w ∧ w = { passed s1 u 8 with wait := .reply, pins := w.pins, views := w.views } ∧
         (if posted ∧ v = 0 then y.ph = (x.ph + 1) % 65536 ∧ y.posted = false else y.ph = x.ph ∧ y.posted = posted)) ∧
       (breaks → ∃ s' w, exec p.1 s = .next s' ∧ (barAt s' k).broken = true ∧ (barAt s' k).w2 = s1.time ∧
         s'.thread s.cur.core s.cur.slot = some w ∧ (u.kernel = false → w.kernel = true) ∧
         (s'.slot s.cur.core s.cur.slot).trapcause = (if u.kernel then (s1.slot s.cur.core s.cur.slot).trapcause else 0x10)))

/-! Messages. -/

/-- R167, R168: MYTID gives the thread's identifier; SEND to a well-formed identifier in the tenant's clusters, whose router admits it,
sends the message, once what the thread's fences publish is performed (R95, R104; in `s0`), and waits for its status; a malformed one is
out of range with BIT 21.
R168: what an arriving message answers: 1 where no such thread stands or is spilled, 2 where four messages are held, 3 where HVEC is 0 (that 2
comes first where both hold is the model's choice, log 31), else 0, and then it is held behind those that came before, with the TIME of its arrival. Its sender's Wd holds the answer and the
sender re-enters; a message that the target's router does not admit (R310) faults its sender at the SEND, cause 0x08. -/
def Obligations.MessageSends : Prop :=
  (∀ (d a b : WReg) (code : BitVec 16) (s : State) (t : Thread), Tidy s → Ready s t [a, b] → Dst s t d →
     let c := s.cur.core
     let sl := s.cur.slot
     let id : Word := BitVec.ofNat 64 (0xA * 2 ^ 60 + c * 2 ^ 49 + sl * 2 ^ 45 + t.inc % 65536 * 2 ^ 29)
     let A := opnd s t a
     let good := A.toNat / 2 ^ 60 = 0xA ∧ A.toNat % 2 ^ 29 = 0 ∧ A.toNat / 2 ^ 49 % 2 ^ 11 < 1536
     let goal := A.toNat / 2 ^ 49 % 2 ^ 11
     (∃ s', exec (.mytid d) s = .next s' ∧ Sets s s' t d id (passed s t 8)) ∧
     (good → s.sameTenant c goal = true → s.routed c (cluOf goal) = true →
       ∀ s0 u, forceFences s c id = (s0, false) → Follows s s0 u → u.inc = t.inc →
       (∃ s', exec (.send d a b code) s = .next s' ∧ s'.thread c sl = some { passed s0 u 8 with wait := .send } ∧
         s'.eng.net = s0.eng.net ++ [⟨A, ⟨id, opnd s t b, code.toNat, 0⟩, some (id, d.val)⟩] ∧ s'.mem = s0.mem) ∧
       (Drained s t → s0 = s)) ∧
     (¬ good → exec (.send d a b code) s = .next (takeTrap s c sl 0x01 (BitVec.ofNat 64 (4 + 256 * 21)))) ∧
     (good → s.sameTenant c goal = false ∨ s.routed c (cluOf goal) = false → exec (.send d a b code) s = .next (takeTrap s c sl 0x08 A))) ∧
  (∀ (n : Nat) (m : NetMsg) (c sl d : Nat) (s : State) (t x : Thread),
     Tidy s → s.eng.net[n]? = some m → tidForm m.dst = true → s.thread c sl = some t →
     c < 2048 → sl < 16 → t.inc < 65536 → m.status = some (tidOf c sl t.inc, d) → d < 32 →
     let admits := s.routed (tidCore m.msg.src) (cluOf (tidCore m.dst))
     (admits = false → t.kernel = false → ∃ s' u, exec (.messageArrival n) s = .next s' ∧ s'.thread c sl = some u ∧ u.kernel = true ∧ s'.mem = s.mem ∧
       (s'.slot c sl).trapcause = 0x08 ∧ (s'.slot c sl).trapinfo = m.dst ∧ (s'.slot c sl).trappc = t.pc - 8) ∧
     (admits = true → s.find m.dst = none → s.spilledOf m.dst = none →
       ∃ s' u, exec (.messageArrival n) s = .next s' ∧ s'.eng.net.length + 1 = s.eng.net.length ∧ s'.thread c sl = some u ∧ u.wait = .none ∧
         s'.w64 (winKey c (t.wp + 8 * d)) = 1) ∧
     (admits = true → s.find m.dst = some (tidCore m.dst, tidSlot m.dst) → s.thread (tidCore m.dst) (tidSlot m.dst) = some x →
       m.dst ≠ tidOf c sl t.inc →
       let st : Nat := if 4 ≤ x.held.length then 2 else if s.hvec (tidCore m.dst) (tidSlot m.dst) = 0 then 3 else 0
       ∃ s' y u, exec (.messageArrival n) s = .next s' ∧ s'.eng.net.length + 1 = s.eng.net.length ∧
         s'.thread (tidCore m.dst) (tidSlot m.dst) = some y ∧
         y.held = (if st = 0 then x.held ++ [{ m.msg with stime := s.time }] else x.held) ∧
         s'.thread c sl = some u ∧ u.wait = .none ∧ s'.w64 (winKey c (t.wp + 8 * d)) = BitVec.ofNat 64 st))

/-- R45, R171, R172: MMASK opens a masked section and MUNMASK closes it; MWAIT leaves the rotation; MRET returns to SPC with the
flags and REPCNT saved, and clears INH; MRET with INH 0 takes the protection fault. That MRET returns in either mode is the model's choice
(log 38), and so is its fault's TRAPINFO, 0 (log 117).
R45, R172: a masked section open for more than 256 ck takes the mask-overrun fault, cause 0x11, outside kernel mode, at its
next issue or at its re-entry, which ends an MWAIT; that it does so once for a section is the model's choice (log 30). -/
def Obligations.MessageForms : Prop :=
  (∀ (s s1 : State) (t : Thread), Tidy s → Issues s t →
     let c := s.cur.core
     let sl := s.cur.slot
     (∃ s' u, exec .mmask s = .next s' ∧ s'.msk c sl = true ∧ s'.inh c sl = s.inh c sl ∧ s'.thread c sl = some u ∧
       u = { passed s t 8 with maskAt := u.maskAt, overran := u.overran } ∧
       (s.msk c sl = true → s'.mem = s.mem) ∧ MemBut s s' (winKey c (128 * sl + 8)) 8) ∧
     (∃ s', exec .munmask s = .next s' ∧ s'.msk c sl = false ∧ s'.inh c sl = s.inh c sl ∧ s'.thread c sl = some (passed s t 8) ∧
       MemBut s s' (winKey c (128 * sl + 8)) 8) ∧
     (∃ s', exec .mwait s = .next s' ∧ Turns s s' { t with wait := .msg }) ∧
     (s.inh c sl = false → exec .mret s = .next (takeTrap s c sl 0x07 0)) ∧
     (s.inh c sl = true → goodTarget (s.shadow c sl 0x10) → closeTo s c sl t (t.mdepth - 2) = .ok s1 → Tidy s1 →
       s1.shadow c sl 0x18 = s.shadow c sl 0x18 → (∃ u, s1.thread c sl = some u) →
       ∃ s' u, exec .mret s = .next s' ∧ s'.inh c sl = false ∧ s'.thread c sl = some u ∧ u.pc = s.shadow c sl 0x10 ∧
         u.flags = ⟨(s.shadow c sl 0x18).getLsbD 3, (s.shadow c sl 0x18).getLsbD 2, (s.shadow c sl 0x18).getLsbD 1, (s.shadow c sl 0x18).getLsbD 0⟩ ∧
         u.repcnt = (s.shadow c sl 0x18).toNat / 2 ^ 8 % 128)) ∧
  (∀ (c sl : Nat) (s : State) (t : Thread), Tidy s → s.thread c sl = some t → s.msk c sl = true → t.overran = false → t.kernel = false →
     t.halted = false → 256 < s.ckOf c - t.maskAt →
     (reentered s c t = false → t.wait ≠ .msg → exec (.messageMaskOverrun c sl) s = .next s) ∧
     (reentered s c t = true ∨ t.wait = .msg → ∃ s' u, exec (.messageMaskOverrun c sl) s = .next s' ∧ s'.thread c sl = some u ∧ u.kernel = true ∧ u.overran = true ∧
       (s'.slot c sl).trapcause = 0x11 ∧ (s'.slot c sl).trappc = t.pc ∧ s'.mem = s.mem))

/-- R44, R170: delivery, where it is due and the handler base is good, opens a frame, puts the message into W0 to W3, saves where
to resume, sets INH and goes to the vector of the code; a bad handler base takes the protection fault and the message stays
held. -/
def Obligations.MessageDelivered : Prop :=
  ∀ (c sl : Nat) (s s1 : State) (t t1 : Thread) (m : Msg) (l : List Msg),
    s.thread c sl = some t → t.held = m :: l → deliverable s c sl t = true → atDelivery t.wait = true → c < Config.nCores → sl < 16 →
    let h := s.hvec c sl
    let back := match t.wait with | .msg => t.pc + 8 | .sleep _ => t.pc + 8 | _ => t.pc
    let at_ (o : Nat) := winKey c (128 * sl + o)
    (h ≠ 0 → h.toNat % 32 = 0 → canonical h = true → openFrame (setWait s c sl .none) c sl 0 = .ok s1 → Tidy s1 →
      s1.thread c sl = some t1 → 0x1000 ≤ t1.wp → t1.pend = 0 → m.code < 65536 →
      ∃ s' u, exec (.messageDelivery c sl) s = .next s' ∧ s'.thread c sl = some u ∧
        u.pc = h + BitVec.ofNat 64 (32 * (m.code % 8)) ∧ u.held = l ∧ u.flags = ⟨false, false, false, false⟩ ∧ u.repcnt = 0 ∧
        u.rmode = t1.rmode ∧ u.vl = t1.vl ∧ u.iflags = t1.iflags ∧
        s'.w64 (winKey c t1.wp) = m.pay ∧ s'.w64 (winKey c (t1.wp + 8)) = m.src ∧
        s'.w64 (winKey c (t1.wp + 16)) = BitVec.ofNat 64 m.code ∧ s'.w64 (winKey c (t1.wp + 24)) = m.stime ∧
        s'.w64 (at_ 0x10) = back ∧ s'.w64 (at_ 0x20) = m.src ∧ s'.w64 (at_ 0x28) = m.stime ∧ s'.w64 (at_ 0x30) = m.pay ∧
        s'.w64 (at_ 0x38) = BitVec.ofNat 64 m.code ∧ s'.inh c sl = true) ∧
    (h = 0 ∨ h.toNat % 32 ≠ 0 ∨ canonical h = false → Tidy s →
      ∃ s' u, exec (.messageDelivery c sl) s = .next s' ∧ s'.thread c sl = some u ∧ u.held = t.held ∧ u.kernel = true ∧
        (s'.slot c sl).trapcause = 0x07 ∧ (s'.slot c sl).trapinfo = h ∧ (s'.slot c sl).trappc = back ∧ s'.inh c sl = false)

/-! Vector instructions. -/

/-- R173, R177, R180, R227: a vector instruction whose operands pass their checks goes into its core's pipe, or into the queue
behind it, with its operands as read, its length and its rounding mode; the thread leaves the rotation at its PC and memory is unchanged.
R178: an operand that does not start in the issuing core's own data banks takes the protection fault, cause 0x07, with its
number and REASON 1 in TRAPINFO, here for the destination of every two-source form. -/
def Obligations.VectorIssue : Prop :=
  (∀ (o : VOps) (c : Cond) (arr msk pat8 : Bool) (m : BitVec 12) (d a e : WReg) (km1 : BitVec 16) (rowsM1 : BitVec 7) (s : State) (t : Thread),
     ∀ i ∈ ([.vmov o, .vadd o, .vsub o, .vmul o, .vdiv o, .vmin o, .vmax o, .vfma o, .vand o, .vor o, .vxor o, .vshl o, .vshr o, .vsar o,
       .vabs o, .vneg o, .vsqrt o, .vrcp o, .vrsqrt o, .vexp o, .vlog o, .vtanh o, .vsigm o, .vcmp c o, .vsel o, .vred arr msk o,
       .vredmax arr msk o, .vredmin arr msk o, .vdot arr o, .vsmax m o, .vsmaxf m o, .mcomp pat8 d a e km1 rowsM1] : List Instr),
     ∀ (f : VForm) (pd pa pb : VOp), vForm i = some f →
       Ready s t (f.d :: (if f.useA then [f.a] else []) ++ (if f.useB then [f.b] else [])) →
       let k := s.core s.cur.core
       let D := opnd s t f.d
       let A := if f.useA then opnd s t f.a else 0
       let B := if f.useB then opnd s t f.b else 0
       let n := match f.x.immvl with | some v => v.toNat | none => t.vl
       k.vq = none → placeOps s s.cur.core f D A B n = .ok (pd, pa, pb) →
       ∃ s' v, exec i s = .next s' ∧ s'.thread s.cur.core s.cur.slot = some { t with wait := .vector } ∧ s'.mem = s.mem ∧
         v.i = i ∧ v.tid = s.tid s.cur.core s.cur.slot ∧ v.iaddr = atAddr s t ∧ v.n = n ∧ v.rmode = t.rmode ∧
         v.dv = D ∧ v.av = A ∧ v.bv = B ∧ v.started = false ∧
         (k.vrun = none → (s'.core s.cur.core).vrun = some v ∧ (s'.core s.cur.core).vq = none) ∧
         (k.vrun ≠ none → (s'.core s.cur.core).vrun = k.vrun ∧ (s'.core s.cur.core).vq = some v)) ∧
  (∀ (o : VOps) (c : Cond) (s : State) (t : Thread), Ready s t [o.d, o.a, o.b] → (s.core s.cur.core).vq = none →
     let D := opnd s t o.d
     let base := 0xFF00000000000000 + s.cur.core * 0x80000
     (D.toNat < base + 0x8000 ∨ base + 0x5C000 ≤ D.toNat) →
     ∀ i ∈ ([.vadd o, .vsub o, .vmul o, .vdiv o, .vmin o, .vmax o, .vfma o, .vand o, .vor o, .vxor o, .vshl o, .vshr o, .vsar o,
       .vcmp c o, .vsel o] : List Instr),
       exec i s = .next (takeTrap s s.cur.core s.cur.slot 0x07 (BitVec.ofNat 64 (2 ^ 28 + D.toNat % 2 ^ 19))))

/-- R176, R180-R183: VECTOR_START starts the instruction at the head of a core's pipe, which changes no byte; VECTOR_COMPLETION
makes the writes it computed, lets the queued one up, and its live thread goes on past it with the address registers advanced,
or where its record has it go on if it was spilled meanwhile (R183).
R175, R181, R186-R188: an elementwise form on I64 or I32 segments, from its start to its completion, leaves in each destination element the
table's value, modulo 2^64 or 2^32, of the elements as they stood at the start; a broadcast source is its register's low bits. -/
def Obligations.VectorRuns : Prop :=
  (∀ (c sl : Nat) (s : State) (v : VCmd) (f : VForm) (t : Thread), (s.core c).vrun = some v → vForm v.i = some f →
     (v.started = false →
       ∃ s' w, exec (.vectorStart c) s = .next s' ∧ s'.mem = s.mem ∧ s'.slots = s.slots ∧ (s'.core c).vrun = some w ∧
         w = { v with started := true, writes := w.writes, flagsOut := w.flagsOut, poison := w.poison, zOut := w.zOut } ∧
         (s'.core c).vq = (s.core c).vq) ∧
     (v.started = true → v.poison = none → v.rep = none → v.flagsOut = 0 → Tidy s → s.find v.tid = some (c, sl) → s.thread c sl = some t →
       v.adv.Pairwise (fun p q => p.1 ≠ q.1) → (∀ p ∈ v.adv, p.1 < 32) →
       ∃ s' u, exec (.vectorCompletion c) s = .next s' ∧ s'.thread c sl = some u ∧ u.wait = .none ∧
         u.pc = (if v.away then t.pc else v.iaddr + BitVec.ofNat 64 f.len) ∧ u.repcnt = (if v.away then t.repcnt else 0) ∧ (s'.core c).vrun = (s.core c).vq ∧ (s'.core c).vq = none ∧
         (∀ p ∈ v.adv, s'.w64 (winKey c (t.wp + 8 * p.1)) = p.2) ∧
         (∀ j, (∀ p ∈ v.writes, ¬ (p.1 ≤ j ∧ j < p.1 + p.2.length)) →
           (∀ p ∈ v.adv, ¬ (winKey c (t.wp + 8 * p.1) ≤ j ∧ j < winKey c (t.wp + 8 * p.1) + 8)) → byteAt s'.mem j = byteAt s.mem j))) ∧
  (∀ (w c sl do_ ao bo : Nat) (ty : ETy) (o : VOps) (cc : Cond) (s s1 : State) (v : VCmd) (t : Thread),
     w = 64 ∧ ty = .i64 ∨ w = 32 ∧ ty = .i32 →
     let el (x : State) (p j : Nat) : BitVec w := BitVec.ofNat w (natAt x.mem (winKey c (p + w / 8 * j)) (w / 8))
     let holds (x y : BitVec w) : Bool :=
       match cc with
       | .eq => x == y | .ne => x != y | .vc => true | .ge => y.sle x | .lt => x.slt y | .gt => y.slt x | .le => x.sle y | _ => false
     ∀ p ∈ ([
       (.vmov o, false, fun _ a _ => a), (.vadd o, true, fun _ a b => a + b), (.vsub o, true, fun _ a b => a - b),
       (.vmul o, true, fun _ a b => a * b), (.vdiv o, true, fun _ a b => if b = 0 then 0 else a.sdiv b),
       (.vmin o, true, fun _ a b => if a.slt b then a else b), (.vmax o, true, fun _ a b => if a.slt b then b else a),
       (.vfma o, true, fun d a b => a * b + d), (.vand o, true, fun _ a b => a &&& b), (.vor o, true, fun _ a b => a ||| b),
       (.vxor o, true, fun _ a b => a ^^^ b), (.vshl o, true, fun _ a b => a <<< (b.toNat % w)),
       (.vshr o, true, fun _ a b => a >>> (b.toNat % w)), (.vsar o, true, fun _ a b => a.sshiftRight (b.toNat % w)),
       (.vabs o, false, fun _ a _ => if a.slt 0 then 0 - a else a), (.vneg o, false, fun _ a _ => 0 - a),
       (.vcmp cc o, true, fun _ a b => if holds a b then 1 else 0), (.vsel o, true, fun d a b => if d = 0 then b else a)]
         : List (Instr × Bool × (BitVec w → BitVec w → BitVec w → BitVec w))),
     Tidy s → s.poison = [] → c < Config.nCores → (s.core c).vrun = some v → v.started = false → v.i = p.1 →
     v.adv = [] → v.rep = none → s.find v.tid = some (c, sl) → s.thread c sl = some t →
     fTy v.fd = ty → ownBank c v.dv = some do_ →
     (o.x.bca = false → fTy v.fa = ty ∧ ownBank c v.av = some ao) →
     (p.2.1 = true → o.x.bcb = false → fTy v.fb = ty ∧ ownBank c v.bv = some bo) →
     exec (.vectorStart c) s = .next s1 →
     ∃ s2, exec (.vectorCompletion c) s1 = .next s2 ∧
       ∀ j, j < v.n →
         let a := if o.x.bca then BitVec.ofNat w v.av.toNat else el s ao j
         let b := if o.x.bcb then BitVec.ofNat w v.bv.toNat else el s bo j
         el s2 do_ j = p.2.2 (el s do_ j) a b)

/-! Copies and tags. -/

/-- R191, R194: MTC writes one register of the slot's copy control set and sets ARM; MFC reads one, or ARM.
R204: CSTAT gives a transfer's state: 0xF for an identifier that is no transfer of this core, else 0 to 3 by the tag. -/
def Obligations.CopySetAndStatus : Prop :=
  (∀ (c : Fin 8) (g : Fin 9) (d a : WReg) (s : State) (t : Thread), Tidy s → Issues s t →
     let x := s.slot s.cur.core s.cur.slot
     (Ready s t [a] → ∃ s' y, exec (.mtc c a) s = .next s' ∧ OnlySlot s s' ∧ s'.mem = s.mem ∧
       s'.slot s.cur.core s.cur.slot = { x with cset := y, thread := some (passed s t 8) } ∧
       csetWords y = (csetWords x.cset).set c.val (opnd s t a) ∧ y.arm = true) ∧
     (Dst s t d → ∃ s', exec (.mfc d g) s = .next s' ∧
       Sets s s' t d ((csetWords x.cset ++ [BitVec.ofNat 64 (bitNat x.cset.arm)]).getD g.val 0) (passed s t 8))) ∧
  (∀ (d a : WReg) (s : State) (t : Thread), Tidy s → Ready s t [a] → Dst s t d → s.cur.core < 2048 →
     let A := opnd s t a
     let g := s.tag s.cur.core (A.toNat % 64)
     let mine := A.toNat / 2 ^ 60 = 0xB ∧ A.toNat / 2 ^ 49 % 2 ^ 11 = s.cur.core ∧ A.toNat / 2 ^ 32 % 2 ^ 16 = g.gen
     ∃ s' v, exec (.cstat d a) s = .next s' ∧ Sets s s' t d v (passed s t 8) ∧
       (¬ mine → v = 0xF000000000000000) ∧
       (mine → v.toNat / 2 ^ 60 % 4 = (if g.lnd then (if g.ended then 3 else 2) else if g.rel then 1 else 0) ∨ 256 ≤ g.cause))

/-- R195-R197: CLAUNCH of a disarmed set writes 1, with no tag free 2; else its checked set becomes a copy of the core's cluster, in the
lowest free tag, whose identifier Wd receives; a set that fails a check faults. Here the set has no follow-on. -/
def Obligations.CopyLaunch : Prop :=
  ∀ (d : WReg) (s : State) (t : Thread), Tidy s → Issues s t → Dst s t d →
    let c := s.cur.core
    let x := (s.slot c s.cur.slot).cset
    let id := s.tid c s.cur.slot
    let u := passed s t 8
    (x.arm = false → ∃ s', exec (.claunch d) s = .next s' ∧ Sets s s' t d 1 u) ∧
    (∀ cause reason code, x.arm = true → copyCheck s (s.tenantOf c) x = .error (cause, reason, code) →
      exec (.claunch d) s = .next (takeTrap s c s.cur.slot cause (BitVec.ofNat 64 (reason * 2 ^ 28 + code * 2 ^ 24)))) ∧
    (∀ w, x.arm = true → copyCheck s (s.tenantOf c) x = .ok w → x.foll = false → freeTag s c id = none →
      ∃ s', exec (.claunch d) s = .next s' ∧ Sets s s' t d 2 u) ∧
    (∀ w g, x.arm = true → copyCheck s (s.tenantOf c) x = .ok w → x.foll = false → freeTag s c id = some g → c < 2048 → g < 64 →
      x.ord.ord = .none →
      ∃ s' k, exec (.claunch d) s = .next s' ∧ s'.eng.copies = s.eng.copies ++ [k] ∧ k.core = c ∧ k.tag = some g ∧ k.tid = id ∧
        k.cset = x ∧ k.stage = 0 ∧ k.prog = 0 ∧ k.engine < 4 ∧
        (s'.tag c g).owner = some id ∧ (s'.tag c g).rel = false ∧ (s'.tag c g).lnd = false ∧
        (s'.tag c g).gen = ((s.tag c g).gen + 1) % 65536 ∧
        opnd s' t d = BitVec.ofNat 64 (0xB * 2 ^ 60 + c * 2 ^ 49 + (s'.tag c g).gen * 2 ^ 32 + t.bn % 65536 * 65536 + g) ∧
        s'.thread c s.cur.slot = some { u with pend := t.pend &&& ~~~(BitVec.ofNat 32 (2 ^ d.val)),
                                               openBatch := t.openBatch ++ [64 * (s'.tag c g).gen + g] } ∧
        MemBut s s' (winKey c (t.wp + 8 * d.val)) 8)

/-- R203: HALO arrives at its barrier as BARR.REL.CLU does, then takes a tag as CLAUNCH does (Wd 1 where the set is disarmed, 2
where no tag is free) and its exchange waits for the phase; HALO_COPY reads the neighbours' borders once the phase is complete.
R26, R198, R201: the events of a copy, here of one row of at most 512 bytes moved as bytes, whose pages stand and where no pending register's
word lies: COPY_START reads every source byte, COPY_RELEASED says so in the tag, COPY_LANDED has written them all, sets the tag landed and
ends the copy. The rules leave the moments between open: that the halo and the copy hold what they have read until the landing, which
writes all of it, is the model's choice (log 46). -/
def Obligations.CopiesAndHalos : Prop :=
  (∀ (d a b : WReg) (gx gy : BitVec 4) (wrap : Bool) (s s1 : State) (t u : Thread) (k : Nat) (rec : BarRec), Ready s t [a, b] → Dst s t d →
     let c := s.cur.core
     let x := (s.slot c s.cur.slot).cset
     let area := (gx.toNat + 1) * (gy.toNat + 1)
     let q := (opnd s t b).toNat % 65536
     area ≤ 16 → c % 16 < area → barArrive (opnd s t a) q 0 ⟨.rel, .clu⟩ s = .ok ((k, rec), s1) → Follows s s1 u →
     u.pends d.val = false →
     (x.arm = false → ∃ s' v, exec (.halo d a b gx gy wrap) s = .next s' ∧ opnd s' u d = 1 ∧ s'.thread c s.cur.slot = some v ∧
       v = { passed s1 u 16 with wait := .reply, pend := v.pend }) ∧
     (∀ fd, x.arm = true → haloCheck s c x = .ok fd → freeTag s1 c (s1.tid c s.cur.slot) = none →
       ∃ s', exec (.halo d a b gx gy wrap) s = .next s' ∧ opnd s' u d = 2 ∧ s'.eng.copies = s1.eng.copies) ∧
     (∀ fd g, x.arm = true → haloCheck s c x = .ok fd → freeTag s1 c (s1.tid c s.cur.slot) = some g →
       ∃ s' y, exec (.halo d a b gx gy wrap) s = .next s' ∧ s'.eng.copies = s1.eng.copies ++ [y] ∧ y.core = c ∧ y.tag = some g ∧
         y.cset = x ∧ y.halo = some (gx.toNat + 1, gy.toNat + 1, wrap, k, q, x.hw)) ∧
     (∀ (id : Nat) (y : Copy) (gx' gy' q' h : Nat) (wr' : Bool) (key : Nat), s.eng.copies.find? (fun k => k.id == id) = some y →
       y.halo = some (gx', gy', wr', key, q', h) → y.stage = 0 → y.paused = false → y.fault = none → y.cset.step = 0 →
       waitDone (barAt s key).ph q' = true → (haloRead s y (haloRows y gx' gy' h wr')).2 = none →
       ∃ s' z, exec (.haloCopy id) s = .next s' ∧ s'.mem = s.mem ∧ s'.eng.copies.find? (fun k => k.id == id) = some z ∧
         z = { y with stage := 1, data := z.data, started := true })) ∧
  (∀ (id n sk dk : Nat) (s : State) (k : Copy),
     s.eng.copies.find? (fun c => c.id == id) = some k → k.halo = none → k.paused = false → k.fault = none → k.packet = none →
     k.follow = none → k.cset.step = 0 → k.cset.bar = false → k.raw = true → k.cset.rows = 1 → k.cset.cols = n → 1 ≤ n → n ≤ 512 →
     (k.stage = 0 → k.prog = 0 → copyFirst s k = true → (s.core k.core).wbuf = [] → leftBy s k.tid = [] → copyOverlaps s k = false →
       readUpto s k.ctx k.cset.csrc n = ([(sk, n)], none) →
       ∃ s' y, exec (.copyStart id) s = .next s' ∧ s'.mem = s.mem ∧ s'.eng.copies.find? (fun c => c.id == id) = some y ∧
         y = { k with stage := 1, started := true, data := [(k.cset.cdst.toNat, (List.range n).map (fun i => byteAt s.mem (sk + i)))] }) ∧
     (∀ bs, k.stage = 1 → k.prog = 0 → k.data = [(k.cset.cdst.toNat, bs)] → bs.length = n →
       piecesUpto s k.ctx .write (pieceFuel n) k.cset.cdst n = ([(dk, n)], none) → ∃ s' y, exec (.copyReleased id) s = .next s' ∧ s'.mem = s.mem ∧
       s'.eng.copies.find? (fun c => c.id == id) = some y ∧ y = { k with stage := 2 } ∧
       (∀ g, k.tag = some g → (s.tag k.core g).owner = some k.tid → (s'.tag k.core g).rel = true)) ∧
     (∀ bs, k.stage = 2 → k.prog = 0 → k.raced = [] → Tidy s → k.data = [(k.cset.cdst.toNat, bs)] → bs.length = n →
       piecesUpto s k.ctx .write (pieceFuel n) k.cset.cdst n = ([(dk, n)], none) → piecesWait s [(dk, n)] = false → NoPending s dk n →
       ∃ s', exec (.copyLanded id) s = .next s' ∧ (∀ i, i < n → byteAt s'.mem (dk + i) = bs.getD i 0) ∧
         (∀ j, j < dk ∨ dk + n ≤ j → byteAt s'.mem j = byteAt s.mem j) ∧
         (∀ c ∈ s'.eng.copies, c.id ≠ id) ∧ (∀ g, k.tag = some g → (s.tag k.core g).owner = some k.tid → (s.tag k.core g).orphan = false →
           (s'.tag k.core g).lnd = true ∧ (s'.tag k.core g).prog = n)))

/-- R199: a tag wait returns the named tags that have landed, or been released for a .SRC form, when any or all have, and else leaves the
rotation; TFFR writes the lowest, or 64, at once.
R200: CSEAL seals an open batch that is not empty; CWAITN n and CWAITN.SRC n pass once at most n sealed batches are unfinished and
else leave the rotation. -/
def Obligations.TagWaitsAndBatches : Prop :=
  (∀ (src : Bool) (d a : WReg) (s : State) (t : Thread), Tidy s → Ready s t [a] → Dst s t d →
     let c := s.cur.core
     let M := opnd s t a
     let up (g : Nat) : Bool := M.getLsbD g && (if src then (s.tag c g).rel else (s.tag c g).lnd)
     let is_ (v : Word) : Prop := ∀ g, g < 64 → v.getLsbD g = up g
     let anyUp := ∃ g, g < 64 ∧ up g = true
     let allUp := ∀ g, g < 64 → M.getLsbD g = true → up g = true
     let all_ : Instr := if src then .twaitallSrc d a else .twaitall d a
     let any_ : Instr := if src then .twaitanySrc d a else .twaitany d a
     let ffr : Instr := if src then .tffrSrc d a else .tffr d a
     let ends (i : Instr) (p : Word → Prop) := ∃ s' u v, exec i s = .next s' ∧ opnd s' t d = v ∧ p v ∧
       s'.thread c s.cur.slot = some u ∧ u = { passed s t 8 with pend := u.pend } ∧ MemBut s s' (winKey c (t.wp + 8 * d.val)) 8
     let waits (i : Instr) := ∃ s', exec i s = .next s' ∧ Turns s s' { t with wait := .tags }
     (allUp → ends all_ is_) ∧ (¬ allUp → waits all_) ∧
     (anyUp ∨ M = 0 → ends any_ is_) ∧ (¬ (anyUp ∨ M = 0) → waits any_) ∧
     (anyUp → ends ffr (fun v => v.toNat < 64 ∧ up v.toNat = true ∧ ∀ g, g < v.toNat → up g = false)) ∧
     (¬ anyUp → ends ffr (fun v => v = 64))) ∧
  (∀ (n : BitVec 4) (s : State) (t : Thread), Issues s t →
     let c := s.cur.core
     let unfinished (src : Bool) := (t.sealed.filter (fun b => !batchOver src s c b)).length
     let waits (i : Instr) := ∃ s', exec i s = .next s' ∧ Turns s s' { t with wait := .tags }
     (t.openBatch = [] → ∃ s', exec .cseal s = .next s' ∧ Turns s s' (passed s t 8)) ∧
     (t.openBatch ≠ [] → unfinished false < 16 → ∃ s', exec .cseal s = .next s' ∧
       Turns s s' { passed s t 8 with sealed := t.sealed ++ [t.openBatch], openBatch := [], bn := t.bn + 1 }) ∧
     (t.openBatch ≠ [] → 16 ≤ unfinished false → waits .cseal) ∧
     (unfinished false ≤ n.toNat → ∃ s' u, exec (.cwaitn n) s = .next s' ∧ s'.thread c s.cur.slot = some u ∧ s'.mem = s.mem ∧
       u = { passed s t 8 with sealed := t.sealed.filter (fun b => !batchOver false s c b) }) ∧
     (n.toNat < unfinished false → waits (.cwaitn n)) ∧
     (unfinished true ≤ n.toNat → ∃ s', exec (.cwaitnSrc n) s = .next s' ∧ Turns s s' (passed s t 8)) ∧
     (n.toNat < unfinished true → waits (.cwaitnSrc n)))

/-! Futures. -/

/-- R41, R210: an instruction that reads a pending register leaves the rotation with nothing changed, unless the future is cancelled: then
it takes the read-of-cancelled-future fault, cause 0x0E, with the register's number. A pending destination that has not stopped
makes the write wait. Here for every three-register integer and float form. -/
def Obligations.PendingRegisters : Prop :=
  ∀ (f : FFmt) (d a b : WReg) (s : State) (t : Thread), Issues s t → InPart s [d, a, b] →
    ∀ i ∈ ([.add d a b, .sub d a b, .adc d a b, .sbc d a b, .and d a b, .or d a b, .xor d a b, .andn d a b, .shl d a b, .shr d a b,
      .sar d a b, .ror d a b, .mul d a b, .mulhu d a b, .mulhs d a b, .divu d a b, .divs d a b, .remu d a b, .rems d a b, .minu d a b,
      .mins d a b, .maxu d a b, .maxs d a b, .fadd f d a b, .fsub f d a b, .fmul f d a b, .fdiv f d a b, .fmin f d a b, .fmax f d a b] : List Instr),
      (t.pends a.val = true → (opnd s t a).getLsbD 24 = false →
        ∃ s', exec i s = .next s' ∧ Turns s s' { t with wait := .pendReg a.val }) ∧
      (t.pends a.val = true → (opnd s t a).getLsbD 24 = true →
        exec i s = .next (takeTrap s s.cur.core s.cur.slot 0x0E (BitVec.ofNat 64 a.val))) ∧
      (t.pends a.val = false → t.pends b.val = false → t.pends d.val = true → (opnd s t d).getLsbD 23 = false →
        ∃ s', exec i s = .next s' ∧ Turns s s' { t with wait := .pendWrite d.val })

/-- R208-R211: the future forms, none of which waits but FWAIT. FTEST tells pending 0, complete 1, cancelled 2 and stopped 3; FWAIT waits
while the register is pending and not stopped; FTIME gives the completion time, 0 while pending; FPASS moves a future or a value;
FCANCEL sets CAN of a pending future, here of one that is no sweep's and no application's.
R40, R209, R210: a completion reaches the register its handle stands in, here in a live thread's current frame: the register holds
the value, its PEND bit clears and its completion-time word is TIME; a cancelled future gets STOP and stays pending; a
completion that would come out of the order of one ck falls in a later one (R50). A pair in memory gets the value and 1. -/
def Obligations.Futures : Prop :=
  (∀ (d a b : WReg) (o : BitVec 23) (s : State) (t : Thread), Tidy s → Issues s t → InPart s [d, a, b] →
     let c := s.cur.core
     let A := opnd s t a
     let p := t.pends a.val
     let can := A.getLsbD 24
     let stop := A.getLsbD 23
     let u := passed s t 8
     (Dst s t d → ∃ s', exec (.ftest d a) s = .next s' ∧
       Sets s s' t d (if p = false then 1 else if can = false then 0 else if stop then 3 else 2) u) ∧
     (p = true → stop = false → ∃ s', exec (.fwait a) s = .next s' ∧ Turns s s' { t with wait := .fwait a.val }) ∧
     (p = false ∨ stop = true → ∃ s', exec (.fwait a) s = .next s' ∧ Turns s s' u) ∧
     (Dst s t d → ∃ s', exec (.ftime d a) s = .next s' ∧
       Sets s s' t d (if p then 0 else tget 0 (s.slot c s.cur.slot).ctime a.val) u) ∧
     (d = a → ∃ s', exec (.fpass d a) s = .next s' ∧ Turns s s' u) ∧
     (d ≠ a → t.pends d.val = true → exec (.fpass d a) s = .next (takeTrap s c s.cur.slot 0x01 (BitVec.ofNat 64 (4 + 256 * 16)))) ∧
     (d ≠ a → t.pends d.val = false → p = false → ∃ s', exec (.fpass d a) s = .next s' ∧ Sets s s' t d A u) ∧
     (d ≠ a → t.pends d.val = false → p = true → ∃ s' v, exec (.fpass d a) s = .next s' ∧ opnd s' t d = A ∧ opnd s' t a = 0 ∧
       s'.thread c s.cur.slot = some v ∧ v.pends d.val = true ∧ v.pends a.val = false ∧ v.pc = u.pc ∧ MemButRegs s s' t [d, a]) ∧
     (p = false ∨ can = true → ∃ s', exec (.fcancel a) s = .next s' ∧ Turns s s' u) ∧
     (p = true → can = false → A.toNat / 2 ^ 56 % 16 ∉ [3, 4] → ∃ s' v, exec (.fcancel a) s = .next s' ∧
       opnd s' t a = A ||| BitVec.ofNat 64 (2 ^ 24) ∧ s'.thread c s.cur.slot = some v ∧ v.pc = u.pc ∧ v.pends a.val = true) ∧
     (∀ s1 k, Ready s t [b] → locate .write (A + o.signExtend 64) 16 16 s = .ok (k, s1) → owned c k = true → k < winKey c 0x5C000 →
       NoPending s1 k 16 →
       ∃ s', exec (.fpassMem a o b) s = .next s' ∧ s'.thread c s.cur.slot = some u ∧ MemStored s s' t [] k 16 ((opnd s t b).toNat + 2 ^ 64))) ∧
  (∀ (n r c sl : Nat) (k : Nat) (tid : Word) (d : Done) (f : Fut) (s : State) (t : Thread),
     Tidy s → s.eng.dones[n]? = some d → s.fut d.h = some f → (∀ j, ∀ e ∈ (s.core j).wbuf, match e with | .store _ _ _ _ h => h = false | .fence _ _ _ => True) →
     (f.loc = .reg tid (some (t.depth - 1)) r → c < Config.nCores → sl < 16 → r < 32 → s.find tid = some (c, sl) → s.thread c sl = some t →
       t.kernel = false → 1 ≤ t.depth → t.pends r = true → frameKey s c sl t (t.depth - 1) t.wp (8 * r) = some (winKey c (t.wp + 8 * r)) →
       (s.tooLate c t 3 = true → exec (.futureCompletion n) s = .next s) ∧
       (s.tooLate c t 3 = false → f.can = false → d.stopped = false → ∃ s' u, exec (.futureCompletion n) s = .next s' ∧
         s'.w64 (winKey c (t.wp + 8 * r)) = d.v ∧ s'.thread c sl = some u ∧
         u = { t with pend := t.pend &&& ~~~(BitVec.ofNat 32 (2 ^ r)), evCk := u.evCk, evPlace := u.evPlace } ∧
         (s'.slot c sl).ctime = tset 0 (s.slot c sl).ctime r s.time ∧ s'.eng.dones.length + 1 = s.eng.dones.length) ∧
       (s.tooLate c t 3 = false → f.can = true ∨ d.stopped = true → ∃ s' u, exec (.futureCompletion n) s = .next s' ∧
         s'.w64 (winKey c (t.wp + 8 * r)) = s.w64 (winKey c (t.wp + 8 * r)) ||| BitVec.ofNat 64 (2 ^ 23) ∧ s'.thread c sl = some u ∧
         u = { t with evCk := u.evCk, evPlace := u.evPlace })) ∧
     (f.loc = .pair k tid → s.exists tid = true → f.can = false → d.stopped = false →
       ∃ s', exec (.futureCompletion n) s = .next s' ∧ s'.w64 k = d.v ∧ s'.w64 (k + 8) = 1))

/-! The matrix array. -/

/-- R215-R219, R223: MCFG and MZERO that pass their checks go into the array queue and wait; MMA and MMAS leave a future of source kind 1 or
2 in Wd and go on; a failed check faults with REASON and OPND; a full queue makes each wait. MSTAT reads a tile's descriptor, MPROG the
row progress. -/
def Obligations.MatrixIssue : Prop :=
  ∀ (keep pat8 sc pp : Bool) (tl : Fin 4) (d a : WReg) (o : MOps) (r : OrdScope) (s : State) (t : Thread), Tidy s → Issues s t →
    let c := s.cur.core
    let sl := s.cur.slot
    let n := cluOf c
    let D := s.tile n tl.val
    let full := arrTaken (s.clu n)
    let fault (e : Nat × Nat × Nat) := Host.Outcome.next (φ := Fault) (ρ := Refusal) (takeTrap s c sl e.1 (BitVec.ofNat 64 (e.2.1 * 2 ^ 28 + e.2.2 * 2 ^ 24)))
    let queued (i : Instr) (v : Word) := ∃ s' q, exec i s = .next s' ∧ s'.mem = s.mem ∧ s'.thread c sl = some { t with wait := .array } ∧
      (s'.clu n).arrQ = (s.clu n).arrQ ++ [q] ∧ q.i = i ∧ q.core = c ∧ q.slot = sl ∧ q.tid = s.tid c sl ∧ q.av = v
    let waits (i : Instr) := ∃ s', exec i s = .next s' ∧ Turns s s' { t with wait := .arrayFull }
    (Ready s t [a] → ∀ x, mcfgCheck s n tl.val (opnd s t a) = some x → exec (.mcfg keep tl a r) s = fault x) ∧
    (Ready s t [a] → mcfgCheck s n tl.val (opnd s t a) = none →
      (full = false → queued (.mcfg keep tl a r) (opnd s t a)) ∧ (full = true → waits (.mcfg keep tl a r))) ∧
    (D.getLsbD 63 = false → exec (.mzero tl r) s = fault (0x07, 1, 4)) ∧
    (D.getLsbD 63 = true → (full = false → queued (.mzero tl r) 0) ∧ (full = true → waits (.mzero tl r))) ∧
    (∀ p ∈ ([(.mma sc pp o r, ⟨o, sc, pp, false, false, r⟩, 1, sc), (.mmas pat8 o r, ⟨o, false, false, true, pat8, r⟩, 2, true)] : List (Instr × MmaOp × Nat × Bool)),
      Ready s t ([o.a, o.b, o.e] ++ (if p.2.2.2 then [o.f] else [])) → Dst s t o.d →
      let F := if p.2.2.2 then opnd s t o.f else 0
      let bad := mmaCheck s (s.tenantOf c) n p.2.1 (opnd s t o.a) (opnd s t o.b) (opnd s t o.e) F
      let seq := (s.slot c sl).seq
      let h : Word := BitVec.ofNat 64 (0xF * 2 ^ 60 + p.2.2.1 * 2 ^ 56 + c * 2 ^ 45 + sl * 2 ^ 41 + seq % 65536 * 2 ^ 25)
      (∀ x, bad = some x → exec p.1 s = fault x) ∧
      (bad = none → full = true → waits p.1) ∧
      (bad = none → full = false → ∃ s' u q, exec p.1 s = .next s' ∧ opnd s' t o.d = h ∧ s'.thread c sl = some u ∧
        u = { passed s t 16 with pend := t.pend ||| BitVec.ofNat 32 (2 ^ o.d.val) } ∧ (s'.slot c sl).seq = (seq + 1) % 65536 ∧
        (s'.clu n).arrQ = (s.clu n).arrQ ++ [q] ∧ q.i = p.1 ∧ q.h = h ∧ q.rmode = t.rmode ∧ q.av = opnd s t o.a ∧ q.bv = opnd s t o.b ∧
        q.ev = opnd s t o.e ∧ q.fv = F ∧ (q.fa, q.fb) = mmaFmts s (s.tenantOf c) p.2.1 (opnd s t o.a) (opnd s t o.b) ∧ MemBut s s' (winKey c (t.wp + 8 * o.d.val)) 8)) ∧
    (Dst s t d → (∃ s', exec (.mstat d tl) s = .next s' ∧ Sets s s' t d D (passed s t 8)) ∧
      (∃ s', exec (.mprog d) s = .next s' ∧
        Sets s s' t d (match (s.clu n).arr with | some x => if x.paused then (s.clu n).mprog ||| 32 else (s.clu n).mprog | none => (s.clu n).mprog)
          (passed s t 8)))

/-- R25, R216, R218, R221: the array takes the head of its queue; a block of 16 rows is written in row-major order and counted; MCFG's end
sets the descriptor with VALID and clears the tile, or keeps its first bytes with KEEP, MZERO's end clears it, and both let their thread
pass; the end of a multiply-accumulate completes its future with STATE 1 and the rows written. -/
def Obligations.ArrayRuns : Prop :=
  ∀ (n : Nat) (s s1 : State), Tidy s →
    let x := s.clu n
    (∀ q l, x.arr = none → x.arrQ = q :: l → (s.core q.core).wbuf = [] → leftBy s q.tid = [] →
      (match q.i with
        | .mcfg keep _ _ _ => keep = false
        | .mzero _ _ => True
        | i => ∃ m row, mmaOf i = some m ∧ mmaRow s (s.tenantOf q.core) m (q.fa, q.fb) q.av q.bv (s.tile n q.tileNo) = .ok row ∧ shareInBank (s.tile n q.tileNo) = true) →
      ∃ s' y, exec (.arrayCommandStart n) s = .next s' ∧ s'.mem = s.mem ∧ (s'.clu n).arr = some y ∧ (s'.clu n).arrQ = l ∧
        y.cmd = q ∧ y.desc = s.tile n q.tileNo ∧ y.rows = 0 ∧ y.paused = false ∧ y.ended = none ∧ y.cancel = false) ∧
    (∀ y m row b, x.arr = some y → mmaOf y.cmd.i = some m → y.paused = false → y.cancel = false → y.again = false → y.ended = none →
      let M := dM y.desc
      let N := dN y.desc
      let hi := min (y.rows + 16) M
      let out := blockOut row y.cmd.rmode b y.rows M N (List.replicate (hi - y.rows) (List.replicate N none))
      y.rows < M → rowOf m.sc m.pp m.sparse (fTy y.cmd.fa) (fTy y.cmd.fb) = .ok row → readBlock s n y m y.rows hi = (.ok b, s1) →
      s1.mem = s.mem → s1.slots = s.slots → s1.clus = s.clus → m.o.acc = false → shareInBank y.desc = true → M ≤ 128 →
      out.1.length = (hi - y.rows) * N → (s.find y.cmd.tid).isSome = true →
      ∃ s' z, exec (.rowBlockWrite n) s = .next s' ∧ (s'.clu n).arr = some z ∧ z = { y with rows := hi } ∧
        tileBytes s' n y.desc y.rows hi = out.1.flatMap (leBytes (dSz y.desc)) ∧
        (∀ k, (∀ i, y.rows ≤ i → i < hi → k < rowKey n y.desc i ∨ rowKey n y.desc i + N * dSz y.desc ≤ k) → byteAt s'.mem k = byteAt s.mem k)) ∧
    (∀ y c sl (t : Thread), x.arr = some y → s.find y.cmd.tid = some (c, sl) → s.thread c sl = some t → t.wait = .array →
      let goes (s' : State) := (s'.clu n).arr = none ∧ s'.thread c sl = some { t with pc := t.pc + 8, wait := .none }
      (∀ keep tl a r, y.cmd.i = .mcfg keep tl a r →
        let D := y.cmd.av ||| BitVec.ofNat 64 (2 ^ 63)
        let k := dM D * (dN D * dSz D)
        shareInBank D = true →
        ∃ s', exec (.arrayCommandEnd n) s = .next s' ∧ goes s' ∧ s'.tile n tl.val = D ∧
          tileBytes s' n D 0 (dM D) = y.img.take k ++ List.replicate (k - y.img.length) 0) ∧
      (∀ tl r, y.cmd.i = .mzero tl r → shareInBank y.desc = true → dValid y.desc = true →
        ∃ s', exec (.arrayCommandEnd n) s = .next s' ∧ goes s' ∧
          tileBytes s' n y.desc 0 (dM y.desc) = List.replicate (dM y.desc * (dN y.desc * dSz y.desc)) 0)) ∧
    (∀ y m, x.arr = some y → mmaOf y.cmd.i = some m → y.ended = none → y.cancel = false → dM y.desc ≤ y.rows → y.cmd.h ≠ 0 → x.arrWait = [] →
      ∃ s', exec (.arrayCommandEnd n) s = .next s' ∧ s'.mem = s.mem ∧ (s'.clu n).arr = none ∧
        s'.eng.dones = s.eng.dones ++ [⟨y.cmd.h, BitVec.ofNat 64 (2 ^ 60 + y.rows * 2 ^ 40), false⟩])

/-! Sweeps. -/

/-- R233, R241, R243, R246: SWEEP with its operands goes to the Mint and waits; SWSTAT gives the status of the sweep whose handle stands in a
pending register, the last one of a sweep that is over, or STATE 15; SWCANCEL makes a running sweep with bodies cancelling; a count of SWMERGE outside 1 to 65,536 is out of range.
R84, R246: merging slots reads the present ones, combines them and stores the result at its destination; one slot is its own result, two
give their sum, and an integer sum saturates and raises overflow. -/
def Obligations.SweepForms : Prop :=
  (∀ (ty : STy) (arr res : Bool) (d a b e f : WReg) (k : KReg) (seg : Seg) (cl0 ncl : BitVec 7) (r : OrdScope) (s : State) (t : Thread), Tidy s → Issues s t →
     let c := s.cur.core
     let sl := s.cur.slot
     let i : Instr := .sweep ty arr res d a k e f seg cl0 ncl r
     let v := opnd s t a
     let held := t.pends a.val = true ∧ v.toNat / 2 ^ 56 = 0xF3
     let handle : Word := BitVec.ofNat 64 (v.toNat / 2 ^ 25 * 2 ^ 25)
     let named (w : Sweep) := held ∧ s.eng.sweeps.find? (fun x => x.h == handle) = some w
     let ended (x : Word) := held ∧ (∀ w, ¬ named w) ∧ s.eng.swept.find? (fun p => p.1 == handle) = some (handle, x)
     let count (x n : Nat) := ((List.range n).filter (fun j => x.testBit j)).length
     let st (w : Sweep) : Word := BitVec.ofNat 64 (w.state * 2 ^ 60 + w.cause * 2 ^ 52 + bitNat w.ssaf * 2 ^ 51 + count w.delivered w.nt * 2 ^ 34
       + count w.completed w.nt * 2 ^ 17 + w.failed)
     (Ready s t [a, e, f] → Dst s t d → ∃ s', exec i s = .next s' ∧ s'.mem = s.mem ∧ s'.thread c sl = some { t with wait := .sweep } ∧
       s'.eng.sweepReqs = s.eng.sweepReqs ++ [⟨c, sl, s.tid c sl, i, opnd s t a, opnd s t e, opnd s t f⟩]) ∧
     (InPart s [d, a] → Dst s t d →
       (∀ w, named w → ∃ s', exec (.swstat d a) s = .next s' ∧ Sets s s' t d (st w) (passed s t 8)) ∧
       (∀ x, ended x → ∃ s', exec (.swstat d a) s = .next s' ∧ Sets s s' t d x (passed s t 8)) ∧
       ((∀ w, ¬ named w) → (∀ x, ¬ ended x) → ∃ s', exec (.swstat d a) s = .next s' ∧ Sets s s' t d 0xF000000000000000 (passed s t 8))) ∧
     (InPart s [a] →
       (∀ w, named w → s.sweep w.id = some w → w.state = 0 → w.bodies ≠ [] → ∃ s', exec (.swcancel a) s = .next s' ∧ s'.mem = s.mem ∧
         s'.thread c sl = some (passed s t 8) ∧ s'.sweep w.id = some { w with state := 4 }) ∧
       ((∀ w, ¬ named w) → ∃ s', exec (.swcancel a) s = .next s' ∧ Turns s s' (passed s t 8))) ∧
     (Ready s t [d, a, b] → (opnd s t b).toNat = 0 ∨ 65536 < (opnd s t b).toNat →
       exec (.swmerge ty arr d a b) s = .next (takeTrap s c sl 0x01 (BitVec.ofNat 64 (4 + 256 * 26)))) ∧
     (∀ s1, Ready s t [d, a, b] → 1 ≤ (opnd s t b).toNat → (opnd s t b).toNat ≤ 65536 →
       mergeSlots ty arr (opnd s t d) (opnd s t a) ((List.range (opnd s t b).toNat).map (fun j => (j, true))) s = .ok ((), s1) →
       exec (.swmerge ty arr d a b) s = .next s1) ∧
     (let n := match ty with | .f64 | .i64 => 8 | .f32 | .i32 => 4
      let merged (i : Instr) (k : Nat) (leaves : List (Option Nat)) :=
        let res := combine (slotAdd ty t.rmode) false 0 leaves
        ∃ s', exec i s = .next s' ∧ MemStored s s' t [] k n (res.1.getD 0) ∧
          s'.thread c sl = some { passed s t 8 with wait := .reply, iflags := t.iflags ||| res.2 }
      ∀ (m kb k : Nat), 1 ≤ m → m ≤ 65536 → s.poison = [] → (s.core c).wbuf = [] → OwnBank s (opnd s t d) n k → NoPending s k n →
        (Ready s t [d, a, b] → (opnd s t b).toNat = m → (∀ j, j < m → OwnBank s (opnd s t a + BitVec.ofNat 64 (n * j)) n (kb + n * j)) →
          merged (.swmerge ty false d a b) k ((List.range m).map (fun j => some (natAt s.mem (kb + n * j) n)))) ∧
        (∀ kh : Nat, Ready s t [d, a] →
          let w (j : Nat) : Word := s.w64 (kh + 8 * j)
          let there (j : Nat) : Bool := (w (8 + (m + 63) / 64 + j / 64)).getLsbD (j % 64)
          (∀ j, j < 8 + 2 * ((m + 63) / 64) → OwnBank s (opnd s t a + BitVec.ofNat 64 (8 * j)) 8 (kh + 8 * j)) →
          (w 0).toNat = m + 2 ^ 17 * (match ty with | .f64 => 0 | .f32 => 1 | .i64 => 6 | .i32 => 7) → (∀ j, 4 ≤ j → j < 8 → w j = 0) → (w 1).toNat % n = 0 →
          (∀ j, j < m → there j = true → OwnBank s (w 1 + BitVec.ofNat 64 (n * j)) n (kb + n * j)) →
          merged (.swmergeSsa d a) k ((List.range m).map (fun j => if there j then some (natAt s.mem (kb + n * j) n) else none)))) ∧
     (∀ h s1, Ready s t [d, a] → ssaWords (opnd s t a) [0, 1, 4, 5, 6, 7] s = .ok (h, s1) →
       let w0 := h.getD 0 0
       let n := w0.toNat % 2 ^ 17
       let code := w0.toNat / 2 ^ 17 % 16
       let good := code ∈ [0, 1, 6, 7] ∧ 1 ≤ n ∧ n ≤ 65536 ∧ w0.toNat / 2 ^ 22 = 0 ∧ ∀ v ∈ h.drop 2, v = 0
       (¬ good → exec (.swmergeSsa d a) s = .next (takeTrap s1 c sl 0x12 (BitVec.ofNat 64 (8 * 2 ^ 28)))) ∧
       (∀ ws s2 s3, good → s1.cur = s.cur → ssaWords (opnd s t a) ((List.range ((n + 63) / 64)).map (fun j => 8 + (n + 63) / 64 + j)) s1 = .ok (ws, s2) →
         mergeSlots (STy.ofCode code) (w0.getLsbD 21) (opnd s t d) (h.getD 1 0)
           ((List.range n).map (fun j => (j, (ws.getD (j / 64) 0).getLsbD (j % 64)))) s2 = .ok ((), s3) →
         exec (.swmergeSsa d a) s = .next s3))) ∧
  ((∀ (ty : STy) (dst base : Word) (l : List (Nat × Bool)) (leaves : List (Option Nat)) (k : Nat) (s s1 s2 : State) (u : Thread),
     let n := match ty with | .f64 | .i64 => 8 | .f32 | .i32 => 4
     let res := combine (slotAdd ty u.rmode) false 0 leaves
     dst.toNat % n = 0 → base.toNat % n = 0 → slotLeaves ty base l s = .ok (leaves, s1) → locate .write dst n n s1 = .ok (k, s2) →
     s1.cur = s.cur → Issues s1 u → Follows s s2 u → owned s.cur.core k = true → NoPending s2 k n →
     ∃ s', mergeSlots ty false dst base l s = .ok ((), s') ∧ MemStored s2 s' u [] k n (res.1.getD 0) ∧
       s'.thread s.cur.core s.cur.slot = some { passed s2 u 8 with wait := .reply, iflags := u.iflags ||| res.2 }) ∧
   (∀ (ty : STy) (md : RMode) (x y : Nat), combine (slotAdd ty md) false 0 [some x] = (some x, 0) ∧
     combine (slotAdd ty md) false 0 [some x, some y] = (some (slotAdd ty md x y).1, (slotAdd ty md x y).2)) ∧
   (∀ (md : RMode) (x y : Word),
     let v := x.toInt + y.toInt
     slotAdd .i64 md x.toNat y.toNat =
       if 2 ^ 63 ≤ v then (2 ^ 63 - 1, 4) else if v < -2 ^ 63 then (2 ^ 63, 4) else ((x + y).toNat, 0)))

/-- R234-R239, R244, R326: a sweep that passes its checks is accepted: its future goes to Wd, its header to its state area, and its thread goes
on; a refused one completes with STATE 2; a failed check faults. A delivered tile lands in a free buffer and has a body whose W registers
tell of it. A tile that waited 4,096 ck is aged. GO of SWSUSP makes every sweep of the tenant suspending. -/
def Obligations.SweepEvents : Prop :=
  ∀ (c sl : Nat) (s : State) (t : Thread), Tidy s → s.thread c sl = some t → c < Config.nCores → sl < 16 →
    (∀ (ty : STy) (arr res : Bool) (d a e f : WReg) (k : KReg) (seg : Seg) (cl0 ncl : BitVec 7) (o : OrdScope) (r : SweepReq),
      s.eng.sweepReqs.find? (fun x => x.core == c && x.slot == sl) = some r → r.core = c → r.slot = sl → r.tid = s.tid c sl → t.wait = .sweep →
      (s.core c).wbuf = [] → leftBy s r.tid = [] → r.i = .sweep ty arr res d a k e f seg cl0 ncl o →
      let s1 : State := { s with eng := { s.eng with sweepReqs := s.eng.sweepReqs.filter (fun x => !(x.core == c && x.slot == sl)) } }
      let n := ncl.toNat + 1
      let found := sweepChecks s1 ⟨s.tenantOf c, t.kernel, c, sl, false⟩ c r ty res k.val t.k[k] seg.val cl0.toNat n
      let h : Word := BitVec.ofNat 64 (0xF3 * 2 ^ 56 + c * 2 ^ 45 + sl * 2 ^ 41 + (s.slot c sl).seq % 65536 * 2 ^ 25)
      let goes (s' : State) := s'.w64 (winKey c (t.wp + 8 * d.val)) = h ∧ s'.thread c sl = some { t with
        wait := .none, pc := t.pc + 16, pend := t.pend ||| BitVec.ofNat 32 (2 ^ d.val) }
      (∀ cause info, found = .error (cause, info) → exec (.sweepAcceptance c sl) s = .next (takeTrap (setWait s1 c sl .none) c sl cause info)) ∧
      (∀ x cause, found = .ok x → refusal s1 c cl0.toNat n t.k[k] = some cause → ∃ s', exec (.sweepAcceptance c sl) s = .next s' ∧ goes s' ∧
        s'.eng.sweeps = s.eng.sweeps ∧ s'.eng.dones = s.eng.dones ++ [⟨h, BitVec.ofNat 64 (2 * 2 ^ 60 + cause * 2 ^ 52), false⟩] ∧
        (h, BitVec.ofNat 64 (2 * 2 ^ 60 + cause * 2 ^ 52)) ∈ s'.eng.swept) ∧
      (∀ x ws, found = .ok x → refusal s1 c cl0.toNat n t.k[k] = none → res = false → x.done = 0 → 1 ≤ dscNt x.desc → (∀ y ∈ s.eng.sweeps, y.id ≠ s.eng.nextId) →
        let len := 64 + 16 * ((dscNt x.desc + 63) / 64)
        resolvePieces (resolveFrom s1 ⟨s.tenantOf c, t.kernel, c, sl, false⟩ .write) (pieceFuel len) r.ssa len = .ok ws →
        ∃ s' w, exec (.sweepAcceptance c sl) s = .next s' ∧ w ∈ s'.eng.sweeps ∧ w.h = h ∧ w.tid = r.tid ∧ w.env = t.k[k] ∧ w.desc = x.desc ∧
          w.state = 0 ∧ w.delivered = 0 ∧ w.completed = 0 ∧ w.failed = 0 ∧ w.cl0 = cl0.toNat ∧ w.ncl = n)) ∧
    (∀ (id tile core n b : Nat) (w : Sweep) (bs : List Byte), s.sweep id = some w → w.pendingTile tile = true → w.roomAt s core = true → core < Config.nCores →
      agedFirst s w tile core = false → (dscKind w.desc = 1 → homedPage s w.tenant (dsc w.desc 0 + wordOf (tile * dscTstr w.desc)) ≠ some false) →
      let fmt := s.fmt core w.seg
      let data := (landTile w.desc tile fmt bs).1
      let lo := winKey core (w.bufOff core b)
      readTile s w tile fmt = .ok bs → landBytes w.desc fmt = some n → w.freeBuf core = some b → (n + 63) / 64 * 64 ≤ w.land core →
      engRouted s w.ctx lo = true → (∀ p ∈ captured s (hdlCore w.env) (hdlEnv w.env), 5 ≤ p.1) → data.length ≤ (n + 63) / 64 * 64 →
      w.bufOff core b + (n + 63) / 64 * 64 ≤ 0x5C000 → w.id = id →
      ∃ s' w' sl' u, exec (.tileDelivery id tile core) s = .next s' ∧ s'.sweep id = some w' ∧ w'.delivered.testBit tile = true ∧
        s.thread core sl' = none ∧ s'.thread core sl' = some u ∧ u.origin = .tile id tile ∧ u.kernel = false ∧
        u.pc = pEntry (s.purse (hdlCore w.env) (hdlEnv w.env) 0) ∧
        s'.w64 (winKey core u.wp) = flatVa core (w.bufOff core b) ∧ s'.w64 (winKey core (u.wp + 24)) = BitVec.ofNat 64 tile ∧
        s'.w64 (winKey core (u.wp + 32)) = s.time ∧ (∀ i, i < data.length → byteAt s'.mem (lo + i) = data.getD i 0)) ∧
    (∀ (id tile : Nat) (w : Sweep), s.sweep id = some w → w.id = id → w.pendingTile tile = true → tile ∉ w.aged → 4096 ≤ s.ckOf w.core - w.pendingAt tile →
      ∃ s', exec (.tileAgePriority id tile) s = .next s' ∧ s'.sweep id = some { w with aged := w.aged ++ [tile] } ∧ s'.mem = s.mem) ∧
    (∀ (tslot : Nat), s.eng.sweeps.Pairwise (fun x y => x.id ≠ y.id) → ∃ s', exec (.swsuspGo tslot) s = .next s' ∧ s'.tr.swtslot = tslot % 64 ∧
      ∀ w ∈ s.eng.sweeps, s.tenId (tslot % 64) ≠ 0 → s.tenantOf w.core = s.tenId (tslot % 64) → w.state = 0 ∨ w.state = 4 → w.bodies ≠ [] →
        { w with state := 5 } ∈ s'.eng.sweeps)

/-! Closures. -/

/-- R250-R252: KDUP copies a current handle and takes a count on its record, or leaves 0 for one that is not current; KDROP releases a count, the
last of which frees the record; KST, KLD and KRELM move a handle to memory, to a register, and out of memory with its count. A full record
takes no count: exhaustion, cause 0x0C. -/
def Obligations.HandleForms : Prop :=
  ∀ (k j : KReg) (a : WReg) (o : BitVec 23) (s s1 : State) (t u : Thread) (m : Nat), Tidy s → Issues s t →
    let c := s.cur.core
    let sl := s.cur.slot
    let H := t.k[k]
    let rc (x : State) (h : Word) := (x.w64 (purseKey (hdlCore h) (hdlEnv h) 1)).toNat / 2 ^ 48
    let rec_ (h : Word) := purseKey (hdlCore h) (hdlEnv h) 0
    let own (h : Word) := hdlCore h = c ∧ hdlCurrent s h = true
    let free := hdlCurrent s t.k[j] = false ∧ hdlRemote c t.k[j] = false
    let opened (writes : Bool) := hdlWord a o writes s = .ok (m, s1) ∧ Follows s s1 u ∧ (writes = true → NoPending s1 m 8)
    let apart (h : Word) := m + 8 ≤ rec_ h ∨ rec_ h + 128 ≤ m
    let v := s1.w64 m
    (k = j → ∃ s', exec (.kdup j k) s = .next s' ∧ Turns s s' (passed s t 8)) ∧
    (k ≠ j → own H → free → rc s H = 65535 → exec (.kdup j k) s = .next (takeTrap s c sl 0x0C (clInfo 6 k.val c (hdlEnv H)))) ∧
    (k ≠ j → own H → free → rc s H < 65535 → ∃ s', exec (.kdup j k) s = .next s' ∧ rc s' H = rc s H + 1 ∧
      s'.thread c sl = some { passed s t 8 with k := t.k.set j H } ∧ MemBut s s' (rec_ H) 128) ∧
    (k ≠ j → hdlCurrent s H = false → hdlRemote c H = false → free → ∃ s', exec (.kdup j k) s = .next s' ∧
      Turns s s' { passed s t 8 with k := t.k.set j 0 }) ∧
    (own H → ∃ s', exec (.kdrop k) s = .next s' ∧ s'.thread c sl = some { passed s t 8 with k := t.k.set k 0 } ∧ MemBut s s' (rec_ H) 128 ∧
      (2 ≤ rc s H → rc s' H = rc s H - 1) ∧
      (rc s H ≤ 1 → hdlCurrent s' H = false ∧ s'.w64 (rec_ H + 8) = 0 ∧ s'.w64 (rec_ H) = BitVec.ofNat 64 (((s.w64 (rec_ H)).toNat % 4096 + 1) % 4096))) ∧
    (opened true → hdlCore H = c → hdlCurrent s1 H = true → rc s1 H < 65535 → apart H → u.k = t.k → ∃ s' u', exec (.kst a o k) s = .next s' ∧
      s'.w64 m = H ∧ rc s' H = rc s1 H + 1 ∧ s'.thread c sl = some u' ∧ u' = { passed s1 u 8 with wait := .reply, pins := u'.pins, views := u'.views } ∧
      (∀ x, (x < m ∨ m + 8 ≤ x) → (x < rec_ H ∨ rec_ H + 128 ≤ x) → byteAt s'.mem x = byteAt s1.mem x)) ∧
    (opened false → v.toNat / 2 ^ 60 = 0xC → v.toNat % 2 ^ 30 = 0 → hdlCore v = c → hdlCurrent s1 v = true → rc s1 v < 65535 →
      hdlCurrent s1 u.k[j] = false → hdlRemote c u.k[j] = false → ∃ s', exec (.kld j a o) s = .next s' ∧ rc s' v = rc s1 v + 1 ∧
      s'.thread c sl = some { passed s1 u 8 with wait := .reply, k := u.k.set j v } ∧ MemBut s1 s' (rec_ v) 128) ∧
    (opened false → v.toNat / 2 ^ 60 ≠ 0xC → hdlCurrent s1 u.k[j] = false → hdlRemote c u.k[j] = false → ∃ s', exec (.kld j a o) s = .next s' ∧
      s'.mem = s1.mem ∧ s'.thread c sl = some { passed s1 u 8 with wait := .reply, k := u.k.set j 0 }) ∧
    (opened true → hdlCore v = c → hdlCurrent s1 v = true → apart v → ∃ s' u', exec (.krelm a o) s = .next s' ∧ s'.w64 m = 0 ∧
      (2 ≤ rc s1 v → rc s' v = rc s1 v - 1) ∧ (rc s1 v ≤ 1 → hdlCurrent s' v = false) ∧
      s'.thread c sl = some u' ∧ u' = { passed s1 u 8 with wait := .reply, pins := u'.pins, views := u'.views } ∧
      (∀ x, (x < m ∨ m + 8 ≤ x) → (x < rec_ v ∨ rec_ v + 128 ≤ x) → byteAt s'.mem x = byteAt s1.mem x))

/-- R247, R248, R255: CAPT and CAPTR reserve the lowest free record of the core, wait for a pending register with it, and then give it the
entry, one count, the frame, the window and the values, or, by reference, the addresses of the registers, and leave its handle in K; with
no record free they fault, and with an entry that is misaligned.
R253, R256-R258: APPLY opens a frame, brings its arguments and the captured words and goes to the entry; RET closes it and carries W0 and W1
back to the return address; RET in the first frame faults; APPLY.A asks for a thread, takes a count and leaves a future of source kind 4
in Wd. A handle that is not current faults with cause 0x0D. -/
def Obligations.CapturesAndApplications : Prop :=
  (∀ (byRef : Bool) (k : KReg) (a : WReg) (cmask rm : BitVec 14) (cbase : BitVec 5) (s : State) (t : Thread), Tidy s → Ready s t [a] →
     let c := s.cur.core
     let E := opnd s t a
     let rmask : BitVec 14 := if byRef then rm else 0
     let i : Instr := if byRef then .captr k a cmask rm cbase else .capt k a cmask cbase
     let reg (x : Nat) := cbase.toNat + x
     let taken (x : Nat) := x < 14 ∧ cmask.getLsbD x = true
     let place (x : Nat) := winKey c (t.wp + 8 * reg x)
     let pc := atAddr s t
     let kept (n : Nat) (l : List (Word × Nat)) := ∀ r ∈ l, r.2 ≠ n
     let free (n : Nat) := (s.purse c n 1).getLsbD 34 = false ∧ (∀ x ∈ (s.core c).spilled, kept n x.th.reserved) ∧
       (∀ x u, x < 16 → x ≠ s.cur.slot → s.thread c x = some u → kept n u.reserved) ∧ kept n (t.reserved.filter (fun r => r.1 != pc))
     let mine := t.reserved.find? (fun r => r.1 == pc)
     let chosen (y : Nat) := y < 128 ∧ (mine = some (pc, y) ∨ mine = none ∧ free y ∧ ∀ z, z < y → ¬ free z)
     (E.toNat % 32 ≠ 0 → canonical E = true → exec i s = .next (takeTrap s c s.cur.slot 0x05 E)) ∧
     (E.toNat % 32 = 0 → canonical E = true → (∀ x, taken x → reg x < s.nregs c) → mine = none → (∀ y, y < 128 → ¬ free y) →
       exec i s = .next (takeTrap s c s.cur.slot 0x0C (clInfo 5 k.val c 0))) ∧
     (∀ x y, E.toNat % 32 = 0 → canonical E = true → (∀ z, taken z → reg z < s.nregs c) → chosen y → taken x → rmask.getLsbD x = false →
       t.pends (reg x) = true → (s.w64 (place x)).getLsbD 24 = false → (∀ z, z < x → taken z → rmask.getLsbD z = false → t.pends (reg z) = false) →
       s.cur.slot < 16 → ∃ s', exec i s = .next s' ∧
         Turns s s' { t with wait := .pendReg (reg x), reserved := (pc, y) :: t.reserved.filter (fun r => r.1 != pc) }) ∧
     (∀ y, E.toNat % 32 = 0 → canonical E = true → c < Config.nCores → s.cur.slot < 16 →
       (∀ x, taken x → reg x < s.nregs c ∧ (rmask.getLsbD x = false → t.pends (reg x) = false)) → chosen y →
       hdlCurrent s t.k[k] = false → hdlRemote c t.k[k] = false → t.wp < 0x8000 → t.wp % 8 = 0 →
       let gen := (s.purse c y 0).toNat % 4096
       let h : Word := BitVec.ofNat 64 (0xC * 2 ^ 60 + c * 2 ^ 49 + y * 2 ^ 42 + gen * 2 ^ 30)
       ∃ s', exec i s = .next s' ∧ s'.thread c s.cur.slot = some { passed s t (if byRef then 12 else 8) with k := t.k.set k h, reserved := t.reserved.filter (fun r => r.1 != pc) } ∧
         s'.purse c y 0 = BitVec.ofNat 64 (E.toNat / 32 % 2 ^ 52 * 4096 + gen) ∧
         s'.purse c y 1 = BitVec.ofNat 64 (2 ^ 48 + t.wp / 8 * 2 ^ 36 + 2 ^ 34 + cbase.toNat * 2 ^ 29 + cmask.toNat * 2 ^ 15 + rmask.toNat * 2) ∧
         (∀ x, taken x → s'.purse c y (2 + x) =
           if rmask.getLsbD x then BitVec.ofNat 64 (0xFF00000000000000 + c * 0x80000 + t.wp + 8 * reg x) else s.w64 (place x)) ∧
         MemBut s s' (winKey c (0x5C000 + 128 * y)) 128)) ∧
  (∀ (k : KReg) (d : WReg) (o : OrdScope) (s s1 : State) (t t1 : Thread), Tidy s → Issues s t →
     let c := s.cur.core
     let sl := s.cur.slot
     let H := t.k[k]
     let w1 := s.purse (hdlCore H) (hdlEnv H) 1
     let entry := pEntry (s.purse (hdlCore H) (hdlEnv H) 0)
     let caps := captured s (hdlCore H) (hdlEnv H)
     let good := hdlCurrent s H = true ∧ (hdlCore H = c ∨ s.routed c (cluOf (hdlCore H)) = true) ∧ capturedAbove s H (s.nregs c) = none
     let byRef := w1.toNat / 2 % 2 ^ 14 ≠ 0
     (hdlReason s H = 2 → hdlRemote c H = false → exec (.apply k) s = .next (takeTrap s c sl 0x0D (hdlInfo 2 k.val H))) ∧
     (good → (byRef → w1.getLsbD 35 = false) → Ready s t [0, 1, 2, 3] → openFrame s c sl (atAddr s t + 8) = .ok s1 → Follows s s1 t1 →
       ∃ s', exec (.apply k) s = .next s' ∧
         s'.thread c sl = some { t1 with pc := entry, wait := if hdlCore H = c then t1.wait else .reply } ∧
         (∀ p ∈ caps, s'.w64 (winKey c (t1.wp + 8 * p.1)) = p.2) ∧
         (∀ r : WReg, r.val < 4 → (∀ p ∈ caps, p.1 ≠ r.val) → s'.w64 (winKey c (t1.wp + 8 * r.val)) = opnd s t r) ∧
         (∀ x, (x < winKey c t1.wp ∨ winKey c (t1.wp + s.frameRegs c) ≤ x) → byteAt s'.mem x = byteAt s1.mem x)) ∧
     (t.depth = 1 ∨ t.kernel = true → exec .ret s = .next (takeTrap s c sl 0x07 (clInfo 7 0 0 0))) ∧
     (t.kernel = false → t.depth ≠ 1 → t.mdepth ≠ t.depth → t.pend ≠ 0 → ∃ s', exec .ret s = .next s' ∧ Turns s s' { t with wait := .allPend }) ∧
     (t.kernel = false → t.depth ≠ 1 → t.mdepth ≠ t.depth → t.pend = 0 → closeTo s c sl t (t.depth - 2) = .ok s1 → Follows s s1 t1 →
       ∃ s', exec .ret s = .next s' ∧ s'.thread c sl = some { t1 with pc := s.w64 (winKey c (t.wp + s.frameRegs c)) } ∧
         s'.w64 (winKey c t1.wp) = opnd s t 0 ∧ s'.w64 (winKey c (t1.wp + 8)) = opnd s t 1 ∧
         (∀ x, (x < winKey c t1.wp ∨ winKey c (t1.wp + 16) ≤ x) → byteAt s'.mem x = byteAt s1.mem x)) ∧
     (∀ (named : Option WReg) (tc : Nat), good → ¬ byRef → Dst s t d → Drained s t → w1.toNat / 2 ^ 48 < 65535 →
       (match named with
         | none => tc = hdlCore H
         | some a => Ready s t [a] ∧ opnd s t a = BitVec.ofNat 64 tc ∧ s.sameTenant c tc = true) →
       tc < Config.nCores → (s.core tc).wide = (s.core c).wide →
       purseKey (hdlCore H) (hdlEnv H) 0 + 128 ≤ winKey c (t.wp + 8 * d.val) ∨ winKey c (t.wp + 8 * d.val) + 8 ≤ purseKey (hdlCore H) (hdlEnv H) 0 →
       let h : Word := BitVec.ofNat 64 (0xF4 * 2 ^ 56 + c * 2 ^ 45 + sl * 2 ^ 41 + (s.slot c sl).seq % 65536 * 2 ^ 25)
       ∃ s' x, exec (.applyA d k named o) s = .next s' ∧ opnd s' t d = h ∧
         s'.thread c sl = some { passed s t 8 with pend := t.pend ||| BitVec.ofNat 32 (2 ^ d.val) } ∧
         s'.eng.creations = s.eng.creations ++ [x] ∧ x.core = tc ∧ x.entry = entry ∧ x.origin = .applyA h ∧ x.env = some H ∧ x.bsize = t.size ∧
         (s'.purse (hdlCore H) (hdlEnv H) 1).toNat / 2 ^ 48 = w1.toNat / 2 ^ 48 + 1))

/-! Migration and park. -/

/-- R260, R261: MIGR to the owner of an address and MIGRTO to a named core: a NOP where the thread already stands; with a pending register or an
unfinished copy it waits; else, here with an empty write buffer, the flit with its registers, flags, K registers, tenant and the pins that its
acquire does not cover (R89) leaves and the slot is free.
R42, R260: a wide core cannot migrate, cause 0x0A; a thread whose current frame is not its first faults, and so does one in a masked section or
a handler; a reserved bit or core number of MIGRTO's operand faults. Those checks stand in this order, MIGR's before its address is looked
at, and CORE is 0 where the address names no core: the model's choice (log 116). -/
def Obligations.Migrations : Prop :=
  ∀ (a : WReg) (s : State) (t : Thread), Tidy s → Ready s t [a] →
    let c := s.cur.core
    let sl := s.cur.slot
    let v := opnd s t a
    let traps (i : Instr) (cause : Nat) (info : Word) := exec i s = .next (takeTrap s c sl cause info)
    let waits (s0 : State) (i : Instr) (w : Wait) := ∃ s', exec i s = .next s' ∧ Turns s0 s' { t with wait := w }
    let wide := (s.core c).wide = true
    let first := t.wp = t.base ∧ t.depth = 1
    let open_ := s.msk c sl = true ∨ s.inh c sl = true
    (wide → traps (.migrto a) 0x0A (clInfo 0 0 (v.toNat % 2 ^ 11) 0)) ∧
    (wide → ∀ k s0 m goal, migrLocate v s = .ok (k, s0) → ownerOf s0.modid k = some (m, goal) → traps (.migr a) 0x0A (clInfo 0 0 goal 0)) ∧
    (wide → (∀ k s0, migrLocate v s = .ok (k, s0) → ownerOf s0.modid k = none) → traps (.migr a) 0x0A 0) ∧
    (¬ wide → ∀ i ∈ ([.migr a, .migrto a] : List Instr), (¬ first → traps i 0x07 (clInfo 7 0 0 0)) ∧ (first → open_ → traps i 0x07 (clInfo 9 0 0 0))) ∧
    (¬ wide → first → ¬ open_ → v.toNat / 2 ^ 21 ≠ 0 ∨ 1536 ≤ v.toNat % 2 ^ 11 → traps (.migrto a) 0x07 (clInfo 8 0 (v.toNat % 2 ^ 11) 0)) ∧
    (¬ wide → first → ¬ open_ → ∀ m goal s0, ∀ p ∈ ([(.migrto a, s0 = s ∧ v.toNat = goal + 2 ^ 11 * m ∧ m < 1024 ∧ goal < 1536),
        (.migr a, ∃ k, migrLocate v s = .ok (k, s0) ∧ ownerOf s0.modid k = some (m, goal))] : List (Instr × Prop)), p.2 → Follows s s0 t →
      (m = s0.modid → s0.sameTenant c goal = true ∧ (s0.core goal).wide = false) → (m ≠ s0.modid → s0.inPartition c m = true) →
      let copies := ∃ k ∈ s0.eng.copies, k.packet = none ∧ k.tid = s0.tid c sl
      (m = s0.modid → goal = c → ∃ s', exec p.1 s = .next s' ∧ Turns s0 s' (passed s0 t 8)) ∧
      (m ≠ s0.modid ∨ goal ≠ c → t.pend ≠ 0 → waits s0 p.1 .allPend) ∧
      (m ≠ s0.modid ∨ goal ≠ c → t.pend = 0 → copies → waits s0 p.1 .migr) ∧
      (m ≠ s0.modid ∨ goal ≠ c → t.pend = 0 → ¬ copies → Drained s0 t → ∃ s' r f, exec p.1 s = .next s' ∧ s'.thread c sl = none ∧
        s'.eng.flits = s0.eng.flits ++ (if m = s0.modid then [r] else []) ∧
        s'.eng.flitsOut = s0.eng.flitsOut ++ (if m = s0.modid then [] else [(m, r)]) ∧
        r.core = goal ∧ r.entry = t.pc + 8 ∧ r.bsize = t.size ∧ r.origin = t.origin ∧ r.flit = some f ∧ f.tid = s0.tid c sl ∧ f.k = t.k ∧
        f.hvec = s0.hvec c sl ∧ f.tenant = s0.tenantOf c ∧
        f.pins = t.pins.filter (fun x => !covers (scopeHolding s0.modid c m goal) c (64 * x.1)) ∧
        f.ctl = BitVec.ofNat 64 (t.flags.bits.toNat + t.vl * 2 ^ 4 + t.rmode.code * 2 ^ 17 + t.iflags.toNat * 2 ^ 20) ∧
        r.regs = (List.range 16).map (fun n => (n, s0.w64 (winKey c (t.wp + 8 * n)))) ∧
        (∀ k, k < winKey c 0x5C000 ∨ winKey c 0x60000 ≤ k → byteAt s'.mem k = byteAt s0.mem k)))

/-- R262, R264, R266, R269: PARK that passes its checks leaves a future of source kind 5 in Wd and asks the escrow engine; WAKEW writes a wake
value to a cell; ESTAT reads a cell's status, which its reply brings. A list or cell address that is not a multiple of 8 faults.
R261, R264-R268, R310: a migrating thread is created where a slot and a block are free, and none where the router rejects its packet; PARK is
refused with its REASON and the cell, or accepted in STATE 2; dwell expiries, page moves and promotion take a parked page down and up, and
a wake applies the continuation once its pages are home; ECELLCLR frees a cell. Here with a park of one page. The rules leave open a wake
while pages move, kept with STATE unchanged, and a second one, ignored (log 81), and that a teller and function 0 write ECELLCLR as the
comptroller does, a function once its earlier writes are performed (log 16): the model's choices. -/
def Obligations.Parks : Prop :=
  (∀ (d a b e : WReg) (k : KReg) (np : BitVec 6) (cls : Fin 8) (r : OrdScope) (s s1 s2 : State) (t u : Thread), Tidy s → Issues s t →
     let c := s.cur.core
     let sl := s.cur.slot
     let H := t.k[k]
     let i : Instr := .park d a k e np cls r
     let regs := (captured s (hdlCore H) (hdlEnv H)).map Prod.fst
     (Ready s t [a, e] → Dst s t d → (opnd s t a).toNat % 8 ≠ 0 → exec i s = .next (takeTrap s c sl 0x05 (opnd s t a))) ∧
     (Ready s t [a, e] → Dst s t d → (opnd s t a).toNat % 8 = 0 → (opnd s t e).toNat % 8 = 0 → hdlCurrent s H = true → hdlRemote c H = false →
       (s.purse (hdlCore H) (hdlEnv H) 1).toNat / 2 % 2 ^ 14 = 0 → (∀ x ∈ regs, 1 ≤ x ∧ x < s.nregs c) →
       let h : Word := BitVec.ofNat 64 (0xF5 * 2 ^ 56 + c * 2 ^ 45 + sl * 2 ^ 41 + (s.slot c sl).seq % 65536 * 2 ^ 25)
       ∃ s' x, exec i s = .next s' ∧ opnd s' t d = h ∧
         s'.thread c sl = some { passed s t 16 with pend := t.pend ||| BitVec.ofNat 32 (2 ^ d.val) } ∧ s'.eng.parks = s.eng.parks ++ [x] ∧
         x.h = h ∧ x.env = H ∧ x.list = opnd s t a ∧ x.cellVa = opnd s t e ∧ x.np = np.toNat + 1 ∧ x.cls = cls.val ∧ x.core = c ∧
         MemBut s s' (winKey c (t.wp + 8 * d.val)) 8) ∧
     (∀ n, Ready s t [a, b] → locate .rmw (opnd s t a) 8 8 s = .ok (Config.devBase + 0x40000000 + 8 * n, s1) → n < 65536 → r.ord = .none →
       Drained s1 u → (s1.poisoned (lineOf (Config.devBase + 0x40000000 + 8 * n))) = false → Follows s s1 u →
       ∃ s' w, exec (.wakew a b r) s = .next s' ∧ s'.thread c sl = some w ∧
         w = { passed s1 u 8 with wait := .reply, pins := w.pins, views := w.views, seen := w.seen, stale := w.stale } ∧
         ((s1.cell n).state = 0 → (s'.cell n).state = 1 ∧ (s'.cell n).kept = opnd s t b) ∧
         ((s1.cell n).state ∈ [1, 7, 8, 9] → s'.cell n = s1.cell n)) ∧
     (∀ n v, Ready s t [a] → Dst s t d → locate .read (opnd s t a) 8 8 s = .ok (Config.devBase + 0x40000000 + 8 * n, s1) → n < 65536 →
       s1.cur = s.cur → loadAt (opnd s t a) 8 s1 = .ok (v, s2) → Follows s s2 u →
       (∃ s', exec (.estat d a) s = .next s' ∧ Turns s2 s' { passed s2 u 8 with wait := .reply, late := u.late ++ lateSz d .d v }) ∧
       (∀ s3, locate .read (opnd s t a) 8 8 s1 = .ok (Config.devBase + 0x40000000 + 8 * n, s3) → v = devRead s2 (0x40000000 + 8 * n) 8 % 2 ^ 64)) ∧
     (∀ n, n < 65536 → devRead s (0x40000000 + 8 * n) 8 = ((s.cell n).state * 2 ^ 60 + (s.cell n).cls * 2 ^ 56 + (s.cell n).npg * 2 ^ 49
       + (s.cell n).tchg.toNat % 2 ^ 48) % 2 ^ 64)) ∧
  (∀ (n i : Nat) (v : Word) (s : State) (k : Park) (g : Page), Tidy s →
     let x := s.cell n
     let now : Word := BitVec.ofNat 64 (s.time.toNat / 65536)
     let one := x.park = some k ∧ k.pages = [g] ∧ twf Cell.reset s.eng.cells = true
     (∀ r, s.eng.flits[i]? = some r → r.admitted s = false → r.origin = .none → ∃ s', exec (.migrationFlit i) s = .next s' ∧
       s'.eng.flits.length + 1 = s.eng.flits.length ∧ s'.slots = s.slots ∧ s'.eng.creations = s.eng.creations) ∧
     (∀ r f sl o, s.eng.flits[i]? = some r → r.flit = some f → r.admitted s = true → r.env = none → r.cell = none → placeFor s r.core r.bsize = some (sl, o) →
       r.core < Config.nCores → (∀ w ∈ s.eng.sweeps, w.targets r.core = false) → f.scratch.length ≤ 8 → r.regs = (List.range 16).map (fun j => (j, r.regs.getD j (0, 0) |>.2)) →
       ∃ s' u, exec (.migrationFlit i) s = .next s' ∧ s'.eng.flits.length + 1 = s.eng.flits.length ∧ s'.thread r.core sl = some u ∧
         u.pc = r.entry ∧ u.wp = o ∧ u.base = o ∧ u.size = r.bsize ∧ u.kernel = false ∧ u.origin = r.origin ∧ u.k = f.k ∧ u.pend = 0 ∧
         u.vl = f.ctl.toNat / 16 % 2 ^ 13 ∧ s'.hvec r.core sl = f.hvec ∧
         (∀ j, j < 16 → s'.w64 (winKey r.core (o + 8 * j)) = (r.regs.getD j (0, 0)).2)) ∧
     (∀ r, s.eng.parks[i]? = some r → (s.core r.core).wbuf = [] → leftBy s r.tid = [] → r.h ≠ 0 →
       let s1 : State := { s with eng := { s.eng with parks := delAt s.eng.parks i } }
       (∀ reason, parkCheck s1 r = .error reason →
         let q := (match s1.tenSlot r.tenant with | some j => cellOf s1 j r.kernel r.cellVa | none => none).getD 0
         ∃ s', exec (.parkAcceptance i) s = .next s' ∧ s'.mem = s.mem ∧
           s'.eng.dones = s.eng.dones ++ [⟨r.h, BitVec.ofNat 64 (2 * 2 ^ 60 + reason * 2 ^ 52 + q), false⟩]) ∧
       (∀ ps m s2, parkCheck s1 r = .ok (ps, m) → forceCores s1 (fun x => s1.tenantOf x == r.tenant) = (s2, false) → (s2.cell m).state ≠ 1 →
         ∃ s' p, exec (.parkAcceptance i) s = .next s' ∧
         s'.eng.dones = s2.eng.dones ++ [⟨r.h, BitVec.ofNat 64 (2 ^ 60 + m), false⟩] ∧
         (s'.cell m).state = 2 ∧ (s'.cell m).npg = ps.length - 1 ∧ (s'.cell m).park = some p ∧ p.pages = ps ∧ p.env = r.env ∧ p.tau = s2.time ∧ p.woken = false)) ∧
     (n < 65536 → (x.state = 0 → ∃ s', exec (.wakeWrite n v) s = .next s' ∧ s'.mem = s.mem ∧ s'.cell n = { x with state := 1, tchg := now, kept := v }) ∧
       (x.state ∈ [1, 7, 8, 9] → exec (.wakeWrite n v) s = .next s) ∧
       (x.state ∈ [2, 3, 4, 5, 6] → x.park = some k → k.woken = true → exec (.wakeWrite n v) s = .next s) ∧
       (x.state ∈ [2, 3, 4, 5, 6] → x.park = some k → k.woken = false →
         ((∀ y ∈ k.pages, y.moving = none) → ∃ s', exec (.wakeWrite n v) s = .next s' ∧ (s'.cell n).state = 7) ∧
         ((∃ y ∈ k.pages, y.moving ≠ none) → ∃ s', exec (.wakeWrite n v) s = .next s' ∧ s'.mem = s.mem ∧
           s'.cell n = { x with park := some { k with value := v, woken := true } }))) ∧
     (one → x.state = 2 → k.woken = false → g.tier = .hbm → g.moving = none → k.hbmdw ≠ 0xFFFFFFFF → usPassed s k.tau k.hbmdw = true → tierRoom s .cxl = true →
       ∃ s', exec (.hbmDwellExpiry n) s = .next s' ∧ s'.mem = s.mem ∧
         s'.cell n = { x with state := 3, tchg := now, park := some { k with pages := [{ g with moving := some .cxl }] } }) ∧
     (one → x.state = 4 → k.woken = false → g.tier = .cxl → g.moving = none → k.hbmdw ≠ 0xFFFFFFFF → k.cxldw ≠ 0xFFFFFFFF → usPassed s k.tau (k.hbmdw + k.cxldw) = true →
       tierRoom s .flash = true → ∃ s' b, exec (.cxlDwellExpiry n) s = .next s' ∧ s'.mem = s.mem ∧ nextLba s = some b ∧
         s'.cell n = { x with state := 5, tchg := now, park := some { k with pages := [{ g with moving := some .flash, lba := some b }] } }) ∧
     (one → x.state = 3 → k.woken = false → g.tier = .hbm → g.moving = some .cxl → ∃ s', exec (.pageMoveComplete n 0 false) s = .next s' ∧ s'.mem = s.mem ∧
         s'.cell n = { x with state := 4, tchg := now, park := some { k with pages := [{ g with tier := .cxl, moving := none, lba := none, bad := s.poison.filter (inFrame s g.frame) }] } }) ∧
     (one → x.state = 5 → k.woken = false → g.tier = .cxl → g.moving = some .flash → ∃ s', exec (.flashCommandCompletion n 0 0) s = .next s' ∧ s'.mem = s.mem ∧
         s'.cell n = { x with state := 6, tchg := now, park := some { k with pages := [{ g with tier := .flash, moving := none }] } }) ∧
     (one → x.state = 7 → g.moving = some .hbm → g.tier ≠ .hbm → ∃ s' cr, exec (.promotionStageComplete n 0 false) s = .next s' ∧
         (s'.cell n).park = none ∧ (s'.cell n).state = 7 ∧ s'.eng.creations = s.eng.creations ++ [cr] ∧ cr.core = k.home ∧ cr.env = some k.env ∧
         cr.cell = some n ∧ cr.acq = some .dom ∧ (0, k.value) ∈ cr.regs) ∧
     (∀ p m, twf Cell.reset s.eng.cells = true → v.toNat = m → m < 65536 → (p = .comptroller ∨ p = .teller ∨ p = .func 0) ∧ behindBar2 s p = false → ∃ s', exec (.ecellclr p v) s = .next s' ∧ s'.mem = s.mem ∧
       ((s.cell m).state = 1 ∨ (s.cell m).state = 8 ∨ (s.cell m).state = 9 → (s'.cell m).state = 0) ∧
       ((s.cell m).state ∈ [0, 2, 3, 4, 5, 6, 7] → s' = s)))

/-! The system profile. -/

/-- R281, R283, R285: in user mode an exception saves PEND, WP, REPCNT, FLAGS, the cause, its information and the return address in the slot,
and the thread goes on in its kernel frame at TRAPVEC; an exception in kernel mode halts the thread. -/
def Obligations.TrapEntry : Prop :=
  ∀ (c sl cause : Nat) (info ret at_ : Word) (s : State) (t : Thread), Tidy s → s.thread c sl = some t →
    let s' := trapEntry s c sl cause info ret at_
    let x := s.slot c sl
    let f := t.flags
    (t.kernel = false → (s.core c).trapvec ≠ 0 →
      s'.slot c sl = { x with
        trapcause := BitVec.ofNat 64 cause, trapinfo := info, trappc := ret, upend := t.pend, uwp := t.wp, trep := t.repcnt,
        tfl := BitVec.ofNat 4 (8 * bitNat f.z + 4 * bitNat f.n + 2 * bitNat f.c + bitNat f.v),
        thread := some { t with wp := if (s.core c).wide then 0x800 + 256 * sl else 0x800 + 128 * sl, pend := 0, repcnt := 0, kernel := true,
                                wait := .none, pc := (s.core c).trapvec } } ∧
      s'.mem = s.mem ∧ s'.cores = s.cores ∧ (∀ c' sl', slotKey c' sl' ≠ slotKey c sl → s'.slot c' sl' = s.slot c' sl')) ∧
    (t.kernel = true → s'.slot c sl = { x with thread := some { t with halted := true, wait := .none } } ∧ s'.mem = s.mem ∧ s'.cores = s.cores)

/-- R294, R297: TRAP and SYSCALL take their exceptions, causes 0x14 and 0x15, with the code and the address of the next instruction; ERET
restores what entry saved and goes to TRAPPC, waits while PEND is set, and faults where TRAPPC is no multiple of 4; ERET.END, whose stores are out, ends the thread.
R295, R297, R308, R334, R360: REPART changes the partition of a quiescent core alone; TLBINV leaves no cached translation it names;
LAUNCH puts an entry into its queue and a future of source kind 6 into Wd, and waits while the queue is full; TLBINV and LAUNCH end the
thread's phase at package scope; SLEEP waits until TIME has
come; ASSAYTRIG triggers a snapshot. -/
def Obligations.TrapsAndSystemForms : Prop :=
  (∀ (code : BitVec 16) (s : State) (t : Thread), Tidy s → Issues s t →
     let c := s.cur.core
     let sl := s.cur.slot
     let x := s.slot c sl
     (exec (.trap code) s = .next (trapEntry s c sl 0x14 (BitVec.ofNat 64 code.toNat) (t.pc + 8) t.pc)) ∧
     (exec (.syscall code) s = .next (trapEntry s c sl 0x15 (BitVec.ofNat 64 code.toNat) (t.pc + 8) t.pc)) ∧
     (t.pend ≠ 0 → ∀ i ∈ ([.eret, .eretEnd] : List Instr), ∃ s', exec i s = .next s' ∧ Turns s s' { t with wait := .allPend }) ∧
     (t.pend = 0 → goodTarget x.trappc → ∃ s', exec .eret s = .next s' ∧ Turns s s' { t with
       wp := x.uwp, pend := x.upend, repcnt := x.trep, flags := ⟨x.tfl.getLsbD 3, x.tfl.getLsbD 2, x.tfl.getLsbD 1, x.tfl.getLsbD 0⟩,
       kernel := false, wait := .none, pc := x.trappc }) ∧
     (t.pend = 0 → x.trappc.toNat % 4 ≠ 0 → exec .eret s = .next (takeTrap s c sl 0x05 x.trappc)) ∧
     (t.pend = 0 → Drained s t ∨ (releaseBy s c (s.tid c sl) .pkg).2 = false → ∃ s', exec .eretEnd s = .next s' ∧ s'.thread c sl = none)) ∧
  (∀ (d a b e : WReg) (kind : Fin 3) (pri : Fin 8) (tag : BitVec 16) (s : State) (t : Thread), Tidy s → Ready s t [a, b, e] →
     let c := s.cur.core
     let sl := s.cur.slot
     let A := opnd s t a
     let B := opnd s t b
     let E := opnd s t e
     let p := passed s t 8
     let q := 1016 + pri.val
     let i : Instr := .launch d a b e pri
     let pins := t.pins.filter (fun x => !covers .pkg c (64 * x.1))
     let views := t.views.filter (fun x => !covers .pkg c (8 * x.1))
     (Dst s t d → A.toNat / 2 ^ 12 = 0 → A.toNat % 2 ^ 11 < 1536 →
       let j := A.toNat % 2 ^ 11
       let wide := A.getLsbD 11
       let gives (v : Word) (s' : State) := opnd s' t d = v ∧ MemBut s s' (winKey c (t.wp + 8 * d.val)) 8 ∧
         s'.thread c sl = some { p with wait := .reply, pend := t.pend &&& ~~~(BitVec.ofNat 32 (2 ^ d.val)) }
       ((s.core j).wide = wide → ∃ s', exec (.repart d a) s = .next s' ∧ gives 0 s' ∧ s'.cores = s.cores) ∧
       ((s.core j).wide ≠ wide → quiescent s j = false → ∃ s', exec (.repart d a) s = .next s' ∧ gives 1 s' ∧ s'.cores = s.cores) ∧
       ((s.core j).wide ≠ wide → quiescent s j = true → ∃ s', exec (.repart d a) s = .next s' ∧ gives 0 s' ∧ s'.core j = { s.core j with wide := wide })) ∧
     ((∀ x ∈ s.cores, x.2.wbuf = []) → (kind ≠ 0 ∨ canonical A = true) → (kind = 2 ∨ B.toNat < 65536) →
       ∃ s', exec (.tlbinv kind a b) s = .next s' ∧ s'.mem = s.mem ∧ s'.thread c sl = some { p with wait := .reply, pins := pins, views := views } ∧
         (∀ j x, x ∈ (s'.core j).tlb ∨ x ∈ (s'.clu j).tlb → kind ≠ 2 ∧ (x.tenant = B.toNat → kind = 0 ∧ x.page ≠ A.toNat / 2 ^ pageBits x.lv)) ∧
         (∀ y ∈ s'.xl.wcache, ∀ x ∈ y.2, kind ≠ 2 ∧ (x.tenant = B.toNat → kind = 0 ∧ x.page ≠ A.toNat / 2 ^ levelShift x.lv))) ∧
     (d.val < s.nregs c → E.toNat = 0 ∨ 2 ^ 32 ≤ E.toNat → exec i s = .next (takeTrap s c sl 0x01 (BitVec.ofNat 64 (4 + 256 * 64)))) ∧
     (1 ≤ E.toNat → E.toNat < 2 ^ 32 → Dst s t d → Drained s t →
       (1024 ≤ (s.queue q).dev.length → ∃ s', exec i s = .next s' ∧ Turns s s' { t with wait := .launchPlace pri.val, pins := pins, views := views }) ∧
       ((s.queue q).dev.length < 1024 →
         let h : Word := BitVec.ofNat 64 (0xF6 * 2 ^ 56 + c * 2 ^ 45 + sl * 2 ^ 41 + (s.slot c sl).seq % 65536 * 2 ^ 25)
         ∃ s', exec i s = .next s' ∧ opnd s' t d = h ∧
           s'.thread c sl = some { passed s t 16 with pend := t.pend ||| BitVec.ofNat 32 (2 ^ d.val), pins := pins, views := views } ∧
           (s'.queue q).dev = (s.queue q).dev ++ [⟨A, B, E.toNat, s.tenantOf c, c, h⟩] ∧ (s'.queue q).tail = ((s.queue q).tail + 1) % 2 ^ 32 ∧
           MemBut s s' (winKey c (t.wp + 8 * d.val)) 8)) ∧
     ((s.time - A).toNat < 2 ^ 63 → ∃ s', exec (.sleep a) s = .next s' ∧ Turns s s' p) ∧
     (2 ^ 63 ≤ (s.time - A).toNat → ∃ s', exec (.sleep a) s = .next s' ∧ Turns s s' { t with wait := .sleep A }) ∧
     (∃ s', exec (.assaytrig tag) s = .next s' ∧ s'.mem = s.mem ∧ s'.thread c sl = some p ∧ s'.snap.frozen = true ∧
       s'.snap.trigCnt = s.snap.trigCnt + 1 ∧
       (s.snap.frozen = false → s'.snap.src = 1 ∧ s'.snap.trigTag = tag.toNat ∧ s'.snap.trigTime = s.time ∧ s'.snap.trigNo = s.snap.trigCnt + 1)))

/-- R279, R280, R296: MFS reads every system register, and MTS writes every one that is not read-only, reserved bits ignored, those of FMT by the model's reading (log 111); a read-only one is out
of range, and TENANT and OVFPTR are protected. TRAPINFO 0 of that fault, and of the one of FLTTID and FLTDROP off the supervisor core, is the model's
choice (log 117). -/
def Obligations.SystemRegisters : Prop :=
  ∀ (d a : WReg) (g : Seg) (s : State) (t : Thread), Tidy s → Issues s t →
    let c := s.cur.core
    let sl := s.cur.slot
    let n := cluOf c
    let x := s.slot c sl
    let k := s.core c
    let u := s.clu n
    let p := passed s t 8
    let num (v : Nat) : Word := BitVec.ofNat 64 v
    (Dst s t d → c < Config.nCores →
      (∀ q ∈ ([(.wp, num t.wp), (.trapvec, k.trapvec), (.trapcause, x.trapcause), (.trappc, x.trappc), (.trapinfo, x.trapinfo),
        (.trapstat, num (x.upend.toNat * 2 ^ 32 + x.uwp % 2 ^ 15 * 2 ^ 17 + x.trep % 2 ^ 7 * 2 ^ 10 + x.tfl.toNat * 2 ^ 6 + bitNat t.kernel)),
        (.traprpt, k.traprpt), (.savebase, k.savebase), (.partcfg, num (bitNat k.wide)), (.tenant, num k.tenant), (.ovfptr, k.ovfptr),
        (.fmt g, tget 0x888 k.fmt g.val), (.time, s.time), (.actl, u.actl), (.arbase, u.arbase), (.arhead, num u.arhead), (.artail, num u.artail),
        (.adrop, num u.adrop),
        (.mprog, match u.arr with | some r => if r.paused then u.mprog ||| 32 else u.mprog | none => u.mprog)] : List (SysReg × Word)),
        ∃ s', exec (.mfs d q.1) s = .next s' ∧ Sets s s' t d q.2 p) ∧
      (c % 16 = 0 → ∀ q ∈ ([(.flttid, u.flttid), (.fltdrop, num u.fltdrop)] : List (SysReg × Word)),
        ∃ s', exec (.mfs d q.1) s = .next s' ∧ Sets s s' t d q.2 p) ∧
      (c % 16 ≠ 0 → ∀ q ∈ ([.flttid, .fltdrop] : List SysReg), exec (.mfs d q) s = .next (takeTrap s c sl 0x07 0))) ∧
    (Ready s t [a] → c < Config.nCores →
      let v := opnd s t a
      let low (w : Nat) : Word := num (v.toNat % 2 ^ w)
      (∀ q ∈ ([(.trapcause, { x with trapcause := low 8 }), (.trappc, { x with trappc := v }), (.trapinfo, { x with trapinfo := v }),
        (.trapstat, { x with upend := BitVec.ofNat 32 (v.toNat / 2 ^ 32), uwp := v.toNat / 2 ^ 17 % 2 ^ 15, trep := v.toNat / 2 ^ 10 % 2 ^ 7,
                             tfl := BitVec.ofNat 4 (v.toNat / 2 ^ 6) })] : List (SysReg × SlotSt)),
        ∃ s', exec (.mts q.1 a) s = .next s' ∧ OnlySlot s s' ∧ s'.mem = s.mem ∧ s'.slot c sl = { q.2 with thread := some p }) ∧
      (∀ q ∈ ([(.trapvec, { k with trapvec := num (v.toNat / 32 * 32) }), (.traprpt, { k with traprpt := v }), (.savebase, { k with savebase := v })]
          : List (SysReg × CoreSt)),
        ∃ s', exec (.mts q.1 a) s = .next s' ∧ s'.core c = q.2 ∧ s'.mem = s.mem ∧ s'.clus = s.clus ∧ s'.slot c sl = { x with thread := some p } ∧
          (∀ j, j ≠ c → s'.core j = s.core j)) ∧
      (fmtOk v = true → twf 0x888 k.fmt = true → ∃ s', exec (.mts (.fmt g) a) s = .next s' ∧ tget 0x888 (s'.core c).fmt g.val = low 16 ∧
        (∀ h : Seg, h ≠ g → tget 0x888 (s'.core c).fmt h.val = tget 0x888 k.fmt h.val) ∧ s'.mem = s.mem ∧ s'.thread c sl = some p) ∧
      (fmtOk v = false → exec (.mts (.fmt g) a) s = .next (takeTrap s c sl 0x01 (num (4 + 256 * 21)))) ∧
      (∀ q ∈ ([.wp, .partcfg, .time, .mprog, .artail, .adrop] : List SysReg), exec (.mts q a) s = .next (takeTrap s c sl 0x01 (num (4 + 256 * 41)))) ∧
      (∀ q ∈ ([
          (.actl, { u with actl := v &&& 0x1F9, adrop := if v.getLsbD 0 && !u.actl.getLsbD 0 then 0 else u.adrop,
                           staging := if v.getLsbD 0 then u.staging else [] }),
          (.arbase, if u.actl.getLsbD 0 then u else { u with arbase := v &&& 0x00FFFFFFFFFF001F }),
          (.arhead, if (v.toNat % 2 ^ 32 + 2 ^ 32 - u.arhead) % 2 ^ 32 ≤ (u.artail + 2 ^ 32 - u.arhead) % 2 ^ 32 then { u with arhead := v.toNat % 2 ^ 32 } else u)]
            : List (SysReg × CluSt)),
        ∃ s', exec (.mts q.1 a) s = .next s' ∧ s'.clu n = q.2 ∧ s'.mem = s.mem ∧ s'.thread c sl = some p) ∧
      (∀ q ∈ ([.tenant, .ovfptr] : List SysReg), exec (.mts q a) s = .next (takeTrap s c sl 0x07 0)) ∧
      (c % 16 = 0 → ∀ q ∈ ([(.flttid, { u with flttid := v }), (.fltdrop, { u with fltdrop := v.toNat % 2 ^ 32 })] : List (SysReg × CluSt)),
        ∃ s', exec (.mts q.1 a) s = .next s' ∧ s'.clu n = q.2 ∧ s'.mem = s.mem ∧ s'.thread c sl = some p))

/-- R287-R293, R297: SPILLSLOT asks a core's spill engine, or gives 3 for a slot that does not exist or is its own; the engine, which serves its
requests in their order, answers 1 for an empty slot, and takes a thread at its spill point; FILLSLOT gives its code, 3 for its own slot too (the model's reading, log 58), and
restores the thread on 0, which FILLSLOT.END then ends; with an earlier request there it is asked of the engine as well; a sleeping thread
wakes past its instruction. Where an aged tile waits for the place, `fillResult` has no answer yet (log 115). -/
def Obligations.SpillAndFill : Prop :=
  ∀ (ending : Bool) (d a b : WReg) (s : State) (t : Thread), Tidy s → Issues s t →
    let c := s.cur.core
    let sl := s.cur.slot
    let A := opnd s t a
    let c' := A.toNat % 2 ^ 11
    let sl' := A.toNat / 2 ^ 11 % 16
    let e := (opnd s t b).toNat
    let i : Instr := if ending then .fillslotEnd d a b else .fillslot d a b
    let bad := 1536 ≤ c' ∨ s.nslots c' ≤ sl' ∨ (c' = c ∧ sl' = sl)
    (Ready s t [a, b] → 2 ^ 15 ≤ A.toNat → ∀ j ∈ ([i, .spillslot d a b] : List Instr), d.val < s.nregs c →
      exec j s = .next (takeTrap s c sl 0x01 (BitVec.ofNat 64 (4 + 256 * 21)))) ∧
    (Ready s t [a, b] → Dst s t d → A.toNat < 2 ^ 15 →
      (bad → ∃ s', exec (.spillslot d a b) s = .next s' ∧ Sets s s' t d 3 (passed s t 8)) ∧
      (¬ bad → ∃ s', exec (.spillslot d a b) s = .next s' ∧ s'.mem = s.mem ∧ s'.thread c sl = some { t with wait := .spillReq } ∧
        (s'.core c').spillQ = (s.core c').spillQ ++ [⟨none, c, sl, d.val, sl', e⟩]) ∧
      (¬ bad → (s.core c').spillQ ≠ [] → ∃ s', exec i s = .next s' ∧ s'.mem = s.mem ∧ s'.thread c sl = some { t with wait := .spillReq } ∧
        (s'.core c').spillQ = (s.core c').spillQ ++ [⟨some ending, c, sl, d.val, sl', e⟩]) ∧
      (c' = c → sl' = sl → ∃ s', exec i s = .next s' ∧ opnd s' t d = 3 ∧ MemBut s s' (winKey c (t.wp + 8 * d.val)) 8) ∧
      (∀ code s1 u, (¬ bad → (s.core c').spillQ = []) → fillResult s (decide (c' = c) && decide (sl' = sl)) c' sl' e ending = some (code, s1) → Follows s s1 u → u.pend = t.pend →
        ∃ s', exec i s = .next s' ∧ opnd s' u d = BitVec.ofNat 64 code ∧ MemBut s1 s' (winKey c (u.wp + 8 * d.val)) 8 ∧
          s'.thread c sl = some { passed s1 u 8 with wait := .reply, pend := t.pend &&& ~~~(BitVec.ofNat 32 (2 ^ d.val)) } ∧
          (code = 0 → slotKey c' sl' ≠ slotKey c sl → (ending = true → s'.thread c' sl' = none) ∧
            (ending = false → ∃ x ∈ (s.core c').spilled, ∃ v, s'.thread c' sl' = some v ∧ v.inc = x.th.inc ∧ v.wp = x.th.wp ∧ v.pend = x.th.pend ∧
              v.k = x.th.k ∧ v.base = x.th.base ∧ v.size = x.th.size ∧ v.kernel = x.th.kernel)))) ∧
    (∀ (k sk : Nat) (r : SpillReq) (l : List SpillReq) (u : Thread), (s.core k).spillQ = r :: l → r.slot = sk → r.reg < 32 →
      s.thread r.askCore r.askSlot = some u →
      (∀ fin v s1 u1, r.fill = some fin → fillResult s false k sk r.entry fin = some (v, s1) → s1.thread r.askCore r.askSlot = some u1 →
        ∃ s', exec (.spill k sk) s = .next s' ∧ (s'.core k).spillQ = (s1.core k).spillQ.drop 1 ∧
          s'.w64 (winKey r.askCore (u1.wp + 8 * r.reg)) = BitVec.ofNat 64 v ∧
          s'.thread r.askCore r.askSlot = some { u1 with wait := .none, pc := u1.pc + 8, pend := u1.pend &&& ~~~(BitVec.ofNat 32 (2 ^ r.reg)) }) ∧
      (r.fill = none → s.thread k sk = none → ∃ s', exec (.spill k sk) s = .next s' ∧ (s'.core k).spillQ = l ∧ s'.w64 (winKey r.askCore (u.wp + 8 * r.reg)) = 1 ∧
        s'.thread r.askCore r.askSlot = some { u with wait := .none, pc := u.pc + 8, pend := u.pend &&& ~~~(BitVec.ofNat 32 (2 ^ r.reg)) }) ∧
      (∀ w s2, r.fill = none → s.thread k sk = some w → s.tooLate k w 4 = false → leftBy s (s.tid k sk) = [] → r.entry < nrec s k → (s.core k).spilled.length < 64 → spillPoint s k sk w = true → (s.core k).wbuf = [] →
        let sv := savedContext s k sk w
        let vb := (vectorOf s k (s.tid k sk)).isSome
        slotKey r.askCore r.askSlot ≠ slotKey k sk → writeRecord s k sk r.entry sv vb = some s2 →
        ∃ s', exec (.spill k sk) s = .next s' ∧ s'.thread k sk = none ∧
          (s'.core k).spilled = (s.core k).spilled ++ [⟨sv, s.tid k sk, sk, r.entry, vb, 0⟩] ∧ (s'.core k).spillQ = l ∧
          s'.w64 (winKey r.askCore (u.wp + 8 * r.reg)) = 0)) ∧
    (∀ k sk u v, s.thread k sk = some u → u.wait = .sleep v → (s.time - v).toNat < 2 ^ 63 → ∃ s', exec (.sleepExpiry k sk) s = .next s' ∧
      s'.mem = s.mem ∧ s'.thread k sk = some { u with wait := .none, pc := u.pc + 8 })

/-! Events of memory and translation. -/

/-- R24, R35, R89, R91, R303, R306, R307: a reply lets its thread re-enter; the oldest buffered store of a core is performed in HBM and leaves the
buffer; a pin that has room lets its thread re-enter; a walk that succeeds, and that no other miss waits for, lets its copy go on; an answer to the ring's record queues the walk
again or ends the work with cause 0x06; EFHEAD moves up to the tail. That a teller and function 0 write EFRESP and EFHEAD as the comptroller does is the
model's reading (log 16). -/
def Obligations.MemoryEvents : Prop :=
  ∀ (c sl : Nat) (s : State) (t : Thread), Tidy s → s.thread c sl = some t →
    let back (i : Instr) := ∃ s', exec i s = .next s' ∧ s'.thread c sl = some { t with wait := .none } ∧ s'.mem = s.mem ∧ s'.cores = s.cores
    let policy (p : Party) := (p = .comptroller ∨ p = .teller ∨ p = .func 0) ∧ behindBar2 s p = false
    let reply (tok a : Nat) : Instr → Prop := fun i => ∃ p, policy p ∧ i = if a = 1 then Instr.efrespResolve p tok else Instr.efrespUnresolvable p tok
    (t.wait = .reply → t.late = [] → back (.memoryReply c sl)) ∧
    (t.wait = .pin → pinRoom s c = true → back (.pinFreeResume c sl)) ∧
    (∀ (tid : Word) (k p : Nat) (d : List Byte) (l : List WEntry), (s.core c).wbuf = .store tid k k d false :: l → placeOf k = .hbm p →
      ∃ s', exec (.bufferedWritePerformed c 0) s = .next s' ∧ (s'.core c).wbuf = trimMarks l ∧
        (∀ i, i < d.length → byteAt s'.mem (k + i) = d.getD i 0) ∧ (∀ j, (j < k ∨ k + d.length ≤ j) → byteAt s'.mem j = byteAt s.mem j)) ∧
    (∀ (n id k : Nat) (w : Walk) (y : Copy), s.xl.walks[n]? = some w → n < 64 → w.ref = .copy id →
      resolveFrom s ⟨w.tenant, w.kernel, w.core, w.slot, false⟩ (Acc.ofCode w.acc) w.va = .ok k → (∀ x ∈ s.xl.merged, w.same x = false) →
      s.xl.stalled = [] → s.eng.copies.find? (fun x => x.id == id) = some y →
      ∃ s', exec (.pageWalk n) s = .next s' ∧ s'.xl.walks = delAt s.xl.walks n ∧ s'.eng.copies.find? (fun x => x.id == id) = some { y with paused := false }) ∧
    (∀ (tok id acc : Nat) (r : EfRec) (y : Copy) (i : Instr), tok < 2 ^ 32 → s.xl.recs.find? (fun x => x.token == tok) = some r → r.waiters = [(.copy id, acc)] →
      s.eng.copies.find? (fun x => x.id == id) = some y →
      (reply tok 1 i → ∃ s' w, exec i s = .next s' ∧ s'.xl.recs = s.xl.recs.filter (fun x => x.token != tok) ∧ (s.xl.walks = [] → s'.xl.walks = [w]) ∧
        (w ∈ s'.xl.walks ∨ w ∈ s'.xl.merged ∨ w ∈ s'.xl.stalled) ∧
        w.va = r.va ∧ w.tenant = r.tenant ∧ w.acc = acc ∧ w.ref = .copy id) ∧
      (reply tok 2 i → ∃ s', exec i s = .next s' ∧ s'.xl.recs = s.xl.recs.filter (fun x => x.token != tok) ∧
        s'.eng.copies.find? (fun x => x.id == id) = some { y with paused := false, fault := some (0x06, r.va) })) ∧
    (∀ (p : Party) (v : Word), policy p → s.xl.heldFaults = [] →
      let h := v.toNat % 2 ^ 32
      ∃ s', exec (.efheadWrite p v) s = .next s' ∧ s'.xl.eftail = s.xl.eftail ∧ s'.mem = s.mem ∧ s'.xl.efhead =
        if (h + 2 ^ 32 - s.xl.efhead) % 2 ^ 32 ≤ (s.xl.eftail + 2 ^ 32 - s.xl.efhead) % 2 ^ 32 then h else s.xl.efhead)

/-- R33, R36, R37, R60, R300, R323: a waiting creation becomes a thread in the lowest free slot with a block, its registers 0 but those it names;
a die's unit places the next task of its share, where no aged tile waits for the place; a dry die, in the order of the requests, takes the
upper half of the fullest share; CTEN and COVF write an empty core's
registers alone. A creation whose packet the router of its cluster refuses (R310) makes no thread, and leaves the queue (log 113). -/
def Obligations.CreationEvents : Prop :=
  ∀ (s : State), Tidy s →
    let born (s' : State) (c sl o size : Nat) (entry : Word) (org : Origin) := ∃ u, s'.thread c sl = some u ∧ u.pc = entry ∧ u.wp = o ∧
      u.base = o ∧ u.size = size ∧ u.kernel = false ∧ u.halted = false ∧ u.wait = .none ∧ u.pend = 0 ∧ u.flags = ⟨false, false, false, false⟩ ∧
      u.vl = 0 ∧ u.rmode = .rne ∧ u.iflags = 0 ∧ u.repcnt = 0 ∧ u.origin = org ∧ u.inc = ((s.slot c sl).created + 1) % 65536
    (∀ n r sl o, s.eng.creations[n]? = some r → r.flit = none → r.env = none → r.cell = none → r.core < Config.nCores →
      r.admitted s = true → (∀ w ∈ s.eng.sweeps, w.targets r.core = false) → placeFor s r.core r.bsize = some (sl, o) → r.regs.Pairwise (fun p q => p.1 ≠ q.1) →
      ∃ s', exec (.threadCreation n) s = .next s' ∧ s'.eng.creations = delAt s.eng.creations n ∧ born s' r.core sl o r.bsize r.entry r.origin ∧
        s'.hvec r.core sl = 0 ∧
        (∀ j, j < s.nregs r.core → s'.w64 (winKey r.core (o + 8 * j)) = ((r.regs.find? (fun p => p.1 == j)).map Prod.snd).getD 0)) ∧
    (∀ n r, s.eng.creations[n]? = some r → r.admitted s = false → r.env = none → r.flit = none → (∃ h, r.origin = .applyA h) →
      ∃ s', exec (.threadCreation n) s = .next s' ∧ s'.eng.creations = delAt s.eng.creations n ∧ s'.slots = s.slots ∧ s'.mem = s.mem) ∧
    (∀ l die c x i sl o, servedLaunch s die c = some x → x.id = l → cluOf c / 24 = die → (∀ w ∈ s.eng.sweeps, w.targets c = false) → nextTask x die = some i → placeFor s c x.bsize = some (sl, o) →
      fmtsEqual s c x = true → s.launch l = some x →
      ∃ s' y, exec (.taskPlacement l die c) s = .next s' ∧ born s' c sl o x.bsize x.entry (.task l) ∧ s'.w64 (winKey c o) = BitVec.ofNat 64 i ∧
        s'.w64 (winKey c (o + 8)) = x.arg ∧ s'.launch l = some y ∧
        y.shares = x.shares.map (fun p => if p.1 = die then (p.1, p.2.1 + 1, p.2.2) else p)) ∧
    (∀ l die x b v lo hi, s.tr.steals.head? = some (l, die) → s.launch l = some x → x.id = l → x.shares.find? (fun p => p.1 == die) = some (die, b, b) → victim x = some (v, lo, hi) → s.tr.halted = false →
      let k := (hi - lo) / 2
      ∃ s' y, exec (.dieSteal l die) s = .next s' ∧ s'.mem = s.mem ∧ s'.tr.steals = s.tr.steals.drop 1 ∧ s'.launch l = some y ∧
        y.shares = x.shares.map (fun p => if p.1 = die then (die, hi - k, hi) else if p.1 = v then (p.1, p.2.1, p.2.2 - k) else p)) ∧
    (∀ c v, c < Config.nCores →
      (coreEmpty s c = true → (∃ s', exec (.ctenWrite .comptroller c v) s = .next s' ∧ s'.core c = { s.core c with tenant := v.toNat % 65536 } ∧ s'.mem = s.mem) ∧
        (∃ s', exec (.covfWrite .comptroller c v) s = .next s' ∧ s'.mem = s.mem ∧
          s'.core c = { s.core c with ovfptr := BitVec.ofNat 64 (v.toNat / 65536 * 65536 + v.toNat % 16) })) ∧
      (coreEmpty s c = false → exec (.ctenWrite .comptroller c v) s = .next s ∧ exec (.covfWrite .comptroller c v) s = .next s))

/-! Queues. -/

/-- R314-R318, R326-R329, R331, R333, R372: the stores to a queue page, by the comptroller: the doorbell moves QTAIL when it names at most a ring of
packets, and else sets DBERR; QCFG enables a queue or halts it with ERR 1; SUSPEND, RESUME, SKIP and DESTROY change the state as the
commands say; WSAT satisfies list entries; TEVHEAD moves up to the tail; a destruction at its boundary disables the queue. SUSPEND in STATE 2 is R372's,
with R329. SKIP in STATE 3 after a suspended wait, to STATE 1 with the slots freed and QHEAD standing, is the model's reading (logs 25 and 61), and so is
the moment from which a destruction may abandon a wait (log 26). -/
def Obligations.QueueStores : Prop :=
  ∀ (q : Nat) (v : Word) (kill : Bool) (s : State), q < 1016 →
    let x := s.queue q
    let goal (i : Instr) (y : Queue) := ∃ s', exec i s = .next s' ∧ s'.queue q = y ∧ s'.mem = s.mem ∧ (∀ j, j ≠ q → s'.queue j = s.queue j)
    let idle := x.pkt = [] ∧ x.wasBlocked = false
    let p := Party.comptroller
    twf none (s.tr.queues.map (fun e => (e.1, some e.2))) = true →
    (let good := v.toNat < 2 ^ 32 ∧ x.cfg.getLsbD 0 = true ∧ 1 ≤ x.state ∧ x.state ≤ 4 ∧ (v.toNat + 2 ^ 32 - x.head) % 2 ^ 32 ≤ 2 ^ (x.cfg.toNat / 2 ^ 16 % 32)
     (good → goal (.qdoor p q v) { x with tail := v.toNat, readyAt := if x.tail = x.head then s.time else x.readyAt }) ∧
     (¬ good → goal (.qdoor p q v) { x with dberr := true })) ∧
    (x.state = 0 ∨ x.state = 6 → v.getLsbD 0 = true → ∃ s', exec (.qcfgWrite p q v) s = .next s' ∧
      let y := s'.queue q
      let slot := v.toNat / 2 ^ 48 % 64
      let bad := (s.ten slot 0).getLsbD 0 = false ∨ 64 < v.toNat / 2 ^ 40 % 128 ∨ v.toNat / 2 ^ 16 % 32 < 6 ∨ 20 < v.toNat / 2 ^ 16 % 32 ∨
        v.toNat / 2 ^ 8 % 8 < v.toNat / 2 ^ 2 % 8
      y.head = 0 ∧ y.tail = 0 ∧ y.epri = v.toNat / 2 ^ 2 % 8 ∧ (¬ bad → y.state = 1 ∧ y.err = 0 ∧ s'.mem = s.mem) ∧ (bad → y.state = 4 ∧ y.err = 1)) ∧
    (x.state ∈ [1, 2, 3, 5] → ∃ s', exec (.qcfgWrite p q v) s = .next s' ∧ s'.mem = s.mem ∧ (s'.queue q).state = x.state ∧
      (s'.queue q).cfg.toNat / 2 ^ 2 % 8 = v.toNat / 2 ^ 2 % 8 ∧
      (s'.queue q).epri = if v.toNat / 2 ^ 2 % 8 = x.cfg.toNat / 2 ^ 2 % 8 then x.epri else v.toNat / 2 ^ 2 % 8) ∧
    (x.state = 2 → goal (.suspend p q) { x with state := 3 }) ∧
    (x.state = 1 → idle → goal (.suspend p q) { x with state := 3 }) ∧
    (x.state = 3 → idle → goal (.resume p q) { x with state := 1, err := 0, cause := 0, dberr := false, suspPend := false, wide := false, readyAt := s.time }) ∧
    (x.state = 4 → x.err ≠ 1 → idle → goal (.skip p q) { x with
      head := (x.head + if x.wide then 2 else 1) % 2 ^ 32, state := 1, err := 0, cause := 0, dberr := false, suspPend := false, wide := false, readyAt := s.time }) ∧
    (x.state = 3 → x.wasBlocked = true → ∃ s', exec (.skip p q) s = .next s' ∧ (s'.queue q).state = 1 ∧ (s'.queue q).wasBlocked = false ∧
      (s'.queue q).head = x.head ∧ ∀ w ∈ s'.tr.slots, w.q ≠ q) ∧
    (goal (.destroy p q kill) { x with state := 5, kill := x.kill || kill, readyAt := if x.state = 5 then x.readyAt else s.time }) ∧
    (x.state = 5 → idle → x.kill = false → goal (.queueDestruction q) { x with
      state := 6, cfg := x.cfg &&& ~~~1, suspPend := false, haltPend := none, dlDone := false }) ∧
    (x.wasBlocked = false → ∃ s', exec (.wsat p q v) s = .next s' ∧ s'.mem = s.mem ∧ s'.tr.slots = s.tr.slots.map (fun w =>
      if w.onList = true ∧ w.q = q ∧ w.pa = v.toNat % 2 ^ 56 then { w with done := true } else w)) ∧
    (let h := v.toNat % 2 ^ 32
     ∃ s', exec (.tevheadWrite p v) s = .next s' ∧ s'.mem = s.mem ∧ s'.tr.tevtail = s.tr.tevtail ∧ s'.tr.tevhead =
       if (h + 2 ^ 32 - s.tr.tevhead) % 2 ^ 32 ≤ (s.tr.tevtail + 2 ^ 32 - s.tr.tevhead) % 2 ^ 32 then h else s.tr.tevhead)

/-- R319, R320, R325, R327-R330: a chosen queue's packet is read and checked, or halts the queue; a started packet passes QHEAD and returns EPRI to
PRI; NOP, CONFIG, SIGNAL and TIMESTAMP complete at once, WAIT and ANDBAR block until satisfied, LAUNCH, APPLY and COPY leave work whose completion
subtracts 1 from SIG; ageing raises EPRI; a full set of wait slots spills; a cycle of blocked queues is reported. That a WAIT or ANDBAR passes QHEAD as it
starts and then blocks is the model's reading (log 61), and so is what counts as a quiet tenant and a standing cycle (log 63). -/
def Obligations.PacketEvents : Prop :=
  ∀ (q : Nat) (s : State), Tidy s → q < 1016 →
    let x := s.queue q
    let w (i : Nat) : Word := x.pkt.getD i 0
    let starts (ty : Nat) := mayStart s q ty = true ∧ x.suspPend = false ∧ x.haltPend = none
    let started (s' : State) (live : Nat) (cfg : Word) := s'.queue q = { x with
      head := (x.head + if (w 0).getLsbD 8 then 2 else 1) % 2 ^ 32, pkt := [], epri := cfg.toNat / 4 % 8, readyAt := s.time, live := live, cfg := cfg }
    let quiet := s.tr.slots = []
    let addr (acc : Acc) (k : Nat) := signalKey s (x.cfg.toNat / 2 ^ 48 % 64) acc (w 1) = .ok k ∧ storeWaits s k 8 = false
    let only (s' : State) (k : Nat) := ∀ j, (j < k ∨ k + 8 ≤ j) → byteAt s'.mem j = byteAt s.mem j
    (∀ ws, tellerFree s = true → fetchable s x = true → choice s = some q → x.haltPend = none → readPacket s x = .ok ws → ∃ s',
      exec (.packetFetch q) s = .next s' ∧ s'.mem = s.mem ∧ s'.queue q = { x with pkt := ws }) ∧
    (∀ err cause ws, tellerFree s = true → fetchable s x = true → choice s = some q → x.haltPend = none → readPacket s x = .error (err, cause, ws) →
      ∃ s', exec (.packetFetch q) s = .next s' ∧ (s'.queue q).state = 4 ∧ (s'.queue q).err = err ∧ (s'.queue q).cause = cause ∧ (s'.queue q).head = x.head) ∧
    (starts 0 → ∃ s', exec (.nop q) s = .next s' ∧ s'.mem = s.mem ∧ started s' x.live x.cfg) ∧
    (starts 8 → ∃ s' cfg, exec (.config q) s = .next s' ∧ s'.mem = s.mem ∧ started s' x.live cfg ∧ cfg.toNat / 4 % 8 = (w 1).toNat % 8 ∧
      ∀ j, j < 2 ∨ 5 ≤ j → cfg.getLsbD j = x.cfg.getLsbD j) ∧
    (∀ k, starts 4 → quiet → addr .rmw k → ∃ s', exec (.signal q) s = .next s' ∧ started s' x.live x.cfg ∧ only s' k ∧
      s'.w64 k = (match (w 3).toNat % 4 with | 0 => w 2 | 1 => s.w64 k + w 2 | _ => s.w64 k - w 2)) ∧
    (∀ k, starts 7 → quiet → addr .write k → ∃ s', exec (.timestamp q) s = .next s' ∧ started s' x.live x.cfg ∧ only s' k ∧ s'.w64 k = s.time) ∧
    (∀ k, starts 5 → quiet → addr .rmw k →
      let sat := waitCond ((w 3).toNat % 4) (s.w64 k) (w 2)
      ∃ s', exec (.wait q) s = .next s' ∧ s'.mem = s.mem ∧ (s'.queue q).head = (x.head + if (w 0).getLsbD 8 then 2 else 1) % 2 ^ 32 ∧
        (sat = true → (s'.queue q).state = 1 ∧ s'.tr.slots = [] ∧ (s'.queue q).live = x.live) ∧
        (sat = false → (s'.queue q).state = 2 ∧ (s'.queue q).wasBlocked = true ∧ (s'.queue q).live = x.live + 1 ∧
          s'.tr.slots = [⟨q, k, k, w 2, (w 3).toNat % 4, s.time, false, false, true, none⟩])) ∧
    (∀ k, starts 6 → quiet → addr .rmw k → w 1 ≠ 0 → (∀ j, 2 ≤ j → w j = 0) → ∃ s', exec (.andbar q) s = .next s' ∧ s'.mem = s.mem ∧
      (s'.queue q).state = if s.w64 k = 0 then 1 else 2) ∧
    (∀ ws, starts 1 →
      let r : LaunchReq := ⟨x.cfg.toNat / 2 ^ 48 % 64, s.tenId (x.cfg.toNat / 2 ^ 48 % 64), w 1, (w 2).toNat / 2 ^ 32, (w 2).toNat % 2 ^ 32, w 3⟩
      launchCheck s r = .ok ws → ∃ s' l p, exec (.launchPacket q) s = .next s' ∧ started s' (x.live + 1) x.cfg ∧ s'.tr.launches = s.tr.launches ++ [l] ∧
        s'.tr.pkts = s.tr.pkts ++ [p] ∧ p.sig = w 4 ∧ p.q = q ∧ l.pkt = some p.id ∧ l.left = (w 2).toNat % 2 ^ 32 ∧ l.arg = w 3 ∧ l.entry = ws.getD 0 0) ∧
    (∀ k c, starts 2 → addr .read k → applyCheck s x (s.w64 k) = .ok c → ∃ s' y p, exec (.applyPacket q) s = .next s' ∧ started s' (x.live + 1) x.cfg ∧
      s'.eng.creations = s.eng.creations ++ [y] ∧ y.core = c ∧ y.env = some (s.w64 k) ∧ y.origin = .packet p.id ∧ s'.tr.pkts = s.tr.pkts ++ [p] ∧ p.sig = w 4) ∧
    (∀ f, starts 3 →
      let z : CopySet := { csrc := w 1, cdst := w 2, cshp := w 3, cstr := w 4, ccfg := w 5, cbar := w 6, cfol0 := 0, cfol1 := 0, arm := false }
      copyCheck s (s.tenId (x.cfg.toNat / 2 ^ 48 % 64)) z = .ok f → ∃ s' y p, exec (.copyPacket q) s = .next s' ∧ started s' (x.live + 1) x.cfg ∧
        s'.eng.copies = s.eng.copies ++ [y] ∧ y.cset = z ∧ y.packet = some p.id ∧ y.tag = none ∧ y.kernel = false ∧ y.core / 16 = (w 7).toNat % 128 ∧
        s'.tr.pkts = s.tr.pkts ++ [p] ∧ p.sig = w 8) ∧
    (∀ p k, s.tr.pkts.find? (fun y => y.id == p.id) = some p → p.ready = true → p.dead = false → p.sig ≠ 0 → p.q = q → p.ran = [] ∨ p.rscope ∉ [4, 5] → quiet → storeWaits s k 8 = false →
      signalKey s (x.cfg.toNat / 2 ^ 48 % 64) .rmw p.sig = .ok k → ∃ s', exec (.packetCompletion p.id) s = .next s' ∧ s'.w64 k = s.w64 k - 1 ∧ only s' k ∧
        (s'.queue q).live = x.live - 1 ∧ ∀ y ∈ s'.tr.pkts, y.id ≠ p.id) ∧
    (readyQueue s q x = true → x.epri < 7 → (s.time - (x.readyAt + BitVec.ofNat 64 (64 * 65536000))).toNat < 2 ^ 63 → ∃ s', exec (.queueAgeing q) s = .next s' ∧
      s'.mem = s.mem ∧ s'.queue q = { x with epri := x.epri + 1, readyAt := x.readyAt + BitVec.ofNat 64 (64 * 65536000) }) ∧
    (256 ≤ slotsHeld s → timeGe s.time (s.tr.fullAt + BitVec.ofNat 64 (50 * 65536000)) = true → ∃ s', exec .waitSlotSpill s = .next s' ∧
      s'.tr.fullAt = s.time ∧
      (freeEntry s ≠ none → ∃ e ∈ s'.tr.slots, e.onList = true ∧ e.done = false)) ∧
    (∀ b ea eb, b ≠ q → queueTenant s q ≠ 0 → queueTenant s b = queueTenant s q → (∀ j ∈ [q, b], (s.queue j).wasBlocked = true ∧ (s.queue j).state = 2 ∧ (s.queue j).dlDone = false) →
      tenantQuiet s (queueTenant s q) = true → (∀ y ∈ s.tr.active, y.1 ≠ queueTenant s q) → stuckOn s q b = some ea → stuckOn s b q = some eb → s.tr.tevbase = 0 → ea.q = q → eb.q = b →
      ∃ s', exec (.deadlockReport [q, b]) s = .next s' ∧ (s'.queue q).dlDone = true ∧ (s'.queue b).dlDone = true ∧ s'.tr.tevdrop = (s.tr.tevdrop + 2) % 2 ^ 32 ∧ s'.mem = s.mem)

/-! Events of memory repair, links and time. -/

/-- R310, R311, R337, R339-R345, R347: a scrub leaves every byte; REPAIR and RTRN hold a group and the hold ends; a measured eye below its threshold
sets LOW; CCSCTL and the store's window take writes as R340 states, and what the window then shows is what was written; a good flit whose turn has come is performed and answered or rejected, or forwarded, a bad one replayed; a failed link or CXL port is known
from then on; a port sends its TIME. The refused window write as the comptroller's fault with the block's address is log 109, the chunks that a block
takes log 114, the flit that is repeated, out of turn or forwarded whole log 110, and a teller and function 0 at REPAIR, RTRN and CCSCTL log 16: all of
them the model's. -/
def Obligations.FabricEvents : Prop :=
  ∀ (s : State), Tidy s → twf Eye.reset s.fab.eyes = true → twf false s.fab.cxlDown = true →
    let policy (p : Party) := (p = .comptroller ∨ p = .teller ∨ p = .func 0) ∧ behindBar2 s p = false
    let still (s' : State) := s'.mem = s.mem ∧ s'.slots = s.slots ∧ s'.cores = s.cores ∧ s'.time = s.time
    (∀ l, ∃ s', exec (.patrolScrub l) s = .next s' ∧ MemSame s s' ∧ s' = { s with mem := s'.mem }) ∧
    (∀ p n, policy p → n < 71 → n ∉ [12, 13, 14, 15] →
      let x := s.eye n
      let spare := if n < 12 then 4 else if 16 ≤ n ∧ n < 64 then 1 else 0
      (∃ s', exec (.repair p n) s = .next s' ∧ still s' ∧ s'.eye n = { x with used := if x.used < spare then x.used + 1 else x.used, hold := true }) ∧
      (∃ s', exec (.rtrn p n) s = .next s' ∧ still s' ∧ s'.eye n = { x with hold := true }) ∧
      (∃ s', exec (.retrainHoldEnd n) s = .next s' ∧ still s' ∧ s'.eye n = { x with hold := false }) ∧
      (∀ ew eh lane, ∃ s', exec (.eyeMarginLow n ew eh lane) s = .next s' ∧ s'.mem = s.mem ∧
        s'.eye n = { x with ew := ew, eh := eh, lane := lane, low := decide (ew < 4 * x.wthr) || x.low })) ∧
    (∀ p v, policy p → ∃ s', exec (.ccsctlWrite p v) s = .next s' ∧ still s' ∧
      (v.getLsbD 63 = false → s'.fab.ccsctl.getLsbD 63 = false ∧ s'.fab.ccsBlocks = [] ∧ s'.fab.ccsChunks = []) ∧
      (v.getLsbD 63 = true → (s'.fab.ccsctl.getLsbD 63 = true ↔ s.fab.ccsctl.getLsbD 63 = true ∨ anyThread s = false)) ∧
      s'.fab.ccsctl.toNat % 256 = v.toNat % 256 ∧ s'.fab.ccsctl.toNat / 2 ^ 21 % 2 ^ 35 = v.toNat / 2 ^ 21 % 2 ^ 35) ∧
    (∀ b d n, 1 ≤ n → n ≤ 8 →
      let i : Instr := .ccsWindowWrite .comptroller b d n
      let need := ccsUsed s - (tget [] s.fab.ccsChunks b).length + n
      let l := ccsChoose s b n
      (s.fab.ccsctl.getLsbD 63 = true → d.length = 4096 → b < 262144 → need ≤ ccsTotal s → ∃ s', exec i s = .next s' ∧ s'.slots = s.slots ∧
        s'.cores = s.cores ∧ s'.time = s.time ∧ tget [] s'.fab.ccsChunks b = l ∧ ccsBlock s' b = d ∧
        ∀ k, (∀ j ∈ l, k < ccsKey s j ∨ ccsKey s j + 512 ≤ k) → byteAt s'.mem k = byteAt s.mem k) ∧
      (s.fab.ccsctl.getLsbD 63 = false ∨ ccsTotal s < need →
        exec i s = .next (takeTrap s Config.comptroller 0 0x07 (BitVec.ofNat 64 (Config.devBase + 0x80000000 + 4096 * b))))) ∧
    (∀ n r g, s.fab.inbound[n]? = some r → r.seq < tget 0 s.fab.seqIn r.port → ∃ s', exec (.flitReceive n g) s = .next s' ∧ still s' ∧
      s'.fab = { s.fab with inbound := delAt s.fab.inbound n }) ∧
    (∀ n r g, s.fab.inbound[n]? = some r → tget 0 s.fab.seqIn r.port < r.seq → exec (.flitReceive n g) s = .next s) ∧
    (∀ n r, s.fab.inbound[n]? = some r → r.seq = tget 0 s.fab.seqIn r.port →
      let taken (s' : State) := s'.fab.inbound = delAt s.fab.inbound n ∧ tget 0 s'.fab.seqIn r.port = r.seq + 1
      let answered (s' : State) (c : Nat) (d : List Byte) := taken s' ∧ s'.fab.replies = s.fab.replies ++ [(r.srcMod, c, d)]
      (r.dstMod ≠ s.modid → ∃ s', exec (.flitReceive n true) s = .next s' ∧ still s' ∧ taken s' ∧ s'.fab.forwarded = s.fab.forwarded ++ [r]) ∧
      (r.replays < 32 → ∃ s', exec (.flitReceive n false) s = .next s' ∧ still s' ∧ s'.fab.inbound = setAt s.fab.inbound n { r with replays := r.replays + 1 }) ∧
      (∀ c, r.dstMod = s.modid → linkTarget s r = .error c → ∃ s', exec (.flitReceive n true) s = .next s' ∧ still s' ∧ answered s' c []) ∧
      (∀ k x, r.dstMod = s.modid → linkTarget s r = .ok k → r.kind = .migrate x → ∃ s', exec (.flitReceive n true) s = .next s' ∧ still s' ∧ answered s' 0 [] ∧
        s'.eng.flits = s.eng.flits ++ [r.brings x]) ∧
      (∀ k p, r.dstMod = s.modid → linkTarget s r = .ok k → placeOf k = .hbm p → r.kind = .write →
        ∃ s', exec (.flitReceive n true) s = .next s' ∧ answered s' 0 [] ∧ (∀ j, byteAt s'.mem j = if k ≤ j ∧ j < k + r.data.length then r.data.getD (j - k) 0 else byteAt s.mem j)) ∧
      (∀ k p m, r.dstMod = s.modid → linkTarget s r = .ok k → placeOf k = .hbm p → r.kind = .read m → s.poison = [] → ∃ s', exec (.flitReceive n true) s = .next s' ∧ still s' ∧
        answered s' 0 (bytesAt s.mem k m))) ∧
    (∀ m, (∃ s', exec (.linkFailure m true) s = .next s' ∧ still s' ∧ m ∈ s'.fab.unreach ∧ ∀ j, j ≠ m → (j ∈ s'.fab.unreach ↔ j ∈ s.fab.unreach)) ∧
      (∃ s', exec (.linkFailure m false) s = .next s' ∧ still s' ∧ m ∉ s'.fab.unreach)) ∧
    (∀ p, p < 48 → ∃ s', exec (.timeMessageSend p) s = .next s' ∧ still s' ∧ tget 0 s'.fab.timeMsgs p = s.time) ∧
    (∀ p, p < 4 → ∃ s', exec (.cxlLinkDown p) s = .next s' ∧ still s' ∧ tget false s'.fab.cxlDown p = true)

/-- R345, R350, R353: the events of TIME: an edge latches it; a good time-of-day message fills TTOD; a source or a peer's message sets OFFS and
SRC, a peer's where its module is the nearest that has a grandmaster; a source silent for 3 s, or a 1PPS without an edge, sets HOLD and 10 s later clears
LOCK; as time passes, TIME gains it at TRATE's trim and each wrap counts in TIMEERA; TSTEP adds while it is allowed. TIME_WRAP stands for the time up to
the next wrap, so it has its occasion in every state: what elapses is 2^64 less TIME. -/
def Obligations.TimeEvents : Prop :=
  ∀ (s : State) (v w : Word) (n : Nat), Tidy s →
    let still (s' : State) := s'.mem = s.mem ∧ s'.slots = s.slots ∧ s'.cores = s.cores
    let second := 1000000000 * 65536
    (∃ s', exec .ppsEdge s = .next s' ∧ still s' ∧ s'.time = s.time ∧ s'.tm = { s.tm with tlatch := s.time, edgeAt := some s.real }) ∧
    (Config.todCrc (v.toNat + 2 ^ 64 * (w.toNat % 2 ^ 48)) % 2 ^ 16 = w.toNat / 2 ^ 48 → edgeMissing s = true → ∃ s', exec (.todMessage v w) s = .next s' ∧ still s' ∧
      s'.tm = { s.tm with ttodLo := v, ttodHi := w }) ∧
    (∀ e, Config.todCrc (v.toNat + 2 ^ 64 * (w.toNat % 2 ^ 48)) % 2 ^ 16 = w.toNat / 2 ^ 48 → s.tm.edgeAt = some e → s.real < e + 3 * second →
      ∃ s', exec (.todMessage v w) s = .next s' ∧ still s' ∧ s'.time = s.time ∧
      s'.tm.ttodLo = v ∧ s'.tm.ttodHi = w ∧ s'.tm.src = 1 ∧ s'.tm.hops = 0 ∧ s'.tm.hold = false ∧
      let d := (s.tm.tlatch - BitVec.ofNat 64 (v.toNat % 2 ^ 48 * second)).toInt * 1000 / 65536
      ((-2147483648 ≤ d ∧ d ≤ 2147483647 → s'.tm.offs.toInt = d) ∧ (2147483647 < d → s'.tm.offs.toInt = 2147483647) ∧ (d < -2147483648 → s'.tm.offs.toInt = -2147483648) ∧
        ((d < -100000 ∨ 100000 < d) → s'.tm.lock = false))) ∧
    (n < 48 → nearestPort n = false → exec (.timeMessageReceive n v w) s = .next s) ∧
    (s.tm.src ≠ 1 → n < 48 → nearestPort n = true → ∃ s', exec (.timeMessageReceive n v w) s = .next s' ∧ still s' ∧ s'.time = s.time ∧ s'.tm.src = 2 ∧
      1 ≤ s'.tm.hops ∧ s'.tm.hops ≤ 6 ∧
      let d := (s.time - (v + BitVec.ofNat 64 (w.toNat / 2))).toInt * 1000 / 65536
      (-2147483648 ≤ d ∧ d ≤ 2147483647 → s'.tm.offs.toInt = d)) ∧
    (s.tm.src = 1 → s.tm.hold = false → s.tm.edgeAt = none ∨ (∃ e, s.tm.edgeAt = some e ∧ e + 3 * second ≤ s.real) →
      ∃ s', exec .timeSourceLoss s = .next s' ∧ still s' ∧ s'.tm = { s.tm with hold := true, holdAt := s.time }) ∧
    (s.tm.src ≠ 0 → s.tm.hold = false → s.time - (s.tm.lastAt + BitVec.ofNat 64 (3 * second)) < 0x8000000000000000 →
      ∃ s', exec .timeSourceLoss s = .next s' ∧ still s' ∧ s'.tm = { s.tm with hold := true, holdAt := s.time }) ∧
    (s.tm.hold = true → s.time - (s.tm.holdAt + BitVec.ofNat 64 (10 * second)) < 0x8000000000000000 →
      ∃ s', exec .holdoverLockExpiry s = .next s' ∧ still s' ∧ s'.time = s.time ∧ s'.tm = { s.tm with lock := false, good := false }) ∧
    (∃ s', exec .timeWrap s = .next s' ∧ still s' ∧ s'.time = 0 ∧ s'.real = s.real + (2 ^ 64 - s.time.toNat) ∧ s'.tm = { s.tm with era := (s.tm.era + 1) % 2 ^ 32 }) ∧
    (∀ d, -109951162 ≤ s.tm.trate.toInt → s.tm.trate.toInt ≤ 109951162 →
      let g := s.tm.frac + ((d : Int) * (2 ^ 40 + s.tm.trate.toInt)).toNat
      let z := s.time.toNat + g / 2 ^ 40
      passTime s d = { s with time := BitVec.ofNat 64 z, real := s.real + d, tm := { s.tm with frac := g % 2 ^ 40, era := (s.tm.era + z / 2 ^ 64) % 2 ^ 32 } }) ∧
    (∃ s', exec (.tstep .comptroller v) s = .next s' ∧ still s' ∧ s'.tm = s.tm ∧
      s'.time = if s.tm.everLock = false ∨ anyThread s = false then s.time + v else s.time) ∧
    (∀ p, p ≠ .comptroller → exec (.tstep p v) s = .next s)

/-! Trace and snapshots. -/

/-- R355-R358, R360: ACTL, ARHEAD and the staging buffer act as their rules state; a trigger latches once and else counts in MISS; FIRE is source 4,
SNAPIN source 3; ARM lets the next trigger latch. Of the triggers of one ck the lowest source names the snapshot. FIRE and ARM by a teller and function 0
are the model's reading (log 16). -/
def Obligations.AssayEvents : Prop :=
  ∀ (s : State) (c : Nat) (v : Word), Tidy s → c < Config.nClusters →
    let x := s.clu c
    let policy (p : Party) := (p = .comptroller ∨ p = .teller ∨ p = .func 0) ∧ behindBar2 s p = false
    let latched (s' : State) (src tag : Nat) (tid : Word) := s'.mem = s.mem ∧ s'.slots = s.slots ∧ s'.cores = s.cores ∧
      let named : SnapSt := { s'.snap with src := src, trigTag := tag, trigTid := tid, trigTime := s.time, trigNo := s.snap.trigCnt + 1 }
      let missed := if 65535 ≤ s.snap.miss then 65535 else s.snap.miss + 1
      s'.snap.frozen = true ∧ s'.snap.trigCnt = s.snap.trigCnt + 1 ∧ s'.snap.cmask = s.snap.cmask ∧
      (s.snap.frozen = false → s'.snap = named ∧ s'.snap.trigCk = some (s.ckAt 20) ∧ s'.snap.miss = s.snap.miss ∧ s'.snap.latched = latchAll s) ∧
      (s.snap.frozen = true → s'.snap.miss = missed ∧ s'.snap.latched = s.snap.latched ∧
        (s.snap.trigCk = some (s.ckAt 20) → src < s.snap.src → s'.snap = named) ∧
        ((s.snap.trigCk ≠ some (s.ckAt 20) ∨ s.snap.src ≤ src) → s'.snap = { s.snap with trigCnt := s.snap.trigCnt + 1, miss := missed }))
    (∃ s', exec (.actlWrite c v) s = .next s' ∧ s'.mem = s.mem ∧ s'.slots = s.slots ∧
      let on := v.getLsbD 0
      s'.clu c = { x with actl := v &&& 0x1F9, adrop := if on = true ∧ x.actl.getLsbD 0 = false then 0 else x.adrop, staging := if on = true then x.staging else [] }) ∧
    (let h := v.toNat % 2 ^ 32
     ∃ s', exec (.arheadWrite c v) s = .next s' ∧ s'.mem = s.mem ∧ s'.slots = s.slots ∧ s'.clu c = { x with arhead :=
       if (h + 2 ^ 32 - x.arhead) % 2 ^ 32 ≤ (x.artail + 2 ^ 32 - x.arhead) % 2 ^ 32 then h else x.arhead }) ∧
    (∀ r l, x.staging = r :: l → (x.artail + 2 ^ 32 - x.arhead) % 2 ^ 32 < 2 ^ (x.arbase.toNat % 32) →
      let k := keyOf s.modid (x.arbase.toNat / 2 ^ 16 % 2 ^ 40 * 2 ^ 16 + 32 * (x.artail % 2 ^ (x.arbase.toNat % 32)))
      ∃ s', exec (.traceRecordWrite c) s = .next s' ∧ s'.slots = s.slots ∧ s'.clu c = { x with staging := l, artail := (x.artail + 1) % 2 ^ 32 } ∧
        s'.w64 k = r.w0 ∧ s'.w64 (k + 8) = r.w1 ∧ s'.w64 (k + 16) = r.w2 ∧ s'.w64 (k + 24) = r.w3 ∧ MemBut s s' k 32) ∧
    (∀ src tag tid, ∃ s', exec (.snapshotTrigger src tag tid) s = .next s' ∧ latched s' src tag tid) ∧
    (∃ s', exec .snapin s = .next s' ∧ latched s' 3 0 0) ∧
    (∀ p, policy p → (∃ s', exec (.fire p) s = .next s' ∧ latched s' 4 0 0) ∧
      (∃ s', exec (.arm p) s = .next s' ∧ s' = { s with snap := { s.snap with frozen := false, miss := 0, trigCk := none } }))

/-! The security block. -/

/-- R361-R366, R370, R371: each SPDM request gets the reply that R363 gives it in its order, or none; FWVERIFY, FWDIG and FWSWITCH start and end as their rules state; an accepted
switch keeps the structure, halts the seven Treasury cores and starts the target image; a heartbeat in time makes it active, and none rolls it back;
power-on starts the image FWSEL names, the other, or stops with BOOTERR. Reply codes are presumed (log 8), and the places of copies in flash and
of the kept structure's images are the model's (log 5, log 8), and that WP of the started threads is the slot's kernel frame is its reading of R278
(log 112). -/
def Obligations.SecurityBlock : Prop :=
  ∀ (s : State) (v : Word), Tidy s →
    let x := s.sec
    let sp := x.spdm
    let reply (i : Instr) (f : SpdmSt) (r : Option (Nat × List Nat)) := exec i s = .next { s with sec := { x with spdm := { f with reply := r } } }
    let alone (i : Instr) (y : SecSt) := exec i s = .next { s with sec := y }
    let chain := (Config.certChain ()).map BitVec.toNat
    let cert := Sm3.digest (Config.certChain ())
    let free := x.state = 0 ∨ x.state = 4
    let runs (s' : State) (i : Nat) (w0 w1 : Word) := ∀ c, Config.comptroller ≤ c → c ≤ Config.comptroller + 6 → ∃ u, s'.thread c 0 = some u ∧ u.kernel = true ∧ u.halted = false ∧ u.wait = .none ∧
      u.wp = 0x800 ∧ u.pc = BitVec.ofNat 64 (Config.fwBase i + flashNat s (slotAt i + 0x18) 8) ∧ s'.w64 (winKey c u.wp) = w0 ∧ s'.w64 (winKey c (u.wp + 8)) = w1
    reply .getVersion { sp with version := true, caps := false, algs := false, session := 0 } (some (4, [0x12, 0x13])) ∧
    (sp.version = true → reply .getCapabilities { sp with caps := true } (some (0x61, []))) ∧
    (sp.caps = true → reply (.negotiateAlgorithms 1 1 1) { sp with algs := true } (some (0x63, [1, 1, 1]))) ∧
    (∀ a h e, (a, h, e) ≠ (1, 1, 1) → reply (.negotiateAlgorithms a h e) sp none) ∧
    (sp.algs = true →
      reply .getDigests sp (some (1, [leNat cert])) ∧
      (∀ o n, reply (.getCertificate 0 o n) sp (some (2, (chain.drop o).take n))) ∧
      (∀ n, reply (.challenge 0 n) sp (some (3, [leNat cert, Config.sm2Sign n]))) ∧
      (∀ n, reply (.getMeasurements 3 n) sp (some (0x60, [x.measA, Config.sm2Sign n])) ∧ reply (.getMeasurements 4 n) sp (some (0x60, [x.measB, Config.sm2Sign n]))) ∧
      (∀ n, ∃ l, l.length = 6 ∧ reply (.getMeasurements 0xFF n) sp (some (0x60, l ++ [Config.sm2Sign n]))) ∧
      (∀ n, sp.session = 0 → reply (.keyExchange n) { sp with session := 1 } (some (0x64, [Config.spdmSecret n, Config.sm2Sign n])))) ∧
    (sp.algs = false → (∀ m n, reply .getDigests sp none ∧ reply (.getCertificate 0 m n) sp none ∧ reply (.challenge m n) sp none ∧ reply (.getMeasurements m n) sp none ∧ reply (.keyExchange m) sp none)) ∧
    (∀ m, sp.session = 1 → reply (.finish m) { sp with session := 2 } (some (0x65, []))) ∧
    (sp.session = 2 → reply .endSession { sp with session := 0 } (some (0x6C, []))) ∧
    (free → alone (.fwverify .comptroller v) { x with state := 1, vres := 0, vslot := v.toNat % 2 } ∧
      alone (.fwswitch .comptroller v) { x with state := 2, sres := 0, swAddr := v.toNat / 64 * 64, swTarget := v.toNat % 2 }) ∧
    (∀ p, p ≠ .comptroller → exec (.fwverify p v) s = .next s ∧ exec (.fwswitch p v) s = .next s ∧ exec (.fwhb p v) s = .next s ∧ exec (.fwdig p v) s = .next s) ∧
    (x.state = 1 → ∃ s', exec .fwverifyDone s = .next s' ∧ s'.mem = s.mem ∧ s'.slots = s.slots ∧ s'.sec.state = 0 ∧ s'.sec.vres = verifySlot s x.vslot ∧
      (x.vslot = 0 → s'.sec.measA = measure s 0 ∧ s'.sec.measB = x.measB) ∧ (x.vslot = 1 → s'.sec.measB = measure s 1 ∧ s'.sec.measA = x.measA)) ∧
    (let a := v.toNat % 2 ^ 56 / 64 * 64
     let legal := x.fwdigl % 64 = 0 ∧ 64 ≤ x.fwdigl ∧ x.fwdigl ≤ 65536 ∧
       (a + x.fwdigl ≤ Config.hbmBytes ∨ (Config.directBase ≤ a ∧ a + x.fwdigl ≤ Config.directBase + Config.hbmBytes))
     x.digBusy = false → (legal → alone (.fwdig .comptroller v) { x with digBusy := true, digBad := false, digAddr := a, digLen := x.fwdigl }) ∧
       (¬ legal → alone (.fwdig .comptroller v) { x with digBad := true })) ∧
    (x.digBusy = true → s.poison = [] → x.digAddr + x.digLen ≤ 2 ^ 56 → alone .fwdigDone { x with digBusy := false, fwdigr := leNat (Sm3.digest (bytesFrom s x.digAddr x.digLen)) }) ∧
    (x.state = 2 → switchRes s ≠ 1 → alone .fwswitchDone { x with sres := switchRes s, state := 0 }) ∧
    (x.state = 2 → switchRes s = 1 → s.tr.queues = [] → ∃ s', exec .fwswitchDone s = .next s' ∧ s'.sec.state = 3 ∧ s'.sec.sres = 1 ∧ s'.sec.startTime = s.time ∧
      s'.sec.hocopy = bytesFrom s x.swAddr (leNat (bytesFrom s (x.swAddr + 8) 8)) ∧
      runs s' x.swTarget (BitVec.ofNat 64 x.swAddr) (if x.active = x.swTarget then 0 else 0x018000180000)) ∧
    (x.state = 3 →
      let late := (s.time - (x.startTime + BitVec.ofNat 64 (x.fwhbt * 65536000))).toNat < 2 ^ 63
      (¬ late → ∃ s', exec (.fwhb .comptroller v) s = .next s' ∧ s' = { s with sec := s'.sec } ∧ s'.sec.state = 0 ∧ s'.sec.active = x.swTarget) ∧
      (late → exec (.fwhb .comptroller v) s = .next s) ∧
      (late → ∃ s', exec .fwRollback s = .next s' ∧ s'.sec.state = 4 ∧ s'.sec.hocopy = x.hocopy ∧ (verifySlot s x.prev = 1 → runs s' x.prev 0x018000180000 1))) ∧
    (verifyImg s 0 0x400000 = 1 →
      let a := x.fwsel
      (verifySlot s a = 1 → ∃ s', exec (.powerOn none) s = .next s' ∧ s'.sec.active = a ∧ s'.sec.booterr = 0 ∧ s'.pwr.on = true ∧ runs s' a 0 0) ∧
      (verifySlot s a ≠ 1 → verifySlot s (1 - a) = 1 → ∃ s', exec (.powerOn none) s = .next s' ∧ s'.sec.active = 1 - a ∧ s'.sec.booterr = 0 ∧ runs s' (1 - a) 0 0) ∧
      (verifySlot s a ≠ 1 → verifySlot s (1 - a) ≠ 1 → ∃ s', exec (.powerOn none) s = .next s' ∧ s'.sec.booterr.toNat / 2 ^ 56 = 0x53 ∧ ∀ c sl, s'.thread c sl = none) ∧
      (∀ n, n < 12 → ∃ s', exec (.powerOn (some n)) s = .next s' ∧ s'.sec.booterr.toNat / 2 ^ 56 = 0x21 ∧ ∀ c sl, s'.thread c sl = none))

/-! Islands, power and the host. -/

/-- R346, R368, R369, R375: ISLn takes a frequency and a legal voltage and holds the island's issue until the change ends; the thermal thresholds lower, clamp or cut;
power over the limit scales every quadrant island; a policy store writes a device register and one of another party is refused; a host write
through BAR2 lands where its function's tenant may write, below 64 GiB, after the earlier ones of its function. A step of the thermal throttle comes
100 µs after the last, a window of the power limit is 10 ms, and no step goes below the island's lowest frequency. The frequency w times PLIM over PWR,
rounded down, is log 89; the order of held writes, the dropped refusal and the bound of BAR2 log 70; ISLn and PLIM by a teller and function 0, with the
refusal of others, log 16: all of them the model's. -/
def Obligations.IslandsAndHost : Prop :=
  ∀ (s : State) (n : Nat) (v : Word), Tidy s → (s.pwr.isl.map Prod.fst).Pairwise (· < ·) →
    let policy (p : Party) := (p = .comptroller ∨ p = .teller ∨ p = .func 0) ∧ behindBar2 s p = false
    let still (s' : State) := s'.mem = s.mem ∧ s'.slots = s.slots ∧ s'.cores = s.cores ∧ s'.time = s.time
    let x := s.isl n
    (n < 24 →
      (∀ p, policy p →
        let f := v.toNat / 2 ^ 16 % 2 ^ 14
        let u := v.toNat % 2 ^ 10
        ∃ s' y, exec (.islWrite p n v) s = .next s' ∧ still s' ∧ s'.isl n = y ∧ y.fset = f ∧ y.vset = (if 560 ≤ u ∧ u ≤ 760 ∧ u % 5 = 0 then u else x.vset) ∧
          y.hold = (x.hold || decide (y.fset ≠ x.fset ∨ y.vset ≠ x.vset)) ∧ (x.thr = 0 → y.fnow = f) ∧ y.thr = x.thr ∧ ∀ j, j ≠ n → s'.isl j = s.isl j) ∧
      (∃ s', exec (.islandChangeHoldEnd n) s = .next s' ∧ still s' ∧ s'.isl n = { x with hold := false }) ∧
      (∀ tj, ∃ s' y, exec (.thermalThrottle n tj) s = .next s' ∧ still s' ∧ s'.isl n = y ∧ y.tj = tj ∧
        (s'.pwr.on = false ↔ 115 ≤ tj ∨ s.pwr.on = false) ∧
        (110 ≤ tj → tj < 115 → y.thr = 3 ∧ y.fnow = Config.minFreq n) ∧
        (100 ≤ tj → tj < 110 → x.thr ≠ 3 → y.thr = 1 ∧ y.fnow = x.fnow) ∧
        (tj ≤ 97 → x.thr = 1 ∨ x.thr = 3 → y.thr = 0 ∧ y.fnow = x.fset) ∧
        (97 < tj → tj < 100 → y.thr = x.thr ∧ y.fnow = x.fnow)) ∧
      (x.thr = 1 → x.stepAt + 100000 * 65536 ≤ s.real → ∃ s', exec (.throttleStep n) s = .next s' ∧ still s' ∧
        s'.isl n = { x with fnow := min x.fnow (max (x.fnow * 95 / 100) (Config.minFreq n)), stepAt := s.real }) ∧
      (s.real < x.stepAt + 100000 * 65536 → exec (.throttleStep n) s = .next s)) ∧
    (∀ w, s.real < s.pwr.winAt + 10000000 * 65536 → exec (.powerLimitWindow w) s = .next s) ∧
    (∀ w, s.pwr.winAt + 10000000 * 65536 ≤ s.real → ∃ s', exec (.powerLimitWindow w) s = .next s' ∧ still s' ∧ s'.pwr.pwr = w ∧ s'.pwr.winAt = s.real ∧ ∀ j, j < 24 →
      let y := s.isl j
      (j % 5 < 4 → j < 20 → s.pwr.plim < w → y.thr ≠ 3 →
        (s'.isl j).fnow = min y.fnow (max (y.fnow * s.pwr.plim / w) (Config.minFreq j)) ∧ (s'.isl j).thr = (if y.thr = 0 then 2 else y.thr)) ∧
      (j % 5 < 4 → j < 20 → s.pwr.plim < w → y.thr = 3 → s'.isl j = y) ∧
      (j % 5 < 4 → j < 20 → w ≤ s.pwr.plim → y.thr = 2 → (s'.isl j).fnow = y.fset ∧ (s'.isl j).thr = 0) ∧
      ((j % 5 = 4 ∨ 20 ≤ j) → s'.isl j = y)) ∧
    (∀ p, policy p → ∃ s', exec (.registerWrite p 0x018000170000 8 v) s = .next s' ∧ s' = { s with pwr := { s.pwr with plim := v.toNat % 4096 } }) ∧
    (∀ p pa b off, ¬ policy p → placeOf (keyOf s.modid pa) = .dev off → 0x100000 ≤ off → off < 0x180000 → (off < 0x140000 ∨ 0x140200 ≤ off) → exec (.registerWrite p pa b v) s = .next s) ∧
    (∀ f va d, (∃ e ∈ s.fab.bar2Held, e.1 = f) → exec (.hostBar2Write f va d) s =
      .next { s with fab := { s.fab with bar2Held := s.fab.bar2Held ++ [(f, va, d)] } }) ∧
    (∀ f, (∀ e ∈ s.fab.bar2Held, e.1 ≠ f) →
      let slot := tget 0 s.tr.fnten f
      (∀ va k pc b, f ≤ 64 → s.tenId slot ≠ 0 → va.toNat < 2 ^ 36 → resolvePieces (resolveOut s slot .write) (pieceFuel 1) va 1 = .ok [(k, 1)] → placeOf k = .hbm pc →
        ∃ s', exec (.hostBar2Write f va [b]) s = .next s' ∧ byteAt s'.mem k = b ∧ MemBut s s' k 1 ∧ s'.slots = s.slots) ∧
      (∀ va d e, resolvePieces (resolveOut s slot .write) (pieceFuel d.length) va d.length = .error e → exec (.hostBar2Write f va d) s = .next s) ∧
      (∀ va d, 2 ^ 36 < va.toNat + d.length → exec (.hostBar2Write f va d) s = .next s))

/-! The whole machine. -/

/-- R17, R35, R106, R117: where a thread's turn comes, by the surroundings' order or the machine's own, nothing stands at its boundary, and the bytes at
its PC decode to an instruction, the step runs exactly that instruction in the state that the fetch left, ending with the instructions and host writes that a register word held back (R41, R346) and the note of R329. The bytes
are memory's where the slice stores no copy of the line (R23, R24). How turns are ordered is the model's choice (log 1). -/
def Obligations.StepRunsDecoded : Prop :=
  ∀ (s s0 s2 : State) (t : Thread) (c sl k n : Nat) (i : Instr), s.pwr.on = true →
    ((∃ dt l, s.agenda = ⟨dt, .issue c sl⟩ :: l ∧ s0 = beginStep { s with agenda := l } dt) ∨
      (s.agenda = [] ∧ s0 = beginStep s Config.issueTime ∧ ownTurn s0 = .issue c sl)) →
    s0.thread c sl = some t → issuable s0 c sl t = true → boundaryAct s0 c sl t = none → overrunDue s0 c sl t = false →
    let u := { t with wait := .none, nextCk := s0.ckOf c + 8, evCk := s0.ckOf c, evPlace := 1 }
    let room := min 16 (32 - t.pc.toNat % 32)
    fetchPlace (enterIssue s0 c sl) c sl t.kernel t.pc = (.ok k, s2) → fetchRefused s2 c u k = 0 →
    let f := fetchBytes s2 c u k room
    decode (decCtx f.2 c u) (f.1 % 2 ^ (8 * n)) = .ok i n → n = 4 + 4 * (f.1 % 4) → t.pc.toNat % 32 + n ≤ 32 → repcntFits i t.repcnt = true →
    (step s = match exec i f.2 with | .next s3 => .next (noteActive (settleBar2 (settleWrites s3))) | .fault e => .fault e | .refused r => .refused r) ∧
    f.2.cur = ⟨c, sl, none⟩ ∧ Issues f.2 u ∧
    (k % 32 = t.pc.toNat % 32 → pinned c k = true → sliceHas s2 (cluOf c) (k / 64) (viewFloor s2.now u c k) = false → f.1 = natAt s2.mem k room) ∧
    (pinned c k = false → f.1 = natAt s2.mem k room)

/-- R107, R109, R117, R118, R374: where a thread's turn comes and nothing stands at its boundary, the step takes the exception of a fetch that fails; of a
word of LEN 0, subcode 1, of one that would cross a 32-byte boundary, cause 0x02, and of one that a check of the decoder refuses, with its subcode and
bit; in user mode the privileged forms of MAJ 0x3F and MFS of a register not open there are refused with subcode 5. How turns are ordered is the
model's choice (log 1), and so is the order of the checks of a fetch (log 68). -/
def Obligations.StepStopsBadWords : Prop :=
  (∀ (s s0 s2 : State) (t : Thread) (c sl dt : Nat) (l : List Turn), s.pwr.on = true → s.agenda = ⟨dt, .issue c sl⟩ :: l → s0 = beginStep { s with agenda := l } dt →
    s0.thread c sl = some t → issuable s0 c sl t = true → boundaryAct s0 c sl t = none → overrunDue s0 c sl t = false →
    let u := { t with wait := .none, nextCk := s0.ckOf c + 8, evCk := s0.ckOf c, evPlace := 1 }
    let stops (q : State) (cause : Nat) (info : Word) := step s = .next (noteActive (settleBar2 (settleWrites (takeTrap q c sl cause info))))
    (∀ cause info, fetchPlace (enterIssue s0 c sl) c sl t.kernel t.pc = (.error (cause, info), s2) → stops s2 cause info) ∧
    (∀ k, fetchPlace (enterIssue s0 c sl) c sl t.kernel t.pc = (.ok k, s2) → fetchRefused s2 c u k ≠ 0 → stops s2 (fetchRefused s2 c u k) t.pc) ∧
    (∀ k, fetchPlace (enterIssue s0 c sl) c sl t.kernel t.pc = (.ok k, s2) → fetchRefused s2 c u k = 0 →
      let f := fetchBytes s2 c u k (min 16 (32 - t.pc.toNat % 32))
      let n := 4 + 4 * (f.1 % 4)
      (f.1 % 4 = 0 → stops f.2 0x01 1) ∧
      (f.1 % 4 ≠ 0 → 32 < t.pc.toNat % 32 + n → stops f.2 0x02 0) ∧
      (∀ sub b, f.1 % 4 ≠ 0 → t.pc.toNat % 32 + n ≤ 32 → decode (decCtx f.2 c u) (f.1 % 2 ^ (8 * n)) = .bad sub b →
        stops f.2 0x01 (BitVec.ofNat 64 (sub + 256 * b))))) ∧
  (∀ (w : Nat) (hub trig : Bool), w % 4 = 1 → w / 4 % 64 = 0x3F →
    let fn := w / 256 % 256
    let code := w / 2 ^ 41 % 4096
    (fn ∈ [2, 4, 5, 6, 7, 8] ∨ (fn = 3 ∧ code ∉ [8, 10, 32, 33] ∧ (code < 16 ∨ 27 < code)) ∨ (fn = 11 ∧ trig = false)) → decode ⟨false, hub, trig⟩ w = .bad 5 0)

/-- R106-R118: some of the manual's own words decode to the forms it writes beside them, and encode back; a privileged form is refused in
user mode with subcode 5, and a word of LEN 0 with subcode 1. -/
def Obligations.DecodeWords : Prop :=
  (∀ p ∈ ([(0x0000000030880001, .add 8 4 12), (0xFFFFF00000630005, .addi 3 3 (.i23 (-8))), (0x000000009CC50015, .fadd .f32 5 6 7),
      (0x0000000000000029, .exit), (0x0000000180450031, .ld .d 5 2 (.i23 0)), (0x0000900194C00035, .st .d 6 (.i23 0x48) 5),
      (0x0004B0020000012D, .hintAlign 4 600), (0x00000E0010600179, .evmark 3 4 7), (0x00000000000602C1, .claunch 6),
      (0x0000080000E000C1, .mtc 4 7), (0x00000A0000A000D1, .mcfg true 1 5 OrdScope.none), (0x00000000012002E1, .swcancel 9),
      (0x0280260000E100ED, .capt 1 7 0x13 5), (0x00000140080904ED, .applyA 9 2 Option.none ⟨.rel, .pkg⟩), (0x0000000000A702F5, .estat 7 5),
      (0x00000000012003F9, .fcancel 9), (0x00000E00000001FD, .syscall 7)] : List (Nat × Instr)),
    decodeTableWord 64 p.1 = some p.2 ∧ encode p.2 = some p.1) ∧
  decode ⟨false, false, false⟩ 0x00000600000403FD = .bad 5 0 ∧
  decode ⟨true, false, false⟩ 0x00000400000403FD = .ok (.mfs 4 .trapcause) 8 ∧
  decode ⟨true, false, true⟩ 0 = .bad 1 0

/-- R106-R117, R127: for every program form whose operands an encoding can hold, decoding its bits gives it back, with its length, in the context
that permits every form. -/
def Obligations.DecodeEncode : Prop :=
  ∀ (i : Instr) (w : Nat), i.wf = true → encode i = some w →
    decode ⟨true, false, true⟩ w = .ok i (4 + 4 * (w % 4)) ∧ w < 2 ^ (8 * (4 + 4 * (w % 4))) ∧ decodeTableWord 128 w = some i

/-- R62, R299, R314, R341, R353, R364, R365, R368, R369: after reset the tables have their canonical form and list nothing, no core holds a thread, and registers
hold the values that the manual gives. Every byte of memory reads 0, which is the model's choice outside HBM (log 3), and TENANT 0, U 0 and the empty tag
table, of which the manual gives no reset value, are the model's (log 2). -/
def Obligations.ResetState : Prop :=
  let s := State.reset
  Tidy s ∧ s.mem = [] ∧ (∀ c sl, s.thread c sl = none) ∧ (∀ c, (s.core c).wide = false ∧ (s.core c).tags = [] ∧ (s.core c).tenant = 0) ∧
  (∀ c x, tget fmtReset (s.core c).fmt x = 0x888) ∧ (∀ n, (s.clu n).actl = 0 ∧ (s.clu n).u = 0) ∧ (∀ a b, s.tenId a = 0 ∧ s.ten a b = 0) ∧
  (∀ q, q < 1016 → (s.queue q).state = 0 ∧ (s.queue q).cfg = 0) ∧ (∀ j, j < 8 → (s.queue (1016 + j)).state = 1 ∧ (s.queue (1016 + j)).epri = j) ∧
  (∀ n, (s.eye n).low = false) ∧ (∀ n, (s.isl n).vset = 650 ∧ (n < 20 → n % 5 < 4 → (s.isl n).fset = 2700)) ∧ s.pwr.plim = 2400 ∧
  s.tm.hops = 255 ∧ s.tm.lock = false ∧ s.tm.hold = false ∧ s.sec.fwhbt = 20000 ∧ s.sec.state = 0 ∧ s.snap.frozen = false

/-- The canonical form of memory and of the tables of slots, cores and clusters is kept by every step, whatever it performs (log 3). -/
def Obligations.TidyKept : Prop :=
  ∀ (s s' : State), Tidy s → step s = .next s' → Tidy s'

/-- R46, R47, R95, R160, R167, R168, R243, R250, R260, R297, R308, R360: where no store of the thread is outstanding, the forms
that order, hint or send complete at once: HINT.ALIGN, the PHASE and FENCE forms, SEND to a thread that its router admits, SWCANCEL of a register
that is not pending, KDUP onto itself, MIGRTO to the core where the thread stands, TLBINV, SLEEP until a TIME that is past, EVMARK and ASSAYTRIG pass
their own length with every byte as before; MYTID, MSTAT, MPROG, SWSTAT of a register that is not pending, FTEST and CSTAT write Wd; EXIT and ERET.END
free the slot. -/
def Obligations.FormsComplete : Prop :=
  ∀ (s : State) (t : Thread) (d a b : WReg) (k : KReg) (tl : Fin 4) (sc : Scope) (m : BitVec 5) (x : BitVec 16) (kind : Fin 3),
    Tidy s → Ready s t [a, b] → Dst s t d → Drained s t →
    let c := s.cur.core
    let A := opnd s t a
    let B := opnd s t b
    let goal := A.toNat / 2 ^ 49 % 2 ^ 11
    (∀ p ∈ ([(.hintAlign m x, True), (.phaseRel sc, True), (.phaseAcq sc, True), (.phase sc, True), (.fenceRel sc, True), (.fenceAcq sc, True),
        (.fenceAcqRel sc, True),
        (.send d a b x, A.toNat / 2 ^ 60 = 0xA ∧ A.toNat % 2 ^ 29 = 0 ∧ goal < 1536 ∧ s.sameTenant c goal = true ∧ s.routed c (cluOf goal) = true),
        (.swcancel a, True), (.kdup k k, True),
        (.migrto a, A.toNat = c + 2 ^ 11 * s.modid ∧ s.modid < 1024 ∧ c < 1536 ∧ (s.core c).wide = false ∧ t.wp = t.base ∧ t.depth = 1 ∧
          s.msk c s.cur.slot = false ∧ s.inh c s.cur.slot = false ∧ s.sameTenant c c = true),
        (.tlbinv kind a b, (∀ y ∈ s.cores, y.2.wbuf = []) ∧ (kind ≠ 0 ∨ canonical A = true) ∧ (kind = 2 ∨ B.toNat < 65536)),
        (.sleep a, (s.time - A).toNat < 2 ^ 63), (.evmark a b x, True), (.assaytrig x, True)] : List (Instr × Prop)),
      p.2 → ∃ s' u, exec p.1 s = .next s' ∧ s'.thread c s.cur.slot = some u ∧ u.pc = (passed s t 8).pc ∧ u.kernel = t.kernel ∧ MemSame s s') ∧
    (∀ i ∈ ([.mytid d, .mstat d tl, .mprog d, .swstat d a, .ftest d a, .cstat d a] : List Instr), c < 2048 →
      ∃ s' v, exec i s = .next s' ∧ Sets s s' t d v (passed s t 8)) ∧
    (∃ s', exec .exit s = .next s' ∧ s'.thread c s.cur.slot = none) ∧
    (t.pend = 0 → ∃ s', exec .eretEnd s = .next s' ∧ s'.thread c s.cur.slot = none)
end

