-- ==== Sys2Proof/Laws/Encode.lean ====
section
/-! SUPPORT. The laws of the encoder's fields: every code fits its field, and the fields of an instruction's bits are those it was made of. -/

namespace Sys2Proof

/-! Codes fit their fields. -/

theorem Size.code_lt (x : Size) : x.code < 5 := by cases x <;> decide
theorem Cond.code_lt (x : Cond) : x.code < 15 := by cases x <;> decide
theorem FFmt.code_lt (x : FFmt) : x.code < 5 := by cases x <;> decide
theorem ETy.code_lt (x : ETy) : x.code < 9 := by
  cases x with
  | fl f => exact Nat.lt_of_lt_of_le f.code_lt (by decide)
  | _ => decide
theorem STy.code_lt (x : STy) : x.code < 8 := by cases x <;> decide
theorem RMode.code_lt (x : RMode) : x.code < 5 := by cases x <;> decide
theorem Scope.code_lt (x : Scope) : x.code < 6 := by cases x <;> decide
theorem MemOrd.code_lt (x : MemOrd) : x.code < 4 := by cases x <;> decide
theorem CtlReg.code_lt (x : CtlReg) : x.code < 12 := by cases x <;> decide
theorem SysReg.code_lt (x : SysReg) : x.code < 128 := by
  cases x with
  | fmt n => have := n.isLt; simp only [SysReg.code]; omega
  | _ => decide
theorem bitNat_lt (x : Bool) : bitNat x < 2 := by cases x <;> decide

/-! Codes are read back. -/

@[simp] theorem Size.ofCode_code (x : Size) : Size.ofCode x.code = x := by cases x <;> rfl
@[simp] theorem Cond.ofCode_code (x : Cond) : Cond.ofCode x.code = x := by cases x <;> rfl
@[simp] theorem FFmt.ofCode_code (x : FFmt) : FFmt.ofCode x.code = x := by cases x <;> rfl
@[simp] theorem ETy.ofCode_code (x : ETy) : ETy.ofCode x.code = x := by
  cases x with
  | fl f => cases f <;> rfl
  | _ => rfl
@[simp] theorem STy.ofCode_code (x : STy) : STy.ofCode x.code = x := by cases x <;> rfl
@[simp] theorem RMode.ofCode_code (x : RMode) : RMode.ofCode x.code = x := by cases x <;> rfl
@[simp] theorem Scope.ofCode_code (x : Scope) : Scope.ofCode x.code = x := by cases x <;> rfl
@[simp] theorem MemOrd.ofCode_code (x : MemOrd) : MemOrd.ofCode x.code = x := by cases x <;> rfl
@[simp] theorem CtlReg.ofCode_code (x : CtlReg) : CtlReg.ofCode x.code = x := by cases x <;> rfl

/-! The extension parcels. -/

/-- A field below a number of `n` values is below `m * n` with it. -/
theorem pack_lt {x y m n : Nat} (h : x < m) (k : y < n) : x + m * y < m * n := by
  have : m * (y + 1) ≤ m * n := Nat.mul_le_mul_left m k
  rw [Nat.mul_add, Nat.mul_one] at this
  omega

/-- A field and the number above it are read back. -/
theorem pack_eq {x m : Nat} (y : Nat) (h : x < m) : (x + m * y) / m = y ∧ (x + m * y) % m = x := by
  constructor
  · rw [Nat.add_mul_div_left _ _ (Nat.lt_of_le_of_lt (Nat.zero_le _) h), Nat.div_eq_of_lt h, Nat.zero_add]
  · rw [Nat.add_mul_mod_self_left, Nat.mod_eq_of_lt h]

theorem Eng.toNat_lt {g : Eng} (e : g.e < 32) (f : g.f < 32) (s : g.seg < 16) (i : g.im < 2 ^ 50) : g.toNat < 2 ^ 64 := by
  simp only [Eng.toNat]
  omega

/-- The engine layout is read back as it was written (R114). -/
theorem Eng.ofNat_toNat {g : Eng} (e : g.e < 32) (f : g.f < 32) (s : g.seg < 16) : Eng.ofNat g.toNat = g := by
  obtain ⟨a, b, c, d⟩ := g
  simp only [Eng.toNat, Eng.ofNat, Eng.mk.injEq] at *
  omega

theorem MOps.eimm_lt (o : MOps) {fl : Nat} (h : fl < 8) : o.eimm fl < 2 ^ 30 := by
  have h1 := o.km1.isLt
  have h2 := o.t.isLt
  have h3 := o.ta.isLt
  have h4 := o.tb.isLt
  have h5 := bitNat_lt o.acc
  simp only [MOps.eimm]
  omega

theorem VOpnd.code_lt (x : VOpnd) : x.code < 3 := by cases x <;> decide

/-- Parcel 2 of a vector form fits its parcel (R113). -/
theorem VPar.toNat_lt {v : VPar} (h1 : v.pid < 2) (h2 : v.pia < 2) (h3 : v.pib < 2) (h4 : v.bca < 2) (h5 : v.bcb < 2) (h6 : v.vls < 4)
    (h7 : v.ivl < 8192) (h8 : v.sov < 16) (h9 : v.sove < 2) (h10 : v.op < 4) (h11 : v.res < 32) : v.toNat < 2 ^ 32 :=
  pack_lt h1 (pack_lt h2 (pack_lt h3 (pack_lt h4 (pack_lt h5 (pack_lt h6 (pack_lt h7 (pack_lt h8 (pack_lt h9 (pack_lt h10 h11)))))))))

theorem VExt.par_lt (x : VExt) : x.par.toNat < 2 ^ 32 := by
  obtain ⟨sov, iv, b1, b2, b3, b4, b5⟩ := x
  apply VPar.toNat_lt <;> simp only [VExt.par, bitNat_lt]
  · rcases iv with _ | _
    · exact (by decide : 0 < 4)
    · exact (by decide : 1 < 4)
  · rcases iv with _ | n
    · decide
    · exact n.isLt
  · rcases sov with _ | ⟨_, g⟩
    · decide
    · exact Nat.lt_of_lt_of_le g.isLt (by decide)
  · rcases sov with _ | _
    · exact (by decide : 0 < 2)
    · exact (by decide : 1 < 2)
  · rcases sov with _ | ⟨o, _⟩
    · decide
    · exact Nat.lt_of_lt_of_le o.code_lt (by decide)
  · decide

/-! The whole instruction. -/

/-- A form with an immediate fits its fields. -/
theorem fits_encI {maj fn d a b md : Nat} (r : OrdScope) (i : Imm) (h : maj < 64 ∧ fn < 256 ∧ d < 32 ∧ a < 32 ∧ b < 32 ∧ md < 32) :
    (encI maj fn d a b md r i).fits := by
  have ho := r.ord.code_lt
  have hs := r.scope.code_lt
  obtain ⟨h1, h2, h3, h4, h5, h6⟩ := h
  cases i with
  | i23 v => exact ⟨(by decide : 1 < 4), h1, h2, h3, h4, h5, h6, Nat.lt_trans hs (by decide), ho, v.isLt, (by decide : 0 < 1)⟩
  | i32 v => exact ⟨(by decide : 2 < 4), h1, h2, h3, h4, h5, h6, Nat.lt_trans hs (by decide), ho, (by decide : 0 < 8388608), v.isLt⟩

/-- A form in the engine layout fits its fields. -/
theorem fits_encE {maj fn d a b md : Nat} (r : OrdScope) {g : Eng} (h : maj < 64 ∧ fn < 256 ∧ d < 32 ∧ a < 32 ∧ b < 32 ∧ md < 32)
    (k : g.e < 32 ∧ g.f < 32 ∧ g.seg < 16 ∧ g.im < 2 ^ 50) : (encE maj fn d a b md r g).fits := by
  obtain ⟨h1, h2, h3, h4, h5, h6⟩ := h
  exact ⟨(by decide : 3 < 4), h1, h2, h3, h4, h5, h6, Nat.lt_trans r.scope.code_lt (by decide), r.ord.code_lt, (by decide : 0 < 8388608),
    Eng.toNat_lt k.1 k.2.1 k.2.2.1 k.2.2.2⟩

/-- A vector form fits its fields. -/
theorem fits_encV {maj fn md imm : Nat} (o : VOps) (h : maj < 64 ∧ fn < 256 ∧ md < 32 ∧ imm < 8388608) : (encV maj fn o md imm).fits := by
  obtain ⟨h1, h2, h3, h4⟩ := h
  exact ⟨(by decide : 2 < 4), h1, h2, o.d.isLt, o.a.isLt, o.b.isLt, h3, (by decide : 0 < 8), (by decide : 0 < 4), h4, o.x.par_lt⟩

/-- The fields of an instruction's bits are those it was made of (R106, R110). -/
theorem Head.ofNat_toNat {h : Head} (f : h.fits) : Head.ofNat h.toNat = h := by
  obtain ⟨h1, h2, h3, h4, h5, h6, h7, h8, h9, h10, h11⟩ := f
  unfold Head.ofNat Head.toNat
  dsimp only
  rw [(pack_eq _ h1).1, (pack_eq _ h1).2, (pack_eq _ h2).1, (pack_eq _ h2).2, (pack_eq _ h3).1, (pack_eq _ h3).2, (pack_eq _ h4).1, (pack_eq _ h4).2,
    (pack_eq _ h5).1, (pack_eq _ h5).2, (pack_eq _ h6).1, (pack_eq _ h6).2, (pack_eq _ h7).1, (pack_eq _ h7).2, (pack_eq _ h8).1, (pack_eq _ h8).2,
    (pack_eq _ h9).1, (pack_eq _ h9).2, (pack_eq _ h10).1, (pack_eq _ h10).2, Nat.mod_eq_of_lt h11]

/-- Bits of an instruction fit its length (R107). -/
theorem Head.toNat_lt {h : Head} (f : h.fits) (l : h.len ≠ 0) : h.toNat < 2 ^ (8 * (4 + 4 * h.len)) := by
  obtain ⟨h1, h2, h3, h4, h5, h6, h7, h8, h9, h10, h11⟩ := f
  have k := pack_lt h1 (pack_lt h2 (pack_lt h3 (pack_lt h4 (pack_lt h5 (pack_lt h6 (pack_lt h7 (pack_lt h8 (pack_lt h9 (pack_lt h10 h11)))))))))
  refine Nat.lt_of_lt_of_le k ?_
  have c : h.len = 1 ∨ h.len = 2 ∨ h.len = 3 := by omega
  rcases c with c | c | c <;> rw [c] <;> decide

end Sys2Proof
end

