-- ==== Sys2Proof/Laws/Table.lean ====
section
/-! SUPPORT. The laws of sparse tables and of memory: what a read gives after a write, and that every operation keeps the canonical form. -/

namespace Sys2Proof.Machine

variable {α : Type}

/-! One entry. -/

@[simp] theorem tget_nil (d : α) (k : Nat) : tget d [] k = d := rfl

@[simp] theorem tget_tins_self (d v : α) (k : Nat) : ∀ t : List (Nat × α), tget d (tins t k v) k = v
  | [] => by simp [tins, tget]
  | (j, u) :: t => by
    unfold tins
    split
    · simp [tget]
    · split
      · simp [tget]
      · simp [tget, *, tget_tins_self d v k t]

theorem tget_tins_ne (d v : α) {k q : Nat} (h : q ≠ k) : ∀ t : List (Nat × α), tget d (tins t k v) q = tget d t q
  | [] => by simp [tins, tget, h]
  | (j, u) :: t => by
    unfold tins
    split
    · subst_vars
      simp [tget, h]
    · split
      · simp only [tget, h, if_false]
        by_cases hq : q < k
        · have : ¬ q = j := by omega
          have : q < j := by omega
          simp [*]
        · simp [hq]
      · simp [tget, tget_tins_ne d v h t]

theorem twfFrom_mono [DecidableEq α] {d : α} {t : List (Nat × α)} {m n : Nat} (h : m ≤ n) (w : twfFrom d n t = true) :
    twfFrom d m t = true := by
  cases t with
  | nil => rfl
  | cons x t =>
    obtain ⟨j, v⟩ := x
    simp only [twfFrom, Bool.and_eq_true, decide_eq_true_eq] at *
    exact ⟨⟨by omega, w.1.2⟩, w.2⟩

theorem tget_below [DecidableEq α] {d : α} {k : Nat} : ∀ {t : List (Nat × α)} {n : Nat}, twfFrom d n t = true → k < n → tget d t k = d
  | [], _, _, _ => rfl
  | (j, v) :: t, n, w, h => by
    simp only [twfFrom, Bool.and_eq_true, decide_eq_true_eq] at w
    have h1 : ¬ k = j := by omega
    have h2 : k < j := by omega
    simp [tget, h1, h2]

theorem tget_tdel_self [DecidableEq α] {d : α} {k : Nat} : ∀ {t : List (Nat × α)} {n : Nat}, twfFrom d n t = true → tget d (tdel t k) k = d
  | [], _, _ => rfl
  | (j, v) :: t, n, w => by
    simp only [twfFrom, Bool.and_eq_true, decide_eq_true_eq] at w
    unfold tdel
    split
    · subst_vars
      exact tget_below w.2 (by omega)
    · split <;> simp [tget, *, tget_tdel_self w.2]

theorem tget_tdel_ne [DecidableEq α] {d : α} {k q : Nat} (h : q ≠ k) :
    ∀ {t : List (Nat × α)} {n : Nat}, twfFrom d n t = true → tget d (tdel t k) q = tget d t q
  | [], _, _ => rfl
  | (j, v) :: t, n, w => by
    simp only [twfFrom, Bool.and_eq_true, decide_eq_true_eq] at w
    unfold tdel
    split
    · rename_i e
      rw [e] at h
      by_cases hq : q < j
      · simp [tget, h, hq, tget_below w.2 (Nat.lt_succ_of_lt hq)]
      · simp [tget, h, hq]
    · split
      · rfl
      · simp [tget, tget_tdel_ne h w.2]

/-- A read of the key just set gives what was set. -/
theorem tget_tset_self [DecidableEq α] {d : α} {t : List (Nat × α)} (w : twf d t = true) (k : Nat) (v : α) : tget d (tset d t k v) k = v := by
  unfold tset
  split
  · subst_vars
    exact tget_tdel_self w
  · simp

/-- A read of the key just set, to a value that stays listed. -/
theorem tget_tset_listed [DecidableEq α] {d v : α} (h : v ≠ d) (t : List (Nat × α)) (k : Nat) : tget d (tset d t k v) k = v := by
  simp [tset, h]

/-- A read of another key gives what it gave. -/
theorem tget_tset_ne [DecidableEq α] {d : α} {t : List (Nat × α)} (w : twf d t = true) {k q : Nat} (h : q ≠ k) (v : α) :
    tget d (tset d t k v) q = tget d t q := by
  unfold tset
  split
  · exact tget_tdel_ne h w
  · exact tget_tins_ne d v h t

/-! The canonical form. -/

theorem twfFrom_tins [DecidableEq α] {d v : α} (hv : v ≠ d) {k : Nat} :
    ∀ {t : List (Nat × α)} {n : Nat}, twfFrom d n t = true → n ≤ k → twfFrom d n (tins t k v) = true
  | [], n, _, h => by simp [tins, twfFrom, h, hv]
  | (j, u) :: t, n, w, h => by
    simp only [twfFrom, Bool.and_eq_true, decide_eq_true_eq] at w
    unfold tins
    split
    · subst_vars
      simp [twfFrom, h, hv, w.2]
    · split
      · simp only [twfFrom, Bool.and_eq_true, decide_eq_true_eq]
        exact ⟨⟨h, hv⟩, ⟨by omega, w.1.2⟩, w.2⟩
      · simp only [twfFrom, Bool.and_eq_true, decide_eq_true_eq]
        exact ⟨w.1, twfFrom_tins hv w.2 (by omega)⟩

theorem twfFrom_tdel [DecidableEq α] {d : α} {k : Nat} : ∀ {t : List (Nat × α)} {n : Nat}, twfFrom d n t = true → twfFrom d n (tdel t k) = true
  | [], _, _ => rfl
  | (j, u) :: t, n, w => by
    simp only [twfFrom, Bool.and_eq_true, decide_eq_true_eq] at w
    unfold tdel
    split
    · exact twfFrom_mono (by omega) w.2
    · split
      · simp only [twfFrom, Bool.and_eq_true, decide_eq_true_eq]
        exact w
      · simp only [twfFrom, Bool.and_eq_true, decide_eq_true_eq]
        exact ⟨w.1, twfFrom_tdel w.2⟩

/-- Setting an entry keeps the canonical form. -/
theorem twf_tset [DecidableEq α] {d : α} {t : List (Nat × α)} (w : twf d t = true) (k : Nat) (v : α) : twf d (tset d t k v) = true := by
  unfold tset
  split
  · exact twfFrom_tdel w
  · rename_i h
    exact twfFrom_tins h w (Nat.zero_le _)

/-- Equal reads at every key make equal tables. -/
theorem twf_ext [DecidableEq α] {d : α} : ∀ {t u : List (Nat × α)} {m n : Nat}, twfFrom d m t = true → twfFrom d n u = true →
    (∀ k, tget d t k = tget d u k) → t = u
  | [], [], _, _, _, _, _ => rfl
  | [], (j, v) :: u, _, _, _, w, h => by
    simp only [twfFrom, Bool.and_eq_true, decide_eq_true_eq] at w
    have := h j
    simp [tget] at this
    exact absurd this.symm w.1.2
  | (j, v) :: t, [], _, _, w, _, h => by
    simp only [twfFrom, Bool.and_eq_true, decide_eq_true_eq] at w
    have := h j
    simp [tget] at this
    exact absurd this w.1.2
  | (i, x) :: t, (j, y) :: u, _, _, wt, wu, h => by
    simp only [twfFrom, Bool.and_eq_true, decide_eq_true_eq] at wt wu
    have hij : i = j := by
      rcases Nat.lt_trichotomy i j with l | e | l
      · have := h i
        have n1 : ¬ i = j := by omega
        simp [tget, n1, l] at this
        exact absurd this wt.1.2
      · exact e
      · have := h j
        have n1 : ¬ j = i := by omega
        simp [tget, n1, l] at this
        exact absurd this.symm wu.1.2
    subst hij
    have hxy : x = y := by simpa [tget] using h i
    subst hxy
    have : t = u := twf_ext wt.2 wu.2 (fun k => by
      rcases Nat.lt_trichotomy k i with l | e | l
      · rw [tget_below wt.2 (by omega), tget_below wu.2 (by omega)]
      · rw [tget_below wt.2 (by omega), tget_below wu.2 (by omega)]
      · have := h k
        have n1 : ¬ k = i := by omega
        have n2 : ¬ k < i := by omega
        simpa [tget, n1, n2] using this)
    rw [this]

/-! Bytes of memory. -/

theorem byteAt_setByte_self {m : List Host.Cell} (w : Memory.wf m = true) (k : Nat) (v : Byte) : byteAt (setByte m k v) k = v :=
  tget_tset_self w k v

theorem byteAt_setByte_ne {m : List Host.Cell} (w : Memory.wf m = true) {k q : Nat} (h : q ≠ k) (v : Byte) :
    byteAt (setByte m k v) q = byteAt m q := tget_tset_ne w h v

theorem wf_setByte {m : List Host.Cell} (w : Memory.wf m = true) (k : Nat) (v : Byte) : Memory.wf (setByte m k v) = true := twf_tset w k v

/-- Storing bytes keeps the canonical form. -/
theorem wf_setBytes : ∀ {m : List Host.Cell}, Memory.wf m = true → ∀ (k : Nat) (l : List Byte), Memory.wf (setBytes m k l) = true
  | _, w, _, [] => w
  | _, w, k, b :: l => wf_setBytes (wf_setByte w k b) (k + 1) l

theorem wf_setNat {m : List Host.Cell} (w : Memory.wf m = true) (k n v : Nat) : Memory.wf (setNat m k n v) = true := wf_setBytes w k _

/-- Bytes outside those stored read as before. -/
theorem byteAt_setBytes_out : ∀ {m : List Host.Cell}, Memory.wf m = true → ∀ (k : Nat) (l : List Byte) {q : Nat}, (q < k ∨ k + l.length ≤ q) →
    byteAt (setBytes m k l) q = byteAt m q
  | _, _, _, [], _, _ => rfl
  | _, w, k, b :: l, q, h => by
    simp only [List.length_cons] at h
    rw [setBytes, byteAt_setBytes_out (wf_setByte w k b) (k + 1) l (by omega), byteAt_setByte_ne w (by omega)]

/-- Each byte stored reads back. -/
theorem byteAt_setBytes_in : ∀ {m : List Host.Cell}, Memory.wf m = true → ∀ (k : Nat) (l : List Byte) {i : Nat}, i < l.length →
    byteAt (setBytes m k l) (k + i) = l.getD i 0
  | _, _, _, [], _, h => by simp at h
  | _, w, k, b :: l, 0, _ => by
    rw [setBytes, byteAt_setBytes_out (wf_setByte w k b) (k + 1) l (by omega), Nat.add_zero, byteAt_setByte_self w]
    rfl
  | _, w, k, b :: l, i + 1, h => by
    simp only [List.length_cons] at h
    have := byteAt_setBytes_in (wf_setByte w k b) (k + 1) l (i := i) (by omega)
    rw [setBytes, show k + (i + 1) = k + 1 + i by omega, this]
    rfl

@[simp] theorem length_bytesAt (m : List Host.Cell) : ∀ (n k : Nat), (bytesAt m k n).length = n
  | 0, _ => rfl
  | n + 1, k => by simp [bytesAt, length_bytesAt m n (k + 1)]

/-- The bytes stored are those read at the same place. -/
theorem bytesAt_setBytes {m : List Host.Cell} (w : Memory.wf m = true) (k : Nat) (l : List Byte) : bytesAt (setBytes m k l) k l.length = l := by
  have gen : ∀ (n : Nat) (m' : List Host.Cell) (l' : List Byte) (k' : Nat), l'.length = n → (∀ i, i < n → byteAt m' (k' + i) = l'.getD i 0) →
      bytesAt m' k' n = l' := by
    intro n
    induction n with
    | zero => intro m' l' k' hl _; simp [bytesAt, List.length_eq_zero_iff.mp hl]
    | succ n ih =>
      intro m' l' k' hl hb
      cases l' with
      | nil => simp at hl
      | cons b l' =>
        simp only [List.length_cons, Nat.add_right_cancel_iff] at hl
        have h0 : byteAt m' k' = b := by simpa using hb 0 (by omega)
        rw [bytesAt, h0, ih m' l' (k' + 1) hl (fun i hi => by
          have := hb (i + 1) (by omega)
          rw [show k' + 1 + i = k' + (i + 1) by omega, this]; rfl)]
  exact gen l.length _ l k rfl (fun i hi => byteAt_setBytes_in w k l hi)

/-- Bytes apart from those stored are read as before. -/
theorem bytesAt_congr {m m' : List Host.Cell} : ∀ (n k : Nat), (∀ i, i < n → byteAt m' (k + i) = byteAt m (k + i)) → bytesAt m' k n = bytesAt m k n
  | 0, _, _ => rfl
  | n + 1, k, h => by
    have h0 : byteAt m' k = byteAt m k := by simpa using h 0 (by omega)
    have hn : bytesAt m' (k + 1) n = bytesAt m (k + 1) n := bytesAt_congr n (k + 1) (fun i hi => by rw [show k + 1 + i = k + (i + 1) by omega]; exact h (i + 1) (by omega))
    simp only [bytesAt, h0, hn]

/-! Numbers. -/

@[simp] theorem length_leBytes : ∀ (n w : Nat), (leBytes n w).length = n
  | 0, _ => rfl
  | n + 1, w => by simp [leBytes, length_leBytes n]

/-- The bytes of a number give it back, modulo its length. -/
theorem leNat_leBytes : ∀ (n w : Nat), leNat (leBytes n w) = w % 256 ^ n
  | 0, w => by simp [leBytes, leNat, Nat.mod_one]
  | n + 1, w => by
    simp only [leBytes, leNat, leNat_leBytes n, BitVec.toNat_ofNat]
    have := Nat.mod_mul (x := w) (a := 256) (b := 256 ^ n)
    rw [Nat.pow_add, Nat.pow_one, Nat.mul_comm (256 ^ n) 256, this]

/-- A number stored reads back, modulo its length (R3). -/
theorem natAt_setNat {m : List Host.Cell} (w : Memory.wf m = true) (k n v : Nat) : natAt (setNat m k n v) k n = v % 256 ^ n := by
  have := bytesAt_setBytes w k (leBytes n v)
  rw [length_leBytes] at this
  rw [natAt, setNat, this, leNat_leBytes]

end Sys2Proof.Machine
end

