-- ==== Sys2Proof/Laws/State.lean ====
section
/-! SUPPORT. The laws of the state's updates: one lemma for each field and update, what a slot, core or cluster reads as after an update, and that updates keep the canonical form. -/

namespace Sys2Proof.Machine

variable (s : State)

/-! setSlot. -/

@[simp] theorem setSlot_mem (c sl : Nat) (x : SlotSt) : (s.setSlot c sl x).mem = s.mem := rfl
@[simp] theorem setSlot_poison (c sl : Nat) (x : SlotSt) : (s.setSlot c sl x).poison = s.poison := rfl
@[simp] theorem setSlot_cores (c sl : Nat) (x : SlotSt) : (s.setSlot c sl x).cores = s.cores := rfl
@[simp] theorem setSlot_clus (c sl : Nat) (x : SlotSt) : (s.setSlot c sl x).clus = s.clus := rfl
@[simp] theorem setSlot_xl (c sl : Nat) (x : SlotSt) : (s.setSlot c sl x).xl = s.xl := rfl
@[simp] theorem setSlot_eng (c sl : Nat) (x : SlotSt) : (s.setSlot c sl x).eng = s.eng := rfl
@[simp] theorem setSlot_tr (c sl : Nat) (x : SlotSt) : (s.setSlot c sl x).tr = s.tr := rfl
@[simp] theorem setSlot_tm (c sl : Nat) (x : SlotSt) : (s.setSlot c sl x).tm = s.tm := rfl
@[simp] theorem setSlot_snap (c sl : Nat) (x : SlotSt) : (s.setSlot c sl x).snap = s.snap := rfl
@[simp] theorem setSlot_sec (c sl : Nat) (x : SlotSt) : (s.setSlot c sl x).sec = s.sec := rfl
@[simp] theorem setSlot_fab (c sl : Nat) (x : SlotSt) : (s.setSlot c sl x).fab = s.fab := rfl
@[simp] theorem setSlot_pwr (c sl : Nat) (x : SlotSt) : (s.setSlot c sl x).pwr = s.pwr := rfl
@[simp] theorem setSlot_time (c sl : Nat) (x : SlotSt) : (s.setSlot c sl x).time = s.time := rfl
@[simp] theorem setSlot_real (c sl : Nat) (x : SlotSt) : (s.setSlot c sl x).real = s.real := rfl
@[simp] theorem setSlot_modid (c sl : Nat) (x : SlotSt) : (s.setSlot c sl x).modid = s.modid := rfl
@[simp] theorem setSlot_cur (c sl : Nat) (x : SlotSt) : (s.setSlot c sl x).cur = s.cur := rfl
@[simp] theorem setSlot_agenda (c sl : Nat) (x : SlotSt) : (s.setSlot c sl x).agenda = s.agenda := rfl
@[simp] theorem setSlot_now (c sl : Nat) (x : SlotSt) : (s.setSlot c sl x).now = s.now := rfl
@[simp] theorem setSlot_picks (c sl : Nat) (x : SlotSt) : (s.setSlot c sl x).picks = s.picks := rfl

/-! setCore. -/

@[simp] theorem setCore_mem (c : Nat) (x : CoreSt) : (s.setCore c x).mem = s.mem := rfl
@[simp] theorem setCore_poison (c : Nat) (x : CoreSt) : (s.setCore c x).poison = s.poison := rfl
@[simp] theorem setCore_slots (c : Nat) (x : CoreSt) : (s.setCore c x).slots = s.slots := rfl
@[simp] theorem setCore_clus (c : Nat) (x : CoreSt) : (s.setCore c x).clus = s.clus := rfl
@[simp] theorem setCore_xl (c : Nat) (x : CoreSt) : (s.setCore c x).xl = s.xl := rfl
@[simp] theorem setCore_eng (c : Nat) (x : CoreSt) : (s.setCore c x).eng = s.eng := rfl
@[simp] theorem setCore_tr (c : Nat) (x : CoreSt) : (s.setCore c x).tr = s.tr := rfl
@[simp] theorem setCore_tm (c : Nat) (x : CoreSt) : (s.setCore c x).tm = s.tm := rfl
@[simp] theorem setCore_snap (c : Nat) (x : CoreSt) : (s.setCore c x).snap = s.snap := rfl
@[simp] theorem setCore_sec (c : Nat) (x : CoreSt) : (s.setCore c x).sec = s.sec := rfl
@[simp] theorem setCore_fab (c : Nat) (x : CoreSt) : (s.setCore c x).fab = s.fab := rfl
@[simp] theorem setCore_pwr (c : Nat) (x : CoreSt) : (s.setCore c x).pwr = s.pwr := rfl
@[simp] theorem setCore_time (c : Nat) (x : CoreSt) : (s.setCore c x).time = s.time := rfl
@[simp] theorem setCore_real (c : Nat) (x : CoreSt) : (s.setCore c x).real = s.real := rfl
@[simp] theorem setCore_modid (c : Nat) (x : CoreSt) : (s.setCore c x).modid = s.modid := rfl
@[simp] theorem setCore_cur (c : Nat) (x : CoreSt) : (s.setCore c x).cur = s.cur := rfl
@[simp] theorem setCore_agenda (c : Nat) (x : CoreSt) : (s.setCore c x).agenda = s.agenda := rfl
@[simp] theorem setCore_now (c : Nat) (x : CoreSt) : (s.setCore c x).now = s.now := rfl
@[simp] theorem setCore_picks (c : Nat) (x : CoreSt) : (s.setCore c x).picks = s.picks := rfl

/-! setClu. -/

@[simp] theorem setClu_mem (n : Nat) (x : CluSt) : (s.setClu n x).mem = s.mem := rfl
@[simp] theorem setClu_poison (n : Nat) (x : CluSt) : (s.setClu n x).poison = s.poison := rfl
@[simp] theorem setClu_slots (n : Nat) (x : CluSt) : (s.setClu n x).slots = s.slots := rfl
@[simp] theorem setClu_cores (n : Nat) (x : CluSt) : (s.setClu n x).cores = s.cores := rfl
@[simp] theorem setClu_xl (n : Nat) (x : CluSt) : (s.setClu n x).xl = s.xl := rfl
@[simp] theorem setClu_eng (n : Nat) (x : CluSt) : (s.setClu n x).eng = s.eng := rfl
@[simp] theorem setClu_tr (n : Nat) (x : CluSt) : (s.setClu n x).tr = s.tr := rfl
@[simp] theorem setClu_tm (n : Nat) (x : CluSt) : (s.setClu n x).tm = s.tm := rfl
@[simp] theorem setClu_snap (n : Nat) (x : CluSt) : (s.setClu n x).snap = s.snap := rfl
@[simp] theorem setClu_sec (n : Nat) (x : CluSt) : (s.setClu n x).sec = s.sec := rfl
@[simp] theorem setClu_fab (n : Nat) (x : CluSt) : (s.setClu n x).fab = s.fab := rfl
@[simp] theorem setClu_pwr (n : Nat) (x : CluSt) : (s.setClu n x).pwr = s.pwr := rfl
@[simp] theorem setClu_time (n : Nat) (x : CluSt) : (s.setClu n x).time = s.time := rfl
@[simp] theorem setClu_real (n : Nat) (x : CluSt) : (s.setClu n x).real = s.real := rfl
@[simp] theorem setClu_modid (n : Nat) (x : CluSt) : (s.setClu n x).modid = s.modid := rfl
@[simp] theorem setClu_cur (n : Nat) (x : CluSt) : (s.setClu n x).cur = s.cur := rfl
@[simp] theorem setClu_agenda (n : Nat) (x : CluSt) : (s.setClu n x).agenda = s.agenda := rfl
@[simp] theorem setClu_now (n : Nat) (x : CluSt) : (s.setClu n x).now = s.now := rfl
@[simp] theorem setClu_picks (n : Nat) (x : CluSt) : (s.setClu n x).picks = s.picks := rfl

/-! setW64. -/

@[simp] theorem setW64_poison (k : Nat) (v : Word) : (s.setW64 k v).poison = s.poison := rfl
@[simp] theorem setW64_slots (k : Nat) (v : Word) : (s.setW64 k v).slots = s.slots := rfl
@[simp] theorem setW64_cores (k : Nat) (v : Word) : (s.setW64 k v).cores = s.cores := rfl
@[simp] theorem setW64_clus (k : Nat) (v : Word) : (s.setW64 k v).clus = s.clus := rfl
@[simp] theorem setW64_xl (k : Nat) (v : Word) : (s.setW64 k v).xl = s.xl := rfl
@[simp] theorem setW64_eng (k : Nat) (v : Word) : (s.setW64 k v).eng = s.eng := rfl
@[simp] theorem setW64_tr (k : Nat) (v : Word) : (s.setW64 k v).tr = s.tr := rfl
@[simp] theorem setW64_tm (k : Nat) (v : Word) : (s.setW64 k v).tm = s.tm := rfl
@[simp] theorem setW64_snap (k : Nat) (v : Word) : (s.setW64 k v).snap = s.snap := rfl
@[simp] theorem setW64_sec (k : Nat) (v : Word) : (s.setW64 k v).sec = s.sec := rfl
@[simp] theorem setW64_fab (k : Nat) (v : Word) : (s.setW64 k v).fab = s.fab := rfl
@[simp] theorem setW64_pwr (k : Nat) (v : Word) : (s.setW64 k v).pwr = s.pwr := rfl
@[simp] theorem setW64_time (k : Nat) (v : Word) : (s.setW64 k v).time = s.time := rfl
@[simp] theorem setW64_real (k : Nat) (v : Word) : (s.setW64 k v).real = s.real := rfl
@[simp] theorem setW64_modid (k : Nat) (v : Word) : (s.setW64 k v).modid = s.modid := rfl
@[simp] theorem setW64_cur (k : Nat) (v : Word) : (s.setW64 k v).cur = s.cur := rfl
@[simp] theorem setW64_agenda (k : Nat) (v : Word) : (s.setW64 k v).agenda = s.agenda := rfl
@[simp] theorem setW64_now (k : Nat) (v : Word) : (s.setW64 k v).now = s.now := rfl
@[simp] theorem setW64_picks (k : Nat) (v : Word) : (s.setW64 k v).picks = s.picks := rfl

/-! Slots, cores and clusters across updates of another part. -/

@[simp] theorem setCore_slot (c : Nat) (x : CoreSt) : (s.setCore c x).slot = s.slot := rfl
@[simp] theorem setCore_thread (c : Nat) (x : CoreSt) : (s.setCore c x).thread = s.thread := rfl
@[simp] theorem setCore_clu (c : Nat) (x : CoreSt) : (s.setCore c x).clu = s.clu := rfl
@[simp] theorem setClu_slot (n : Nat) (x : CluSt) : (s.setClu n x).slot = s.slot := rfl
@[simp] theorem setClu_thread (n : Nat) (x : CluSt) : (s.setClu n x).thread = s.thread := rfl
@[simp] theorem setClu_core (n : Nat) (x : CluSt) : (s.setClu n x).core = s.core := rfl
@[simp] theorem setSlot_core (c sl : Nat) (x : SlotSt) : (s.setSlot c sl x).core = s.core := rfl
@[simp] theorem setSlot_clu (c sl : Nat) (x : SlotSt) : (s.setSlot c sl x).clu = s.clu := rfl
@[simp] theorem setSlot_nregs (c sl : Nat) (x : SlotSt) : (s.setSlot c sl x).nregs = s.nregs := rfl
@[simp] theorem setSlot_w64 (c sl : Nat) (x : SlotSt) : (s.setSlot c sl x).w64 = s.w64 := rfl
@[simp] theorem setCore_w64 (c : Nat) (x : CoreSt) : (s.setCore c x).w64 = s.w64 := rfl
@[simp] theorem setClu_w64 (n : Nat) (x : CluSt) : (s.setClu n x).w64 = s.w64 := rfl
@[simp] theorem setW64_slot (k : Nat) (v : Word) : (s.setW64 k v).slot = s.slot := rfl
@[simp] theorem setW64_thread (k : Nat) (v : Word) : (s.setW64 k v).thread = s.thread := rfl
@[simp] theorem setW64_core (k : Nat) (v : Word) : (s.setW64 k v).core = s.core := rfl
@[simp] theorem setW64_clu (k : Nat) (v : Word) : (s.setW64 k v).clu = s.clu := rfl
@[simp] theorem setW64_nregs (k : Nat) (v : Word) : (s.setW64 k v).nregs = s.nregs := rfl

/-! The part just written. -/

variable {s}

/-- A slot with a thread is read back as it was written. -/
theorem slot_setSlot_live (c sl : Nat) {x : SlotSt} (h : x.thread ≠ none) : (s.setSlot c sl x).slot c sl = x :=
  tget_tset_listed (fun e => h (by rw [e]; rfl)) _ _

/-- A slot apart from one written with a thread is read as before. -/
theorem slot_setSlot_ne_live {c sl c' sl' : Nat} (h : slotKey c' sl' ≠ slotKey c sl) {x : SlotSt} (hx : x.thread ≠ none) :
    (s.setSlot c sl x).slot c' sl' = s.slot c' sl' := by
  have : x ≠ SlotSt.reset := fun e => hx (by rw [e]; rfl)
  simp only [State.slot, State.setSlot, tset, if_neg this]
  exact tget_tins_ne _ _ h _

theorem slot_setSlot_self (w : Tidy s) (c sl : Nat) (x : SlotSt) : (s.setSlot c sl x).slot c sl = x := tget_tset_self w.slots _ _
theorem core_setCore_self (w : Tidy s) (c : Nat) (x : CoreSt) : (s.setCore c x).core c = x := tget_tset_self w.cores _ _
theorem clu_setClu_self (w : Tidy s) (n : Nat) (x : CluSt) : (s.setClu n x).clu n = x := tget_tset_self w.clus _ _

theorem slot_setSlot_ne (w : Tidy s) {c sl c' sl' : Nat} (h : slotKey c' sl' ≠ slotKey c sl) (x : SlotSt) :
    (s.setSlot c sl x).slot c' sl' = s.slot c' sl' := tget_tset_ne w.slots h x
theorem core_setCore_ne (w : Tidy s) {c c' : Nat} (h : c' ≠ c) (x : CoreSt) : (s.setCore c x).core c' = s.core c' := tget_tset_ne w.cores h x
theorem clu_setClu_ne (w : Tidy s) {n n' : Nat} (h : n' ≠ n) (x : CluSt) : (s.setClu n x).clu n' = s.clu n' := tget_tset_ne w.clus h x

/-- A word of memory is read back as it was stored. -/
theorem w64_setW64_self (w : Tidy s) (k : Nat) (v : Word) : (s.setW64 k v).w64 k = v := by
  have h : v.toNat % 256 ^ 8 = v.toNat := Nat.mod_eq_of_lt v.isLt
  rw [State.w64, State.setW64, natAt_setNat w.mem, h, BitVec.ofNat_toNat, BitVec.setWidth_eq]

/-- A word apart from the one stored is read as before. -/
theorem w64_setW64_out (w : Tidy s) {k j : Nat} (h : j + 8 ≤ k ∨ k + 8 ≤ j) (v : Word) : (s.setW64 k v).w64 j = s.w64 j := by
  simp only [State.w64, State.setW64, natAt, setNat]
  rw [bytesAt_congr 8 j (fun i hi => byteAt_setBytes_out w.mem k _ (by rw [length_leBytes]; omega))]

/-- Bytes apart from the word stored read as before. -/
theorem byteAt_setW64_out (w : Tidy s) {k j : Nat} (h : j < k ∨ k + 8 ≤ j) (v : Word) : byteAt (s.setW64 k v).mem j = byteAt s.mem j :=
  byteAt_setBytes_out w.mem k _ (by rw [length_leBytes]; omega)

/-! Every update keeps the canonical form. -/

theorem Tidy.setSlot (w : Tidy s) (c sl : Nat) (x : SlotSt) : Tidy (s.setSlot c sl x) := ⟨w.mem, twf_tset w.slots _ _, w.cores, w.clus⟩
theorem Tidy.setCore (w : Tidy s) (c : Nat) (x : CoreSt) : Tidy (s.setCore c x) := ⟨w.mem, w.slots, twf_tset w.cores _ _, w.clus⟩
theorem Tidy.setClu (w : Tidy s) (n : Nat) (x : CluSt) : Tidy (s.setClu n x) := ⟨w.mem, w.slots, w.cores, twf_tset w.clus _ _⟩
theorem Tidy.setW64 (w : Tidy s) (k : Nat) (v : Word) : Tidy (s.setW64 k v) := ⟨wf_setNat w.mem k 8 _, w.slots, w.cores, w.clus⟩

theorem Tidy.setThread (w : Tidy s) (c sl : Nat) (t : Option Thread) : Tidy (s.setThread c sl t) := w.setSlot c sl _

theorem Tidy.modThread (w : Tidy s) (c sl : Nat) (f : Thread → Thread) : Tidy (s.modThread c sl f) := by
  unfold State.modThread
  split
  · exact w.setThread c sl _
  · exact w

theorem Tidy.setReg (w : Tidy s) (c sl n : Nat) (v : Word) : Tidy (s.setReg c sl n v) := by
  unfold State.setReg
  split
  · exact w
  · exact (w.setSlot c sl _).setW64 _ v

/-- Memory as it stands at reset is in its one form (log 3). -/
theorem reset_mem_wf : Memory.wf State.reset.mem = true := rfl

end Sys2Proof.Machine
end

