-- ==== Sys2Proof/Laws/Ops.lean ====
section
/-! SUPPORT. What the shared operations of a meaning do: the checks and reads where they pass, where they stop, the write of a destination with the advance of the PC, and taking an exception. -/

namespace Sys2Proof.Machine

/-! Running a meaning. -/

theorem run_ok {m : M Unit} {s s' : State} (h : m s = .ok ((), s')) : run m s = .next s' := by simp [run, h]
theorem run_trap {m : M Unit} {s s' : State} {c : Nat} {i : Word} (h : m s = .error (.trap c i s')) :
    run m s = .next (takeTrap s' s.cur.core s.cur.slot c i) := by simp [run, h]
theorem run_wait {m : M Unit} {s s' : State} {w : Wait} (h : m s = .error (.wait w s')) :
    run m s = .next (setWait s' s.cur.core s.cur.slot w) := by simp [run, h]
theorem run_out {m : M Unit} {s s' : State} (h : m s = .error (.out s')) : run m s = .next s' := by simp [run, h]

/-- A meaning in the frame of `run` ends in a next state on every path: no fault, no refusal. -/
theorem run_next (m : M Unit) (s : State) : ∃ s', run m s = .next s' := by
  unfold run
  split <;> exact ⟨_, rfl⟩

/-- One step of a meaning that passes. -/
theorem bind_ok {α β : Type} {m : M α} {f : α → M β} {s s1 : State} {a : α} (h : m s = .ok (a, s1)) : (m >>= f) s = f a s1 := by
  simp [bind, StateT.bind, Except.bind, h]

/-- One step of a meaning that stops. -/
theorem bind_stop {α β : Type} {m : M α} {f : α → M β} {s : State} {e : Stop} (h : m s = .error e) : (m >>= f) s = .error e := by
  simp [bind, StateT.bind, Except.bind, h]

/-! The checks and reads. -/

theorem th_ok {s : State} {t : Thread} (h : Issues s t) : th s = .ok (t, s) := by
  unfold Issues at h
  simp [th, h]

theorem me_ok (s : State) : me s = .ok ((s.cur.core, s.cur.slot), s) := rfl

theorem outOfPart_none {n : Nat} : ∀ {l : List FReg}, (∀ r ∈ l.map Prod.snd, r.val < n) → outOfPart n l = none
  | [], _ => rfl
  | (f, r) :: l, h => by
    have h1 : r.val < n := h r (by simp)
    have h2 : outOfPart n l = none := outOfPart_none (fun x hx => h x (by simp at hx ⊢; exact .inr hx))
    simp [outOfPart, h1, h2]

/-- The partition check passes where every register field lies in the partition (R111). -/
theorem chk_ok {s : State} {l : List FReg} (h : InPart s (l.map Prod.snd)) : chk l s = .ok ((), s) := by
  simp [chk, outOfPart_none (fun r hr => h r hr)]

/-- The first register field past the partition takes its fault (R111). -/
theorem chk_out {s : State} {l : List FReg} {f : Nat} {r : WReg} (h : outOfPart (s.nregs s.cur.core) l = some (f, r)) :
    chk l s = .error (.trap 0x03 (wordOf (f * 2 ^ 21 + r.val * 2 ^ 16)) s) := by simp [chk, h]

/-- A settled register reads as its word (R33, R34). -/
theorem rd_ok {s : State} {t : Thread} {l : List WReg} {r : WReg} (h : Ready s t l) (hr : r ∈ l) : rd r s = .ok (opnd s t r, s) := by
  have h1 := h.issues
  have h2 := h.settled r hr
  unfold Issues at h1
  simp [rd, h1, h2, opnd, State.reg, State.w64, regKey]

/-- A pending source makes the thread wait (R41), or faults once cancelled (R210). -/
theorem rd_pending {s : State} {t : Thread} {r : WReg} (h : Issues s t) (hp : t.pends r.val = true) :
    rd r s = if hCan (opnd s t r) then .error (.trap 0x0E (wordOf r.val) s) else .error (.wait (.pendReg r.val) s) := by
  unfold Issues at h
  simp only [rd, h, hp, if_true]
  rfl

/-- A destination that is free lets the write go on (R41, R210). -/
theorem needDst_ok {s : State} {t : Thread} {d : WReg} (hi : Issues s t) (h : Dst s t d) : needDst d s = .ok ((), s) := by
  unfold Issues at hi
  have hf : (t.pends d.val && !hStop (s.reg s.cur.core t d.val)) = false := by
    rcases h.free with p | p
    · simp [p]
    · have : hStop (s.reg s.cur.core t d.val) = true := p
      simp [this]
  simp [needDst, hi, hf]

/-! A destination written, and the PC past the instruction. -/

theorem thread_of_slot {s : State} {c sl : Nat} {x : SlotSt} (h : s.slot c sl = x) : s.thread c sl = x.thread := by rw [State.thread, h]

/-- What writing a register leaves (R33, R210, R211). -/
theorem setReg_live {s : State} {c sl n : Nat} {v : Word} {t : Thread} (h : s.thread c sl = some t) :
    s.setReg c sl n v = (s.setSlot c sl { s.slot c sl with ctime := tset 0 (s.slot c sl).ctime n 0, thread := some { t with pend := clrBit t.pend n } }).setW64
      (regKey c t.wp n) v := by simp [State.setReg, h]

@[simp] theorem setReg_cur (s : State) (c sl n : Nat) (v : Word) : (s.setReg c sl n v).cur = s.cur := by
  unfold State.setReg
  split <;> rfl

/-- The thread that a step past an instruction leaves (R121). -/
theorem pass_live {s : State} {t : Thread} {n : Nat} (h : Issues s t) : s.pass n = s.setThread s.cur.core s.cur.slot (some (passed s t n)) := by
  unfold Issues at h
  rw [State.pass, State.modThread, h]
  rfl

theorem setSlot_setSlot (s : State) (c sl : Nat) (x y : SlotSt) (h : x.thread ≠ none) (h' : y.thread ≠ none) : (s.setSlot c sl x).setSlot c sl y = s.setSlot c sl y := by
  have hx : x ≠ SlotSt.reset := fun e => h (by rw [e]; rfl)
  have hy : y ≠ SlotSt.reset := fun e => h' (by rw [e]; rfl)
  have tt : ∀ t : List (Nat × SlotSt), tins (tins t (slotKey c sl) x) (slotKey c sl) y = tins t (slotKey c sl) y := by
    intro t
    induction t with
    | nil => simp [tins]
    | cons p t ih =>
      obtain ⟨j, u⟩ := p
      by_cases e : slotKey c sl = j
      · simp [tins, e]
      · by_cases l : slotKey c sl < j
        · simp [tins, e, l]
        · simp [tins, e, l, ih]
  simp [State.setSlot, tset, hx, hy, tt]

/-- A register written, FLAGS set and the PC past the instruction: the value stands, the slot holds the rest, and nothing else changed. -/
theorem sets_of {s : State} {t : Thread} {d : WReg} {n : Nat} (w : Tidy s) (hi : Issues s t) (v : Word) (g : Flags) :
    Sets s ((((s.setReg s.cur.core s.cur.slot d.val v).modThread s.cur.core s.cur.slot (fun x => { x with flags := g }))).pass n) t d v
      { passed s t n with flags := g } := by
  have hi' : s.thread s.cur.core s.cur.slot = some t := hi
  -- the three updates as one
  have key : (((s.setReg s.cur.core s.cur.slot d.val v).modThread s.cur.core s.cur.slot (fun x => { x with flags := g }))).pass n
      = (s.setSlot s.cur.core s.cur.slot { s.slot s.cur.core s.cur.slot with
          ctime := tset 0 (s.slot s.cur.core s.cur.slot).ctime d.val 0
          thread := some { { passed s t n with flags := g } with pend := clrBit t.pend d.val } }).setW64 (regKey s.cur.core t.wp d.val) v := by
    rw [setReg_live hi']
    have h1 : ∀ (q : State) (u : Thread) (y : SlotSt) (k : Nat), y.thread = some u → q.cur = s.cur →
        (((q.setSlot s.cur.core s.cur.slot y).setW64 k v).modThread s.cur.core s.cur.slot (fun x => { x with flags := g })).pass n
          = (q.setSlot s.cur.core s.cur.slot { y with thread := some (passed s { u with flags := g } n) }).setW64 k v := by
      intro q u y k hy hq
      have l1 : ((q.setSlot s.cur.core s.cur.slot y).setW64 k v).thread s.cur.core s.cur.slot = some u := by
        rw [setW64_thread, State.thread, slot_setSlot_live _ _ (by simp [hy]), hy]
      have l2 : ((q.setSlot s.cur.core s.cur.slot y).setW64 k v).modThread s.cur.core s.cur.slot (fun x => { x with flags := g })
          = (q.setSlot s.cur.core s.cur.slot { y with thread := some { u with flags := g } }).setW64 k v := by
        rw [State.modThread, l1]
        simp only [State.setThread, setW64_slot]
        rw [slot_setSlot_live _ _ (by simp [hy])]
        have := setSlot_setSlot q s.cur.core s.cur.slot y { y with thread := some { u with flags := g } } (by simp [hy]) (by simp)
        exact congrArg (fun r : State => r.setW64 k v) this
      rw [l2]
      have l3 : Issues ((q.setSlot s.cur.core s.cur.slot { y with thread := some { u with flags := g } }).setW64 k v) { u with flags := g } := by
        unfold Issues
        simp only [setW64_cur, setSlot_cur, hq, setW64_thread]
        rw [State.thread, slot_setSlot_live _ _ (by simp)]
      rw [pass_live l3]
      simp only [setW64_cur, setSlot_cur, hq, State.setThread, setW64_slot]
      rw [slot_setSlot_live _ _ (by simp)]
      have l4 : passed ((q.setSlot s.cur.core s.cur.slot { y with thread := some { u with flags := g } }).setW64 k v) { u with flags := g } n
          = passed s { u with flags := g } n := by simp only [passed, setW64_cur, setSlot_cur, hq]
      rw [l4]
      have := setSlot_setSlot q s.cur.core s.cur.slot { y with thread := some { u with flags := g } } { y with thread := some (passed s { u with flags := g } n) }
        (by simp) (by simp)
      exact congrArg (fun r : State => r.setW64 k v) this
    rw [h1 s { t with pend := clrBit t.pend d.val } _ _ rfl rfl]
    have l5 : passed s { { t with pend := clrBit t.pend d.val } with flags := g } n = { { passed s t n with flags := g } with pend := clrBit t.pend d.val } := by
      simp only [passed]
      rcases s.cur.rep with _ | ⟨i, m⟩
      · rfl
      · simp only
        split <;> rfl
    rw [l5]
  rw [key]
  have ws := w.setSlot s.cur.core s.cur.slot { s.slot s.cur.core s.cur.slot with
    ctime := tset 0 (s.slot s.cur.core s.cur.slot).ctime d.val 0
    thread := some { { passed s t n with flags := g } with pend := clrBit t.pend d.val } }
  refine ⟨?_, ?_, ⟨rfl, ?_⟩, ?_⟩
  · exact w64_setW64_self ws _ v
  · rw [setW64_slot, slot_setSlot_live _ _ (by simp)]
    rfl
  · intro c sl h
    rw [setW64_slot, slot_setSlot_ne w h]
  · intro k h
    exact byteAt_setW64_out ws h v

/-- The thread that a form without a destination leaves: FLAGS set and the PC past it. -/
theorem turns_of {s : State} {t : Thread} {n : Nat} (hi : Issues s t) (g : Flags) :
    Turns s ((s.modThread s.cur.core s.cur.slot (fun x => { x with flags := g })).pass n) { passed s t n with flags := g } := by
  have hi' : s.thread s.cur.core s.cur.slot = some t := hi
  have e1 : s.modThread s.cur.core s.cur.slot (fun x => { x with flags := g }) = s.setSlot s.cur.core s.cur.slot { s.slot s.cur.core s.cur.slot with thread := some { t with flags := g } } := by
    simp [State.modThread, hi', State.setThread]
  have l : Issues (s.setSlot s.cur.core s.cur.slot { s.slot s.cur.core s.cur.slot with thread := some { t with flags := g } }) { t with flags := g } := by
    unfold Issues
    rw [setSlot_cur, State.thread, slot_setSlot_live _ _ (by simp)]
  have l5 : passed (s.setSlot s.cur.core s.cur.slot { s.slot s.cur.core s.cur.slot with thread := some { t with flags := g } }) { t with flags := g } n
      = { passed s t n with flags := g } := by
    simp only [passed, setSlot_cur]
    rcases s.cur.rep with _ | ⟨i, m⟩
    · rfl
    · simp only
      split <;> rfl
  have e2 : (s.modThread s.cur.core s.cur.slot (fun x => { x with flags := g })).pass n
      = s.setSlot s.cur.core s.cur.slot { s.slot s.cur.core s.cur.slot with thread := some { passed s t n with flags := g } } := by
    rw [e1, pass_live l, l5]
    simp only [setSlot_cur, State.setThread]
    rw [slot_setSlot_live _ _ (by simp)]
    exact setSlot_setSlot _ _ _ _ _ (by simp) (by simp)
  rw [e2]
  refine ⟨slot_setSlot_live _ _ (by simp), ⟨rfl, ?_⟩, rfl⟩
  intro c sl h
  exact slot_setSlot_ne_live h (by simp)

/-! The three-register integer forms, once. -/

/-- R128: a three-register integer form with function `f` whose operands can be read and whose destination can be written. -/
theorem alu3_next {f : AluFn} {d a b : WReg} {s : State} {t : Thread} (w : Tidy s) (hr : Ready s t [a, b]) (hd : Dst s t d) :
    ∃ s', run (alu3 f d a b) s = .next s' ∧
      Sets s s' t d (f (opnd s t a) (opnd s t b) t.flags).1 { passed s t 8 with flags := (f (opnd s t a) (opnd s t b) t.flags).2 } := by
  have hp : InPart s ([(0, d), (1, a), (2, b)] : List FReg).unzip.2 := by
    intro r h
    simp at h
    rcases h with h | h | h
    · rw [h]; exact hd.part
    · rw [h]; exact hr.part a (by simp)
    · rw [h]; exact hr.part b (by simp)
  have h0 : chk [(0, d), (1, a), (2, b)] s = .ok ((), s) := chk_ok (by simpa using hp)
  have h1 : rd a s = .ok (opnd s t a, s) := rd_ok hr (by simp)
  have h2 : rd b s = .ok (opnd s t b, s) := rd_ok hr (by simp)
  have h3 : needDst d s = .ok ((), s) := needDst_ok hr.issues hd
  have h4 : th s = .ok (t, s) := th_ok hr.issues
  refine ⟨_, run_ok (m := alu3 f d a b) (s := s) ?_, sets_of w hr.issues _ _⟩
  unfold alu3
  rw [bind_ok h0, bind_ok h1, bind_ok h2, bind_ok h3, bind_ok h4]
  have h5 : setFlags (f (opnd s t a) (opnd s t b) t.flags).2 (s.setReg s.cur.core s.cur.slot d.val (f (opnd s t a) (opnd s t b) t.flags).1)
      = .ok ((), (s.setReg s.cur.core s.cur.slot d.val (f (opnd s t a) (opnd s t b) t.flags).1).modThread s.cur.core s.cur.slot
          (fun x => { x with flags := (f (opnd s t a) (opnd s t b) t.flags).2 })) := by
    simp only [setFlags, modTh, setReg_cur]
  exact (bind_ok (m := wr d _) rfl).trans ((bind_ok h5).trans rfl)

/-! Taking an exception. -/

theorem modThread_mem (s : State) (c sl : Nat) (f : Thread → Thread) : (s.modThread c sl f).mem = s.mem := by
  unfold State.modThread
  split <;> rfl

theorem trace_mem (s : State) (clu ty core slot code aux : Nat) (a b : Word) : (s.trace clu ty core slot code aux a b).mem = s.mem := by
  unfold State.trace
  simp only
  split <;> rfl

theorem snapTrigger_mem (s : State) (src tag : Nat) (tid : Word) (clu core slot : Nat) : (snapTrigger s src tag tid clu core slot).mem = s.mem := by
  unfold snapTrigger
  simp only
  split
  · exact trace_mem ..
  · split <;> exact trace_mem ..

theorem noteTrap_mem (s : State) (c sl cause : Nat) (ret info tid : Word) : (noteTrap s c sl cause ret info tid).mem = s.mem := by
  unfold noteTrap snapCause
  split
  · rw [snapTrigger_mem, trace_mem]
  · exact trace_mem ..

theorem report_mem (s : State) (core : Nat) (src pay : Word) (code : Nat) : (report s core src pay code).mem = s.mem := by
  unfold report
  split
  · rfl
  · simp only
    split <;> rfl

theorem haltThread_mem (s : State) (c sl : Nat) (pc : Word) : (haltThread s c sl pc).mem = s.mem := by
  unfold haltThread
  rw [report_mem, modThread_mem]

/-- Taking an exception changes no byte of memory: what entry saves stands in the slot (R281). -/
theorem takeTrap_mem (s : State) (c sl cause : Nat) (info : Word) : (takeTrap s c sl cause info).mem = s.mem := by
  have e : ∀ (q : State) (t : Thread), (enterKernel q c sl t cause info t.pc).mem = q.mem := fun _ _ => rfl
  unfold takeTrap
  split
  · rfl
  · rename_i t ht
    simp only [trapEntry, ht]
    split
    · rw [haltThread_mem, noteTrap_mem]
    · split
      · rw [haltThread_mem]
        split
        · rw [report_mem, e, noteTrap_mem]
        · rw [e, noteTrap_mem]
      · split
        · rw [report_mem, e, noteTrap_mem]
        · rw [e, noteTrap_mem]

theorem Tidy.trace {s : State} (w : Tidy s) (clu ty core slot code aux : Nat) (a b : Word) : Tidy (s.trace clu ty core slot code aux a b) := by
  unfold State.trace
  simp only
  split
  · exact w.setClu _ _
  · exact w

theorem Tidy.snapTrigger {s : State} (w : Tidy s) (src tag : Nat) (tid : Word) (clu core slot : Nat) : Tidy (snapTrigger s src tag tid clu core slot) := by
  unfold Machine.snapTrigger
  simp only
  have h : ∀ n, Tidy (s.trace n 0x0C core slot src 0 (wordOf tag) (wordOf (s.snap.trigCnt + 1))) := fun n => w.trace ..
  split
  · exact ⟨(h _).mem, (h _).slots, (h _).cores, (h _).clus⟩
  · split <;> exact ⟨(h _).mem, (h _).slots, (h _).cores, (h _).clus⟩

theorem Tidy.noteTrap {s : State} (w : Tidy s) (c sl cause : Nat) (ret info tid : Word) : Tidy (noteTrap s c sl cause ret info tid) := by
  unfold Machine.noteTrap snapCause
  split
  · exact (w.trace ..).snapTrigger ..
  · exact w.trace ..

theorem Tidy.report {s : State} (w : Tidy s) (core : Nat) (src pay : Word) (code : Nat) : Tidy (report s core src pay code) := by
  unfold Machine.report
  split
  · exact w
  · simp only
    split
    · exact w.setClu _ _
    · exact ⟨w.mem, w.slots, w.cores, w.clus⟩

theorem Tidy.haltThread {s : State} (w : Tidy s) (c sl : Nat) (pc : Word) : Tidy (haltThread s c sl pc) := (w.modThread c sl _).report ..

/-- Taking an exception keeps the canonical form. -/
theorem Tidy.takeTrap {s : State} (w : Tidy s) (c sl cause : Nat) (info : Word) : Tidy (takeTrap s c sl cause info) := by
  have e : ∀ (q : State) (t : Thread), Tidy q → Tidy (enterKernel q c sl t cause info t.pc) := fun _ _ h => h.setSlot c sl _
  unfold Machine.takeTrap
  split
  · exact w
  · rename_i t ht
    simp only [trapEntry, ht]
    have k := e _ t (w.noteTrap c sl cause t.pc info (s.tid c sl))
    split
    · exact (w.noteTrap ..).haltThread ..
    · split
      · split
        · exact (k.report ..).haltThread ..
        · exact k.haltThread ..
      · split
        · exact k.report ..
        · exact k

end Sys2Proof.Machine
end

