-- ==== Sys2Proof/Laws/PerInstr.lean ====
section
/-! SUPPORT. Statements for all instructions, made per instruction: the family Code says that every field of a form's encoding fits its place. -/

namespace Sys2Proof.Laws

open Sys2Proof

/-- Every field that the encoder gives a form of the encoding fits its place (R106, R110); an event has no encoding. -/
def Code.Statement (i : Instr) : Prop := ∀ h, i.wf = true → encodeHead i = some h → h.fits

theorem Code.add (d : WReg) (a : WReg) (b : WReg) : Code.Statement (.add d a b) := by
  intro h _ e
  cases e
  simp only [Head.fits, extSpan, encR]
  omega

theorem Code.sub (d : WReg) (a : WReg) (b : WReg) : Code.Statement (.sub d a b) := by
  intro h _ e
  cases e
  simp only [Head.fits, extSpan, encR]
  omega

theorem Code.adc (d : WReg) (a : WReg) (b : WReg) : Code.Statement (.adc d a b) := by
  intro h _ e
  cases e
  simp only [Head.fits, extSpan, encR]
  omega

theorem Code.sbc (d : WReg) (a : WReg) (b : WReg) : Code.Statement (.sbc d a b) := by
  intro h _ e
  cases e
  simp only [Head.fits, extSpan, encR]
  omega

theorem Code.and (d : WReg) (a : WReg) (b : WReg) : Code.Statement (.and d a b) := by
  intro h _ e
  cases e
  simp only [Head.fits, extSpan, encR]
  omega

theorem Code.or (d : WReg) (a : WReg) (b : WReg) : Code.Statement (.or d a b) := by
  intro h _ e
  cases e
  simp only [Head.fits, extSpan, encR]
  omega

theorem Code.xor (d : WReg) (a : WReg) (b : WReg) : Code.Statement (.xor d a b) := by
  intro h _ e
  cases e
  simp only [Head.fits, extSpan, encR]
  omega

theorem Code.andn (d : WReg) (a : WReg) (b : WReg) : Code.Statement (.andn d a b) := by
  intro h _ e
  cases e
  simp only [Head.fits, extSpan, encR]
  omega

theorem Code.shl (d : WReg) (a : WReg) (b : WReg) : Code.Statement (.shl d a b) := by
  intro h _ e
  cases e
  simp only [Head.fits, extSpan, encR]
  omega

theorem Code.shr (d : WReg) (a : WReg) (b : WReg) : Code.Statement (.shr d a b) := by
  intro h _ e
  cases e
  simp only [Head.fits, extSpan, encR]
  omega

theorem Code.sar (d : WReg) (a : WReg) (b : WReg) : Code.Statement (.sar d a b) := by
  intro h _ e
  cases e
  simp only [Head.fits, extSpan, encR]
  omega

theorem Code.ror (d : WReg) (a : WReg) (b : WReg) : Code.Statement (.ror d a b) := by
  intro h _ e
  cases e
  simp only [Head.fits, extSpan, encR]
  omega

theorem Code.mul (d : WReg) (a : WReg) (b : WReg) : Code.Statement (.mul d a b) := by
  intro h _ e
  cases e
  simp only [Head.fits, extSpan, encR]
  omega

theorem Code.mulhu (d : WReg) (a : WReg) (b : WReg) : Code.Statement (.mulhu d a b) := by
  intro h _ e
  cases e
  simp only [Head.fits, extSpan, encR]
  omega

theorem Code.mulhs (d : WReg) (a : WReg) (b : WReg) : Code.Statement (.mulhs d a b) := by
  intro h _ e
  cases e
  simp only [Head.fits, extSpan, encR]
  omega

theorem Code.divu (d : WReg) (a : WReg) (b : WReg) : Code.Statement (.divu d a b) := by
  intro h _ e
  cases e
  simp only [Head.fits, extSpan, encR]
  omega

theorem Code.divs (d : WReg) (a : WReg) (b : WReg) : Code.Statement (.divs d a b) := by
  intro h _ e
  cases e
  simp only [Head.fits, extSpan, encR]
  omega

theorem Code.remu (d : WReg) (a : WReg) (b : WReg) : Code.Statement (.remu d a b) := by
  intro h _ e
  cases e
  simp only [Head.fits, extSpan, encR]
  omega

theorem Code.rems (d : WReg) (a : WReg) (b : WReg) : Code.Statement (.rems d a b) := by
  intro h _ e
  cases e
  simp only [Head.fits, extSpan, encR]
  omega

theorem Code.minu (d : WReg) (a : WReg) (b : WReg) : Code.Statement (.minu d a b) := by
  intro h _ e
  cases e
  simp only [Head.fits, extSpan, encR]
  omega

theorem Code.mins (d : WReg) (a : WReg) (b : WReg) : Code.Statement (.mins d a b) := by
  intro h _ e
  cases e
  simp only [Head.fits, extSpan, encR]
  omega

theorem Code.maxu (d : WReg) (a : WReg) (b : WReg) : Code.Statement (.maxu d a b) := by
  intro h _ e
  cases e
  simp only [Head.fits, extSpan, encR]
  omega

theorem Code.maxs (d : WReg) (a : WReg) (b : WReg) : Code.Statement (.maxs d a b) := by
  intro h _ e
  cases e
  simp only [Head.fits, extSpan, encR]
  omega

theorem Code.cmp (a : WReg) (b : WReg) : Code.Statement (.cmp a b) := by
  intro h _ e
  cases e
  simp only [Head.fits, extSpan, encR]
  omega

theorem Code.tst (a : WReg) (b : WReg) : Code.Statement (.tst a b) := by
  intro h _ e
  cases e
  simp only [Head.fits, extSpan, encR]
  omega

theorem Code.neg (d : WReg) (a : WReg) : Code.Statement (.neg d a) := by
  intro h _ e
  cases e
  simp only [Head.fits, extSpan, encR]
  omega

theorem Code.addi (d : WReg) (a : WReg) (i : Imm) : Code.Statement (.addi d a i) := by
  intro h _ e
  cases e
  exact fits_encI _ _ (by omega)

theorem Code.subi (d : WReg) (a : WReg) (i : Imm) : Code.Statement (.subi d a i) := by
  intro h _ e
  cases e
  exact fits_encI _ _ (by omega)

theorem Code.adci (d : WReg) (a : WReg) (i : Imm) : Code.Statement (.adci d a i) := by
  intro h _ e
  cases e
  exact fits_encI _ _ (by omega)

theorem Code.sbci (d : WReg) (a : WReg) (i : Imm) : Code.Statement (.sbci d a i) := by
  intro h _ e
  cases e
  exact fits_encI _ _ (by omega)

theorem Code.andi (d : WReg) (a : WReg) (i : Imm) : Code.Statement (.andi d a i) := by
  intro h _ e
  cases e
  exact fits_encI _ _ (by omega)

theorem Code.ori (d : WReg) (a : WReg) (i : Imm) : Code.Statement (.ori d a i) := by
  intro h _ e
  cases e
  exact fits_encI _ _ (by omega)

theorem Code.xori (d : WReg) (a : WReg) (i : Imm) : Code.Statement (.xori d a i) := by
  intro h _ e
  cases e
  exact fits_encI _ _ (by omega)

theorem Code.andni (d : WReg) (a : WReg) (i : Imm) : Code.Statement (.andni d a i) := by
  intro h _ e
  cases e
  exact fits_encI _ _ (by omega)

theorem Code.shli (d : WReg) (a : WReg) (i : Imm) : Code.Statement (.shli d a i) := by
  intro h _ e
  cases e
  exact fits_encI _ _ (by omega)

theorem Code.shri (d : WReg) (a : WReg) (i : Imm) : Code.Statement (.shri d a i) := by
  intro h _ e
  cases e
  exact fits_encI _ _ (by omega)

theorem Code.sari (d : WReg) (a : WReg) (i : Imm) : Code.Statement (.sari d a i) := by
  intro h _ e
  cases e
  exact fits_encI _ _ (by omega)

theorem Code.rori (d : WReg) (a : WReg) (i : Imm) : Code.Statement (.rori d a i) := by
  intro h _ e
  cases e
  exact fits_encI _ _ (by omega)

theorem Code.muli (d : WReg) (a : WReg) (i : Imm) : Code.Statement (.muli d a i) := by
  intro h _ e
  cases e
  exact fits_encI _ _ (by omega)

theorem Code.mulhui (d : WReg) (a : WReg) (i : Imm) : Code.Statement (.mulhui d a i) := by
  intro h _ e
  cases e
  exact fits_encI _ _ (by omega)

theorem Code.mulhsi (d : WReg) (a : WReg) (i : Imm) : Code.Statement (.mulhsi d a i) := by
  intro h _ e
  cases e
  exact fits_encI _ _ (by omega)

theorem Code.divui (d : WReg) (a : WReg) (i : Imm) : Code.Statement (.divui d a i) := by
  intro h _ e
  cases e
  exact fits_encI _ _ (by omega)

theorem Code.divsi (d : WReg) (a : WReg) (i : Imm) : Code.Statement (.divsi d a i) := by
  intro h _ e
  cases e
  exact fits_encI _ _ (by omega)

theorem Code.remui (d : WReg) (a : WReg) (i : Imm) : Code.Statement (.remui d a i) := by
  intro h _ e
  cases e
  exact fits_encI _ _ (by omega)

theorem Code.remsi (d : WReg) (a : WReg) (i : Imm) : Code.Statement (.remsi d a i) := by
  intro h _ e
  cases e
  exact fits_encI _ _ (by omega)

theorem Code.minui (d : WReg) (a : WReg) (i : Imm) : Code.Statement (.minui d a i) := by
  intro h _ e
  cases e
  exact fits_encI _ _ (by omega)

theorem Code.minsi (d : WReg) (a : WReg) (i : Imm) : Code.Statement (.minsi d a i) := by
  intro h _ e
  cases e
  exact fits_encI _ _ (by omega)

theorem Code.maxui (d : WReg) (a : WReg) (i : Imm) : Code.Statement (.maxui d a i) := by
  intro h _ e
  cases e
  exact fits_encI _ _ (by omega)

theorem Code.maxsi (d : WReg) (a : WReg) (i : Imm) : Code.Statement (.maxsi d a i) := by
  intro h _ e
  cases e
  exact fits_encI _ _ (by omega)

theorem Code.cmpi (a : WReg) (i : Imm) : Code.Statement (.cmpi a i) := by
  intro h _ e
  cases e
  exact fits_encI _ _ (by omega)

theorem Code.tsti (a : WReg) (i : Imm) : Code.Statement (.tsti a i) := by
  intro h _ e
  cases e
  exact fits_encI _ _ (by omega)

theorem Code.mov (d : WReg) (a : WReg) : Code.Statement (.mov d a) := by
  intro h _ e
  cases e
  simp only [Head.fits, extSpan, encR]
  omega

theorem Code.movi (d : WReg) (i : Imm) : Code.Statement (.movi d i) := by
  intro h _ e
  cases e
  exact fits_encI _ _ (by omega)

theorem Code.movhi (d : WReg) (v : BitVec 32) : Code.Statement (.movhi d v) := by
  intro h _ e
  cases e
  simp only [Head.fits, extSpan]
  omega

theorem Code.lea (d : WReg) (a : WReg) (i : Imm) : Code.Statement (.lea d a i) := by
  intro h _ e
  cases e
  exact fits_encI _ _ (by omega)

theorem Code.leax (d : WReg) (a : WReg) (b : WReg) (sh : Fin 5) : Code.Statement (.leax d a b sh) := by
  intro h _ e
  cases e
  simp only [Head.fits, extSpan, encM]
  omega

theorem Code.adr (d : WReg) (i : Imm) : Code.Statement (.adr d i) := by
  intro h _ e
  cases e
  exact fits_encI _ _ (by omega)

theorem Code.sext (sz : Size) (d : WReg) (a : WReg) : Code.Statement (.sext sz d a) := by
  intro h _ e
  have h1 := sz.code_lt
  cases e
  simp only [Head.fits, extSpan, encM]
  omega

theorem Code.zext (sz : Size) (d : WReg) (a : WReg) : Code.Statement (.zext sz d a) := by
  intro h _ e
  have h1 := sz.code_lt
  cases e
  simp only [Head.fits, extSpan, encM]
  omega

theorem Code.clz (d : WReg) (a : WReg) : Code.Statement (.clz d a) := by
  intro h _ e
  cases e
  simp only [Head.fits, extSpan, encR]
  omega

theorem Code.ctz (d : WReg) (a : WReg) : Code.Statement (.ctz d a) := by
  intro h _ e
  cases e
  simp only [Head.fits, extSpan, encR]
  omega

theorem Code.popc (d : WReg) (a : WReg) : Code.Statement (.popc d a) := by
  intro h _ e
  cases e
  simp only [Head.fits, extSpan, encR]
  omega

theorem Code.bswap (d : WReg) (a : WReg) : Code.Statement (.bswap d a) := by
  intro h _ e
  cases e
  simp only [Head.fits, extSpan, encR]
  omega

theorem Code.brev (d : WReg) (a : WReg) : Code.Statement (.brev d a) := by
  intro h _ e
  cases e
  simp only [Head.fits, extSpan, encR]
  omega

theorem Code.bfx (d : WReg) (a : WReg) (pos : BitVec 6) (len : BitVec 6) : Code.Statement (.bfx d a pos len) := by
  intro h _ e
  cases e
  simp only [Head.fits, extSpan, encBf]
  omega

theorem Code.bfxs (d : WReg) (a : WReg) (pos : BitVec 6) (len : BitVec 6) : Code.Statement (.bfxs d a pos len) := by
  intro h _ e
  cases e
  simp only [Head.fits, extSpan, encBf]
  omega

theorem Code.bfi (d : WReg) (a : WReg) (pos : BitVec 6) (len : BitVec 6) : Code.Statement (.bfi d a pos len) := by
  intro h _ e
  cases e
  simp only [Head.fits, extSpan, encBf]
  omega

theorem Code.csel (c : Cond) (d : WReg) (a : WReg) (b : WReg) : Code.Statement (.csel c d a b) := by
  intro h _ e
  have h1 := c.code_lt
  cases e
  simp only [Head.fits, extSpan, encM]
  omega

theorem Code.cset (c : Cond) (d : WReg) : Code.Statement (.cset c d) := by
  intro h _ e
  have h1 := c.code_lt
  cases e
  simp only [Head.fits, extSpan, encM]
  omega

theorem Code.fadd (t : FFmt) (d : WReg) (a : WReg) (b : WReg) : Code.Statement (.fadd t d a b) := by
  intro h _ e
  have h1 := t.code_lt
  cases e
  simp only [Head.fits, extSpan, encM]
  omega

theorem Code.fsub (t : FFmt) (d : WReg) (a : WReg) (b : WReg) : Code.Statement (.fsub t d a b) := by
  intro h _ e
  have h1 := t.code_lt
  cases e
  simp only [Head.fits, extSpan, encM]
  omega

theorem Code.fmul (t : FFmt) (d : WReg) (a : WReg) (b : WReg) : Code.Statement (.fmul t d a b) := by
  intro h _ e
  have h1 := t.code_lt
  cases e
  simp only [Head.fits, extSpan, encM]
  omega

theorem Code.fdiv (t : FFmt) (d : WReg) (a : WReg) (b : WReg) : Code.Statement (.fdiv t d a b) := by
  intro h _ e
  have h1 := t.code_lt
  cases e
  simp only [Head.fits, extSpan, encM]
  omega

theorem Code.fsqrt (t : FFmt) (d : WReg) (a : WReg) : Code.Statement (.fsqrt t d a) := by
  intro h _ e
  have h1 := t.code_lt
  cases e
  simp only [Head.fits, extSpan, encM]
  omega

theorem Code.fma (t : FFmt) (d : WReg) (a : WReg) (b : WReg) : Code.Statement (.fma t d a b) := by
  intro h _ e
  have h1 := t.code_lt
  cases e
  simp only [Head.fits, extSpan, encM]
  omega

theorem Code.fmin (t : FFmt) (d : WReg) (a : WReg) (b : WReg) : Code.Statement (.fmin t d a b) := by
  intro h _ e
  have h1 := t.code_lt
  cases e
  simp only [Head.fits, extSpan, encM]
  omega

theorem Code.fmax (t : FFmt) (d : WReg) (a : WReg) (b : WReg) : Code.Statement (.fmax t d a b) := by
  intro h _ e
  have h1 := t.code_lt
  cases e
  simp only [Head.fits, extSpan, encM]
  omega

theorem Code.fcmp (t : FFmt) (a : WReg) (b : WReg) : Code.Statement (.fcmp t a b) := by
  intro h _ e
  have h1 := t.code_lt
  cases e
  simp only [Head.fits, extSpan, encM]
  omega

theorem Code.fabs (t : FFmt) (d : WReg) (a : WReg) : Code.Statement (.fabs t d a) := by
  intro h _ e
  have h1 := t.code_lt
  cases e
  simp only [Head.fits, extSpan, encM]
  omega

theorem Code.fneg (t : FFmt) (d : WReg) (a : WReg) : Code.Statement (.fneg t d a) := by
  intro h _ e
  have h1 := t.code_lt
  cases e
  simp only [Head.fits, extSpan, encM]
  omega

theorem Code.fcvt (dst : ETy) (src : ETy) (d : WReg) (a : WReg) : Code.Statement (.fcvt dst src d a) := by
  intro h _ e
  have h1 := dst.code_lt
  have h2 := src.code_lt
  cases e
  simp only [Head.fits, extSpan]
  omega

theorem Code.nop64 : Code.Statement (.nop64) := by
  intro h _ e
  cases e
  simp only [Head.fits, extSpan, enc]
  omega

theorem Code.nop96 : Code.Statement (.nop96) := by
  intro h _ e
  cases e
  simp only [Head.fits, extSpan, enc]
  omega

theorem Code.b (disp : BitVec 23) : Code.Statement (.b disp) := by
  intro h _ e
  cases e
  simp only [Head.fits, extSpan, encJ]
  omega

theorem Code.bc (c : Cond) (disp : BitVec 23) : Code.Statement (.bc c disp) := by
  intro h _ e
  have h1 := c.code_lt
  cases e
  simp only [Head.fits, extSpan]
  omega

theorem Code.bl (d : WReg) (disp : BitVec 23) : Code.Statement (.bl d disp) := by
  intro h _ e
  cases e
  simp only [Head.fits, extSpan, encJ]
  omega

theorem Code.cbz (a : WReg) (disp : BitVec 23) : Code.Statement (.cbz a disp) := by
  intro h _ e
  cases e
  simp only [Head.fits, extSpan, encJ]
  omega

theorem Code.cbnz (a : WReg) (disp : BitVec 23) : Code.Statement (.cbnz a disp) := by
  intro h _ e
  cases e
  simp only [Head.fits, extSpan, encJ]
  omega

theorem Code.dbnz (d : WReg) (disp : BitVec 23) : Code.Statement (.dbnz d disp) := by
  intro h _ e
  cases e
  simp only [Head.fits, extSpan, encJ]
  omega

theorem Code.jr (a : WReg) : Code.Statement (.jr a) := by
  intro h _ e
  cases e
  simp only [Head.fits, extSpan, encR]
  omega

theorem Code.jlr (d : WReg) (a : WReg) : Code.Statement (.jlr d a) := by
  intro h _ e
  cases e
  simp only [Head.fits, extSpan, encR]
  omega

theorem Code.jmpa (t : Word) : Code.Statement (.jmpa t) := by
  intro h _ e
  cases e
  simp only [Head.fits, extSpan]
  omega

theorem Code.bla (d : WReg) (t : Word) : Code.Statement (.bla d t) := by
  intro h _ e
  cases e
  simp only [Head.fits, extSpan]
  omega

theorem Code.exit : Code.Statement (.exit) := by
  intro h _ e
  cases e
  simp only [Head.fits, extSpan, enc]
  omega

theorem Code.rep (stepM1 : BitVec 2) (md : Bool) (ma : Bool) (mb : Bool) (cntM1 : BitVec 6) : Code.Statement (.rep stepM1 md ma mb cntM1) := by
  intro h _ e
  have h1 := bitNat_lt md
  have h2 := bitNat_lt ma
  have h3 := bitNat_lt mb
  cases e
  simp only [Head.fits, extSpan, encJ]
  omega

theorem Code.hintAlign (m : BitVec 5) (t : BitVec 16) : Code.Statement (.hintAlign m t) := by
  intro h _ e
  cases e
  simp only [Head.fits, extSpan]
  omega

theorem Code.rdctl (d : WReg) (c : CtlReg) : Code.Statement (.rdctl d c) := by
  intro h _ e
  have h1 := c.code_lt
  cases e
  simp only [Head.fits, extSpan, encJ]
  omega

theorem Code.wrctl (c : CtlReg) (a : WReg) : Code.Statement (.wrctl c a) := by
  intro h _ e
  have h1 := c.code_lt
  cases e
  simp only [Head.fits, extSpan, encJ]
  omega

theorem Code.rmset (m : RMode) : Code.Statement (.rmset m) := by
  intro h _ e
  have h1 := m.code_lt
  cases e
  simp only [Head.fits, extSpan, encJ]
  omega

theorem Code.flgrd (d : WReg) : Code.Statement (.flgrd d) := by
  intro h _ e
  cases e
  simp only [Head.fits, extSpan, encJ]
  omega

theorem Code.flgrdClu (d : WReg) : Code.Statement (.flgrdClu d) := by
  intro h _ e
  cases e
  simp only [Head.fits, extSpan]
  omega

theorem Code.flgclr (m : BitVec 5) : Code.Statement (.flgclr m) := by
  intro h _ e
  cases e
  simp only [Head.fits, extSpan, encJ]
  omega

theorem Code.flgclrClu (m : BitVec 5) : Code.Statement (.flgclrClu m) := by
  intro h _ e
  cases e
  simp only [Head.fits, extSpan]
  omega

theorem Code.flgftClu (d : WReg) (f : Fin 5) : Code.Statement (.flgftClu d f) := by
  intro h _ e
  cases e
  simp only [Head.fits, extSpan]
  omega

theorem Code.tsrd (d : WReg) : Code.Statement (.tsrd d) := by
  intro h _ e
  cases e
  simp only [Head.fits, extSpan, encR]
  omega

theorem Code.evmark (a : WReg) (b : WReg) (code : BitVec 16) : Code.Statement (.evmark a b code) := by
  intro h _ e
  cases e
  simp only [Head.fits, extSpan, encJ]
  omega

theorem Code.ld (sz : Size) (d : WReg) (a : WReg) (o : Imm) : Code.Statement (.ld sz d a o) := by
  intro h _ e
  have h1 := sz.code_lt
  cases e
  exact fits_encI _ _ (by omega)

theorem Code.lds (sz : Size) (d : WReg) (a : WReg) (o : Imm) : Code.Statement (.lds sz d a o) := by
  intro h _ e
  have h1 := sz.code_lt
  cases e
  exact fits_encI _ _ (by omega)

theorem Code.ldPostinc (sz : Size) (d : WReg) (a : WReg) : Code.Statement (.ldPostinc sz d a) := by
  intro h _ e
  have h1 := sz.code_lt
  cases e
  simp only [Head.fits, extSpan, encM]
  omega

theorem Code.ldsPostinc (sz : Size) (d : WReg) (a : WReg) : Code.Statement (.ldsPostinc sz d a) := by
  intro h _ e
  have h1 := sz.code_lt
  cases e
  simp only [Head.fits, extSpan, encM]
  omega

theorem Code.st (sz : Size) (a : WReg) (o : Imm) (b : WReg) : Code.Statement (.st sz a o b) := by
  intro h _ e
  have h1 := sz.code_lt
  cases e
  exact fits_encI _ _ (by omega)

theorem Code.stPostinc (sz : Size) (a : WReg) (b : WReg) : Code.Statement (.stPostinc sz a b) := by
  intro h _ e
  have h1 := sz.code_lt
  cases e
  simp only [Head.fits, extSpan, encM]
  omega

theorem Code.ald (sz : Size) (d : WReg) (a : WReg) (o : Imm) (r : OrdScope) : Code.Statement (.ald sz d a o r) := by
  intro h _ e
  have h1 := sz.code_lt
  cases e
  exact fits_encI _ _ (by omega)

theorem Code.ast (sz : Size) (a : WReg) (o : Imm) (b : WReg) (r : OrdScope) : Code.Statement (.ast sz a o b r) := by
  intro h _ e
  have h1 := sz.code_lt
  cases e
  exact fits_encI _ _ (by omega)

theorem Code.aswp (sz : Size) (d : WReg) (a : WReg) (o : Imm) (b : WReg) (r : OrdScope) : Code.Statement (.aswp sz d a o b r) := by
  intro h _ e
  have h1 := sz.code_lt
  cases e
  exact fits_encI _ _ (by omega)

theorem Code.aadd (sz : Size) (d : WReg) (a : WReg) (o : Imm) (b : WReg) (r : OrdScope) : Code.Statement (.aadd sz d a o b r) := by
  intro h _ e
  have h1 := sz.code_lt
  cases e
  exact fits_encI _ _ (by omega)

theorem Code.aand (sz : Size) (d : WReg) (a : WReg) (o : Imm) (b : WReg) (r : OrdScope) : Code.Statement (.aand sz d a o b r) := by
  intro h _ e
  have h1 := sz.code_lt
  cases e
  exact fits_encI _ _ (by omega)

theorem Code.aor (sz : Size) (d : WReg) (a : WReg) (o : Imm) (b : WReg) (r : OrdScope) : Code.Statement (.aor sz d a o b r) := by
  intro h _ e
  have h1 := sz.code_lt
  cases e
  exact fits_encI _ _ (by omega)

theorem Code.axor (sz : Size) (d : WReg) (a : WReg) (o : Imm) (b : WReg) (r : OrdScope) : Code.Statement (.axor sz d a o b r) := by
  intro h _ e
  have h1 := sz.code_lt
  cases e
  exact fits_encI _ _ (by omega)

theorem Code.aminu (sz : Size) (d : WReg) (a : WReg) (o : Imm) (b : WReg) (r : OrdScope) : Code.Statement (.aminu sz d a o b r) := by
  intro h _ e
  have h1 := sz.code_lt
  cases e
  exact fits_encI _ _ (by omega)

theorem Code.amins (sz : Size) (d : WReg) (a : WReg) (o : Imm) (b : WReg) (r : OrdScope) : Code.Statement (.amins sz d a o b r) := by
  intro h _ e
  have h1 := sz.code_lt
  cases e
  exact fits_encI _ _ (by omega)

theorem Code.amaxu (sz : Size) (d : WReg) (a : WReg) (o : Imm) (b : WReg) (r : OrdScope) : Code.Statement (.amaxu sz d a o b r) := by
  intro h _ e
  have h1 := sz.code_lt
  cases e
  exact fits_encI _ _ (by omega)

theorem Code.amaxs (sz : Size) (d : WReg) (a : WReg) (o : Imm) (b : WReg) (r : OrdScope) : Code.Statement (.amaxs sz d a o b r) := by
  intro h _ e
  have h1 := sz.code_lt
  cases e
  exact fits_encI _ _ (by omega)

theorem Code.acas (sz : Size) (d : WReg) (a : WReg) (o : Imm) (b : WReg) (r : OrdScope) : Code.Statement (.acas sz d a o b r) := by
  intro h _ e
  have h1 := sz.code_lt
  cases e
  exact fits_encI _ _ (by omega)

theorem Code.afadd (t : FFmt) (d : WReg) (a : WReg) (o : Imm) (b : WReg) (r : OrdScope) : Code.Statement (.afadd t d a o b r) := by
  intro h _ e
  have h1 := t.code_lt
  cases e
  exact fits_encI _ _ (by omega)

theorem Code.phaseRel (s : Scope) : Code.Statement (.phaseRel s) := by
  intro h _ e
  have h1 := s.code_lt
  cases e
  simp only [Head.fits, extSpan, encO, MemOrd.code]
  omega

theorem Code.phaseAcq (s : Scope) : Code.Statement (.phaseAcq s) := by
  intro h _ e
  have h1 := s.code_lt
  cases e
  simp only [Head.fits, extSpan, encO, MemOrd.code]
  omega

theorem Code.phase (s : Scope) : Code.Statement (.phase s) := by
  intro h _ e
  have h1 := s.code_lt
  cases e
  simp only [Head.fits, extSpan, encO, MemOrd.code]
  omega

theorem Code.fenceRel (s : Scope) : Code.Statement (.fenceRel s) := by
  intro h _ e
  have h1 := s.code_lt
  cases e
  simp only [Head.fits, extSpan, encO, MemOrd.code]
  omega

theorem Code.fenceAcq (s : Scope) : Code.Statement (.fenceAcq s) := by
  intro h _ e
  have h1 := s.code_lt
  cases e
  simp only [Head.fits, extSpan, encO, MemOrd.code]
  omega

theorem Code.fenceAcqRel (s : Scope) : Code.Statement (.fenceAcqRel s) := by
  intro h _ e
  have h1 := s.code_lt
  cases e
  simp only [Head.fits, extSpan, encO, MemOrd.code]
  omega

theorem Code.binit (byt : Bool) (s : Scope) (a : WReg) (b : WReg) : Code.Statement (.binit byt s a b) := by
  intro h _ e
  have h1 := bitNat_lt byt
  have h2 := s.code_lt
  cases e
  simp only [Head.fits, extSpan]
  omega

theorem Code.barr (a : WReg) (b : WReg) (r : OrdScope) : Code.Statement (.barr a b r) := by
  intro h _ e
  have h1 := r.ord.code_lt
  have h2 := r.scope.code_lt
  cases e
  simp only [Head.fits, extSpan, encO]
  omega

theorem Code.bardrop (a : WReg) (b : WReg) (r : OrdScope) : Code.Statement (.bardrop a b r) := by
  intro h _ e
  have h1 := r.ord.code_lt
  have h2 := r.scope.code_lt
  cases e
  simp only [Head.fits, extSpan, encO]
  omega

theorem Code.bwait (a : WReg) (b : WReg) (r : OrdScope) : Code.Statement (.bwait a b r) := by
  intro h _ e
  have h1 := r.ord.code_lt
  have h2 := r.scope.code_lt
  cases e
  simp only [Head.fits, extSpan, encO]
  omega

theorem Code.bsync (a : WReg) (b : WReg) (r : OrdScope) : Code.Statement (.bsync a b r) := by
  intro h _ e
  have h1 := r.ord.code_lt
  have h2 := r.scope.code_lt
  cases e
  simp only [Head.fits, extSpan, encO]
  omega

theorem Code.bexpect (a : WReg) (b : WReg) : Code.Statement (.bexpect a b) := by
  intro h _ e
  cases e
  simp only [Head.fits, extSpan, encR]
  omega

theorem Code.barrb (a : WReg) (b : WReg) (r : OrdScope) : Code.Statement (.barrb a b r) := by
  intro h _ e
  have h1 := r.ord.code_lt
  have h2 := r.scope.code_lt
  cases e
  simp only [Head.fits, extSpan, encO]
  omega

theorem Code.send (d : WReg) (a : WReg) (b : WReg) (code : BitVec 16) : Code.Statement (.send d a b code) := by
  intro h _ e
  cases e
  simp only [Head.fits, extSpan, encJ]
  omega

theorem Code.mytid (d : WReg) : Code.Statement (.mytid d) := by
  intro h _ e
  cases e
  simp only [Head.fits, extSpan, encR]
  omega

theorem Code.mret : Code.Statement (.mret) := by
  intro h _ e
  cases e
  simp only [Head.fits, extSpan, enc]
  omega

theorem Code.mmask : Code.Statement (.mmask) := by
  intro h _ e
  cases e
  simp only [Head.fits, extSpan, enc]
  omega

theorem Code.munmask : Code.Statement (.munmask) := by
  intro h _ e
  cases e
  simp only [Head.fits, extSpan, enc]
  omega

theorem Code.mwait : Code.Statement (.mwait) := by
  intro h _ e
  cases e
  simp only [Head.fits, extSpan, enc]
  omega

theorem Code.vmov (o : VOps) : Code.Statement (.vmov o) := by
  intro h _ e
  cases e
  exact fits_encV _ (by omega)

theorem Code.vadd (o : VOps) : Code.Statement (.vadd o) := by
  intro h _ e
  cases e
  exact fits_encV _ (by omega)

theorem Code.vsub (o : VOps) : Code.Statement (.vsub o) := by
  intro h _ e
  cases e
  exact fits_encV _ (by omega)

theorem Code.vmul (o : VOps) : Code.Statement (.vmul o) := by
  intro h _ e
  cases e
  exact fits_encV _ (by omega)

theorem Code.vdiv (o : VOps) : Code.Statement (.vdiv o) := by
  intro h _ e
  cases e
  exact fits_encV _ (by omega)

theorem Code.vmin (o : VOps) : Code.Statement (.vmin o) := by
  intro h _ e
  cases e
  exact fits_encV _ (by omega)

theorem Code.vmax (o : VOps) : Code.Statement (.vmax o) := by
  intro h _ e
  cases e
  exact fits_encV _ (by omega)

theorem Code.vfma (o : VOps) : Code.Statement (.vfma o) := by
  intro h _ e
  cases e
  exact fits_encV _ (by omega)

theorem Code.vand (o : VOps) : Code.Statement (.vand o) := by
  intro h _ e
  cases e
  exact fits_encV _ (by omega)

theorem Code.vor (o : VOps) : Code.Statement (.vor o) := by
  intro h _ e
  cases e
  exact fits_encV _ (by omega)

theorem Code.vxor (o : VOps) : Code.Statement (.vxor o) := by
  intro h _ e
  cases e
  exact fits_encV _ (by omega)

theorem Code.vshl (o : VOps) : Code.Statement (.vshl o) := by
  intro h _ e
  cases e
  exact fits_encV _ (by omega)

theorem Code.vshr (o : VOps) : Code.Statement (.vshr o) := by
  intro h _ e
  cases e
  exact fits_encV _ (by omega)

theorem Code.vsar (o : VOps) : Code.Statement (.vsar o) := by
  intro h _ e
  cases e
  exact fits_encV _ (by omega)

theorem Code.vabs (o : VOps) : Code.Statement (.vabs o) := by
  intro h _ e
  cases e
  exact fits_encV _ (by omega)

theorem Code.vneg (o : VOps) : Code.Statement (.vneg o) := by
  intro h _ e
  cases e
  exact fits_encV _ (by omega)

theorem Code.vsqrt (o : VOps) : Code.Statement (.vsqrt o) := by
  intro h _ e
  cases e
  exact fits_encV _ (by omega)

theorem Code.vrcp (o : VOps) : Code.Statement (.vrcp o) := by
  intro h _ e
  cases e
  exact fits_encV _ (by omega)

theorem Code.vrsqrt (o : VOps) : Code.Statement (.vrsqrt o) := by
  intro h _ e
  cases e
  exact fits_encV _ (by omega)

theorem Code.vexp (o : VOps) : Code.Statement (.vexp o) := by
  intro h _ e
  cases e
  exact fits_encV _ (by omega)

theorem Code.vlog (o : VOps) : Code.Statement (.vlog o) := by
  intro h _ e
  cases e
  exact fits_encV _ (by omega)

theorem Code.vtanh (o : VOps) : Code.Statement (.vtanh o) := by
  intro h _ e
  cases e
  exact fits_encV _ (by omega)

theorem Code.vsigm (o : VOps) : Code.Statement (.vsigm o) := by
  intro h _ e
  cases e
  exact fits_encV _ (by omega)

theorem Code.vcmp (c : Cond) (o : VOps) : Code.Statement (.vcmp c o) := by
  intro h _ e
  have h1 := c.code_lt
  cases e
  exact fits_encV _ (by omega)

theorem Code.vsel (o : VOps) : Code.Statement (.vsel o) := by
  intro h _ e
  cases e
  exact fits_encV _ (by omega)

theorem Code.vred (arr : Bool) (msk : Bool) (o : VOps) : Code.Statement (.vred arr msk o) := by
  intro h _ e
  have h1 := bitNat_lt arr
  have h2 := bitNat_lt msk
  cases e
  exact fits_encV _ (by omega)

theorem Code.vredmax (arr : Bool) (msk : Bool) (o : VOps) : Code.Statement (.vredmax arr msk o) := by
  intro h _ e
  have h1 := bitNat_lt arr
  have h2 := bitNat_lt msk
  cases e
  exact fits_encV _ (by omega)

theorem Code.vredmin (arr : Bool) (msk : Bool) (o : VOps) : Code.Statement (.vredmin arr msk o) := by
  intro h _ e
  have h1 := bitNat_lt arr
  have h2 := bitNat_lt msk
  cases e
  exact fits_encV _ (by omega)

theorem Code.vdot (arr : Bool) (o : VOps) : Code.Statement (.vdot arr o) := by
  intro h _ e
  have h1 := bitNat_lt arr
  cases e
  exact fits_encV _ (by omega)

theorem Code.vsmax (dvM1 : BitVec 12) (o : VOps) : Code.Statement (.vsmax dvM1 o) := by
  intro h _ e
  cases e
  exact fits_encV _ (by omega)

theorem Code.vsmaxf (dvM1 : BitVec 12) (o : VOps) : Code.Statement (.vsmaxf dvM1 o) := by
  intro h _ e
  cases e
  exact fits_encV _ (by omega)

theorem Code.mtc (c : Fin 8) (a : WReg) : Code.Statement (.mtc c a) := by
  intro h _ e
  cases e
  simp only [Head.fits, extSpan, encJ]
  omega

theorem Code.mfc (d : WReg) (c : Fin 9) : Code.Statement (.mfc d c) := by
  intro h _ e
  cases e
  simp only [Head.fits, extSpan, encJ]
  omega

theorem Code.claunch (d : WReg) : Code.Statement (.claunch d) := by
  intro h _ e
  cases e
  simp only [Head.fits, extSpan, encR]
  omega

theorem Code.cstat (d : WReg) (a : WReg) : Code.Statement (.cstat d a) := by
  intro h _ e
  cases e
  simp only [Head.fits, extSpan, encR]
  omega

theorem Code.halo (d : WReg) (a : WReg) (b : WReg) (gxM1 : BitVec 4) (gyM1 : BitVec 4) (wrap : Bool) : Code.Statement (.halo d a b gxM1 gyM1 wrap) := by
  intro h _ e
  have h1 := bitNat_lt wrap
  cases e
  exact fits_encE _ (by omega) (by dsimp only; omega)

theorem Code.twaitany (d : WReg) (a : WReg) : Code.Statement (.twaitany d a) := by
  intro h _ e
  cases e
  simp only [Head.fits, extSpan, encR]
  omega

theorem Code.twaitall (d : WReg) (a : WReg) : Code.Statement (.twaitall d a) := by
  intro h _ e
  cases e
  simp only [Head.fits, extSpan, encR]
  omega

theorem Code.tffr (d : WReg) (a : WReg) : Code.Statement (.tffr d a) := by
  intro h _ e
  cases e
  simp only [Head.fits, extSpan, encR]
  omega

theorem Code.twaitanySrc (d : WReg) (a : WReg) : Code.Statement (.twaitanySrc d a) := by
  intro h _ e
  cases e
  simp only [Head.fits, extSpan, encR]
  omega

theorem Code.twaitallSrc (d : WReg) (a : WReg) : Code.Statement (.twaitallSrc d a) := by
  intro h _ e
  cases e
  simp only [Head.fits, extSpan, encR]
  omega

theorem Code.tffrSrc (d : WReg) (a : WReg) : Code.Statement (.tffrSrc d a) := by
  intro h _ e
  cases e
  simp only [Head.fits, extSpan, encR]
  omega

theorem Code.cseal : Code.Statement (.cseal) := by
  intro h _ e
  cases e
  simp only [Head.fits, extSpan, enc]
  omega

theorem Code.cwaitn (n : BitVec 4) : Code.Statement (.cwaitn n) := by
  intro h _ e
  cases e
  simp only [Head.fits, extSpan, encJ]
  omega

theorem Code.cwaitnSrc (n : BitVec 4) : Code.Statement (.cwaitnSrc n) := by
  intro h _ e
  cases e
  simp only [Head.fits, extSpan, encJ]
  omega

theorem Code.ftest (d : WReg) (a : WReg) : Code.Statement (.ftest d a) := by
  intro h _ e
  cases e
  simp only [Head.fits, extSpan, encR]
  omega

theorem Code.fpass (d : WReg) (a : WReg) : Code.Statement (.fpass d a) := by
  intro h _ e
  cases e
  simp only [Head.fits, extSpan, encR]
  omega

theorem Code.fpassMem (a : WReg) (o : BitVec 23) (b : WReg) : Code.Statement (.fpassMem a o b) := by
  intro h _ e
  cases e
  simp only [Head.fits, extSpan, encJ]
  omega

theorem Code.fcancel (a : WReg) : Code.Statement (.fcancel a) := by
  intro h _ e
  cases e
  simp only [Head.fits, extSpan, encR]
  omega

theorem Code.ftime (d : WReg) (a : WReg) : Code.Statement (.ftime d a) := by
  intro h _ e
  cases e
  simp only [Head.fits, extSpan, encR]
  omega

theorem Code.fwait (a : WReg) : Code.Statement (.fwait a) := by
  intro h _ e
  cases e
  simp only [Head.fits, extSpan, encR]
  omega

theorem Code.mcfg (keep : Bool) (t : Fin 4) (a : WReg) (r : OrdScope) : Code.Statement (.mcfg keep t a r) := by
  intro h _ e
  have h1 := bitNat_lt keep
  have h2 := r.ord.code_lt
  have h3 := r.scope.code_lt
  cases e
  simp only [Head.fits, extSpan, encO]
  omega

theorem Code.mzero (t : Fin 4) (r : OrdScope) : Code.Statement (.mzero t r) := by
  intro h _ e
  have h1 := r.ord.code_lt
  have h2 := r.scope.code_lt
  cases e
  simp only [Head.fits, extSpan, encO]
  omega

theorem Code.mma (sc : Bool) (pp : Bool) (o : MOps) (r : OrdScope) : Code.Statement (.mma sc pp o r) := by
  intro h _ e
  have h1 := bitNat_lt sc
  have h2 := bitNat_lt pp
  cases e
  have hi := o.eimm_lt (fl := bitNat sc + 2 * bitNat pp) (by omega)
  exact fits_encE _ (by omega) (by dsimp only; omega)

theorem Code.mmas (pat8 : Bool) (o : MOps) (r : OrdScope) : Code.Statement (.mmas pat8 o r) := by
  intro h _ e
  have h1 := bitNat_lt pat8
  cases e
  have hi := o.eimm_lt (fl := 4 * bitNat pat8) (by omega)
  exact fits_encE _ (by omega) (by dsimp only; omega)

theorem Code.mcomp (pat8 : Bool) (d : WReg) (a : WReg) (e : WReg) (km1 : BitVec 16) (rowsM1 : BitVec 7) : Code.Statement (.mcomp pat8 d a e km1 rowsM1) := by
  intro h _ e
  have h1 := bitNat_lt pat8
  cases e
  exact fits_encE _ (by omega) (by dsimp only; omega)

theorem Code.mstat (d : WReg) (t : Fin 4) : Code.Statement (.mstat d t) := by
  intro h _ e
  cases e
  simp only [Head.fits, extSpan, encJ]
  omega

theorem Code.mprog (d : WReg) : Code.Statement (.mprog d) := by
  intro h _ e
  cases e
  simp only [Head.fits, extSpan, encR]
  omega

theorem Code.sweep (t : STy) (arr : Bool) (res : Bool) (d : WReg) (a : WReg) (k : KReg) (e : WReg) (f : WReg) (seg : Seg) (cl0 : BitVec 7) (nclM1 : BitVec 7) (r : OrdScope) : Code.Statement (.sweep t arr res d a k e f seg cl0 nclM1 r) := by
  intro h _ e
  have h1 := t.code_lt
  have h2 := bitNat_lt arr
  have h3 := bitNat_lt res
  cases e
  exact fits_encE _ (by omega) (by dsimp only; omega)

theorem Code.swstat (d : WReg) (a : WReg) : Code.Statement (.swstat d a) := by
  intro h _ e
  cases e
  simp only [Head.fits, extSpan, encR]
  omega

theorem Code.swcancel (a : WReg) : Code.Statement (.swcancel a) := by
  intro h _ e
  cases e
  simp only [Head.fits, extSpan, encR]
  omega

theorem Code.swmerge (t : STy) (arr : Bool) (d : WReg) (a : WReg) (b : WReg) : Code.Statement (.swmerge t arr d a b) := by
  intro h _ e
  have h1 := t.code_lt
  have h2 := bitNat_lt arr
  cases e
  simp only [Head.fits, extSpan]
  omega

theorem Code.swmergeSsa (d : WReg) (a : WReg) : Code.Statement (.swmergeSsa d a) := by
  intro h _ e
  cases e
  simp only [Head.fits, extSpan, encR]
  omega

theorem Code.capt (k : KReg) (a : WReg) (cmask : BitVec 14) (cbase : BitVec 5) : Code.Statement (.capt k a cmask cbase) := by
  intro h _ e
  cases e
  simp only [Head.fits, extSpan, encJ]
  omega

theorem Code.captr (k : KReg) (a : WReg) (cmask : BitVec 14) (rmask : BitVec 14) (cbase : BitVec 5) : Code.Statement (.captr k a cmask rmask cbase) := by
  intro h _ e
  cases e
  simp only [Head.fits, extSpan]
  omega

theorem Code.apply (k : KReg) : Code.Statement (.apply k) := by
  intro h _ e
  cases e
  simp only [Head.fits, extSpan, encR]
  omega

theorem Code.ret : Code.Statement (.ret) := by
  intro h _ e
  cases e
  simp only [Head.fits, extSpan, enc]
  omega

theorem Code.applyA (d : WReg) (k : KReg) (named : Option WReg) (r : OrdScope) : Code.Statement (.applyA d k named r) := by
  intro h _ e
  have h1 := r.ord.code_lt
  have h2 := r.scope.code_lt
  rcases named with _ | w <;> cases e <;> simp only [Head.fits, extSpan, encO] <;> omega

theorem Code.kdup (d : KReg) (b : KReg) : Code.Statement (.kdup d b) := by
  intro h _ e
  cases e
  simp only [Head.fits, extSpan, encR]
  omega

theorem Code.kdrop (b : KReg) : Code.Statement (.kdrop b) := by
  intro h _ e
  cases e
  simp only [Head.fits, extSpan, encR]
  omega

theorem Code.kst (a : WReg) (o : BitVec 23) (b : KReg) : Code.Statement (.kst a o b) := by
  intro h _ e
  cases e
  simp only [Head.fits, extSpan, encJ]
  omega

theorem Code.kld (d : KReg) (a : WReg) (o : BitVec 23) : Code.Statement (.kld d a o) := by
  intro h _ e
  cases e
  simp only [Head.fits, extSpan, encJ]
  omega

theorem Code.krelm (a : WReg) (o : BitVec 23) : Code.Statement (.krelm a o) := by
  intro h _ e
  cases e
  simp only [Head.fits, extSpan, encJ]
  omega

theorem Code.migr (a : WReg) : Code.Statement (.migr a) := by
  intro h _ e
  cases e
  simp only [Head.fits, extSpan, encR]
  omega

theorem Code.migrto (a : WReg) : Code.Statement (.migrto a) := by
  intro h _ e
  cases e
  simp only [Head.fits, extSpan, encR]
  omega

theorem Code.park (d : WReg) (a : WReg) (k : KReg) (e : WReg) (npM1 : BitVec 6) (cls : Fin 8) (r : OrdScope) : Code.Statement (.park d a k e npM1 cls r) := by
  intro h _ e
  cases e
  exact fits_encE _ (by omega) (by dsimp only; omega)

theorem Code.wakew (a : WReg) (b : WReg) (r : OrdScope) : Code.Statement (.wakew a b r) := by
  intro h _ e
  have h1 := r.ord.code_lt
  have h2 := r.scope.code_lt
  cases e
  simp only [Head.fits, extSpan, encO]
  omega

theorem Code.estat (d : WReg) (a : WReg) : Code.Statement (.estat d a) := by
  intro h _ e
  cases e
  simp only [Head.fits, extSpan, encR]
  omega

theorem Code.trap (code : BitVec 16) : Code.Statement (.trap code) := by
  intro h _ e
  cases e
  simp only [Head.fits, extSpan, encJ]
  omega

theorem Code.syscall (code : BitVec 16) : Code.Statement (.syscall code) := by
  intro h _ e
  cases e
  simp only [Head.fits, extSpan, encJ]
  omega

theorem Code.eret : Code.Statement (.eret) := by
  intro h _ e
  cases e
  simp only [Head.fits, extSpan, enc]
  omega

theorem Code.eretEnd : Code.Statement (.eretEnd) := by
  intro h _ e
  cases e
  simp only [Head.fits, extSpan, encJ]
  omega

theorem Code.mfs (d : WReg) (r : SysReg) : Code.Statement (.mfs d r) := by
  intro h _ e
  have h1 := r.code_lt
  cases e
  simp only [Head.fits, extSpan, encJ]
  omega

theorem Code.mts (r : SysReg) (a : WReg) : Code.Statement (.mts r a) := by
  intro h _ e
  have h1 := r.code_lt
  cases e
  simp only [Head.fits, extSpan, encJ]
  omega

theorem Code.repart (d : WReg) (a : WReg) : Code.Statement (.repart d a) := by
  intro h _ e
  cases e
  simp only [Head.fits, extSpan, encR]
  omega

theorem Code.spillslot (d : WReg) (a : WReg) (b : WReg) : Code.Statement (.spillslot d a b) := by
  intro h _ e
  cases e
  simp only [Head.fits, extSpan, encR]
  omega

theorem Code.fillslot (d : WReg) (a : WReg) (b : WReg) : Code.Statement (.fillslot d a b) := by
  intro h _ e
  cases e
  simp only [Head.fits, extSpan, encR]
  omega

theorem Code.fillslotEnd (d : WReg) (a : WReg) (b : WReg) : Code.Statement (.fillslotEnd d a b) := by
  intro h _ e
  cases e
  simp only [Head.fits, extSpan, encJ]
  omega

theorem Code.tlbinv (kind : Fin 3) (a : WReg) (b : WReg) : Code.Statement (.tlbinv kind a b) := by
  intro h _ e
  cases e
  simp only [Head.fits, extSpan, encJ]
  omega

theorem Code.launch (d : WReg) (a : WReg) (b : WReg) (e : WReg) (pri : Fin 8) : Code.Statement (.launch d a b e pri) := by
  intro h _ e
  cases e
  exact fits_encE _ (by omega) (by dsimp only; omega)

theorem Code.sleep (a : WReg) : Code.Statement (.sleep a) := by
  intro h _ e
  cases e
  simp only [Head.fits, extSpan, encR]
  omega

theorem Code.assaytrig (tag : BitVec 16) : Code.Statement (.assaytrig tag) := by
  intro h _ e
  cases e
  simp only [Head.fits, extSpan, encJ]
  omega

theorem Code.alignPointRelease (_core : Nat) (_slot : Nat) : Code.Statement (.alignPointRelease _core _slot) := fun _ _ e => nomatch e
theorem Code.messageArrival (_n : Nat) : Code.Statement (.messageArrival _n) := fun _ _ e => nomatch e
theorem Code.messageDelivery (_core : Nat) (_slot : Nat) : Code.Statement (.messageDelivery _core _slot) := fun _ _ e => nomatch e
theorem Code.messageMaskOverrun (_core : Nat) (_slot : Nat) : Code.Statement (.messageMaskOverrun _core _slot) := fun _ _ e => nomatch e
theorem Code.vectorStart (_core : Nat) : Code.Statement (.vectorStart _core) := fun _ _ e => nomatch e
theorem Code.vectorCompletion (_core : Nat) : Code.Statement (.vectorCompletion _core) := fun _ _ e => nomatch e
theorem Code.copyStart (_id : Nat) : Code.Statement (.copyStart _id) := fun _ _ e => nomatch e
theorem Code.copyReleased (_id : Nat) : Code.Statement (.copyReleased _id) := fun _ _ e => nomatch e
theorem Code.copyLanded (_id : Nat) : Code.Statement (.copyLanded _id) := fun _ _ e => nomatch e
theorem Code.haloCopy (_id : Nat) : Code.Statement (.haloCopy _id) := fun _ _ e => nomatch e
theorem Code.futureCompletion (_n : Nat) : Code.Statement (.futureCompletion _n) := fun _ _ e => nomatch e
theorem Code.arrayCommandStart (_clu : Nat) : Code.Statement (.arrayCommandStart _clu) := fun _ _ e => nomatch e
theorem Code.rowBlockWrite (_clu : Nat) : Code.Statement (.rowBlockWrite _clu) := fun _ _ e => nomatch e
theorem Code.arrayCommandEnd (_clu : Nat) : Code.Statement (.arrayCommandEnd _clu) := fun _ _ e => nomatch e
theorem Code.sweepAcceptance (_core : Nat) (_slot : Nat) : Code.Statement (.sweepAcceptance _core _slot) := fun _ _ e => nomatch e
theorem Code.tileDelivery (_sw : Nat) (_tile : Nat) (_core : Nat) : Code.Statement (.tileDelivery _sw _tile _core) := fun _ _ e => nomatch e
theorem Code.tileAgePriority (_sw : Nat) (_tile : Nat) : Code.Statement (.tileAgePriority _sw _tile) := fun _ _ e => nomatch e
theorem Code.swsuspGo (_tslot : Nat) : Code.Statement (.swsuspGo _tslot) := fun _ _ e => nomatch e
theorem Code.migrationFlit (_n : Nat) : Code.Statement (.migrationFlit _n) := fun _ _ e => nomatch e
theorem Code.parkAcceptance (_n : Nat) : Code.Statement (.parkAcceptance _n) := fun _ _ e => nomatch e
theorem Code.wakeWrite (_cell : Nat) (_v : Word) : Code.Statement (.wakeWrite _cell _v) := fun _ _ e => nomatch e
theorem Code.hbmDwellExpiry (_cell : Nat) : Code.Statement (.hbmDwellExpiry _cell) := fun _ _ e => nomatch e
theorem Code.cxlDwellExpiry (_cell : Nat) : Code.Statement (.cxlDwellExpiry _cell) := fun _ _ e => nomatch e
theorem Code.pageMoveComplete (_cell : Nat) (_page : Nat) (_err : Bool) : Code.Statement (.pageMoveComplete _cell _page _err) := fun _ _ e => nomatch e
theorem Code.promotionStageComplete (_cell : Nat) (_page : Nat) (_err : Bool) : Code.Statement (.promotionStageComplete _cell _page _err) := fun _ _ e => nomatch e
theorem Code.ecellclr (_p : Party) (_v : Word) : Code.Statement (.ecellclr _p _v) := fun _ _ e => nomatch e
theorem Code.spill (_core : Nat) (_slot : Nat) : Code.Statement (.spill _core _slot) := fun _ _ e => nomatch e
theorem Code.sleepExpiry (_core : Nat) (_slot : Nat) : Code.Statement (.sleepExpiry _core _slot) := fun _ _ e => nomatch e
theorem Code.memoryReply (_core : Nat) (_slot : Nat) : Code.Statement (.memoryReply _core _slot) := fun _ _ e => nomatch e
theorem Code.bufferedWritePerformed (_core : Nat) (_n : Nat) : Code.Statement (.bufferedWritePerformed _core _n) := fun _ _ e => nomatch e
theorem Code.pinFreeResume (_core : Nat) (_slot : Nat) : Code.Statement (.pinFreeResume _core _slot) := fun _ _ e => nomatch e
theorem Code.pageWalk (_n : Nat) : Code.Statement (.pageWalk _n) := fun _ _ e => nomatch e
theorem Code.efrespResolve (_p : Party) (_token : Nat) : Code.Statement (.efrespResolve _p _token) := fun _ _ e => nomatch e
theorem Code.efrespUnresolvable (_p : Party) (_token : Nat) : Code.Statement (.efrespUnresolvable _p _token) := fun _ _ e => nomatch e
theorem Code.efheadWrite (_p : Party) (_v : Word) : Code.Statement (.efheadWrite _p _v) := fun _ _ e => nomatch e
theorem Code.threadCreation (_n : Nat) : Code.Statement (.threadCreation _n) := fun _ _ e => nomatch e
theorem Code.taskPlacement (_l : Nat) (_die : Nat) (_core : Nat) : Code.Statement (.taskPlacement _l _die _core) := fun _ _ e => nomatch e
theorem Code.dieSteal (_l : Nat) (_die : Nat) : Code.Statement (.dieSteal _l _die) := fun _ _ e => nomatch e
theorem Code.ctenWrite (_p : Party) (_core : Nat) (_v : Word) : Code.Statement (.ctenWrite _p _core _v) := fun _ _ e => nomatch e
theorem Code.covfWrite (_p : Party) (_core : Nat) (_v : Word) : Code.Statement (.covfWrite _p _core _v) := fun _ _ e => nomatch e
theorem Code.qdoor (_p : Party) (_q : Nat) (_v : Word) : Code.Statement (.qdoor _p _q _v) := fun _ _ e => nomatch e
theorem Code.qcfgWrite (_p : Party) (_q : Nat) (_v : Word) : Code.Statement (.qcfgWrite _p _q _v) := fun _ _ e => nomatch e
theorem Code.suspend (_p : Party) (_q : Nat) : Code.Statement (.suspend _p _q) := fun _ _ e => nomatch e
theorem Code.resume (_p : Party) (_q : Nat) : Code.Statement (.resume _p _q) := fun _ _ e => nomatch e
theorem Code.skip (_p : Party) (_q : Nat) : Code.Statement (.skip _p _q) := fun _ _ e => nomatch e
theorem Code.destroy (_p : Party) (_q : Nat) (_kill : Bool) : Code.Statement (.destroy _p _q _kill) := fun _ _ e => nomatch e
theorem Code.queueDestruction (_q : Nat) : Code.Statement (.queueDestruction _q) := fun _ _ e => nomatch e
theorem Code.wsat (_p : Party) (_q : Nat) (_v : Word) : Code.Statement (.wsat _p _q _v) := fun _ _ e => nomatch e
theorem Code.packetFetch (_q : Nat) : Code.Statement (.packetFetch _q) := fun _ _ e => nomatch e
theorem Code.nop (_q : Nat) : Code.Statement (.nop _q) := fun _ _ e => nomatch e
theorem Code.launchPacket (_q : Nat) : Code.Statement (.launchPacket _q) := fun _ _ e => nomatch e
theorem Code.applyPacket (_q : Nat) : Code.Statement (.applyPacket _q) := fun _ _ e => nomatch e
theorem Code.copyPacket (_q : Nat) : Code.Statement (.copyPacket _q) := fun _ _ e => nomatch e
theorem Code.signal (_q : Nat) : Code.Statement (.signal _q) := fun _ _ e => nomatch e
theorem Code.wait (_q : Nat) : Code.Statement (.wait _q) := fun _ _ e => nomatch e
theorem Code.andbar (_q : Nat) : Code.Statement (.andbar _q) := fun _ _ e => nomatch e
theorem Code.timestamp (_q : Nat) : Code.Statement (.timestamp _q) := fun _ _ e => nomatch e
theorem Code.config (_q : Nat) : Code.Statement (.config _q) := fun _ _ e => nomatch e
theorem Code.packetCompletion (_n : Nat) : Code.Statement (.packetCompletion _n) := fun _ _ e => nomatch e
theorem Code.queueAgeing (_q : Nat) : Code.Statement (.queueAgeing _q) := fun _ _ e => nomatch e
theorem Code.waitSlotSpill : Code.Statement (.waitSlotSpill) := fun _ _ e => nomatch e
theorem Code.deadlockReport (_qs : List Nat) : Code.Statement (.deadlockReport _qs) := fun _ _ e => nomatch e
theorem Code.tevheadWrite (_p : Party) (_v : Word) : Code.Statement (.tevheadWrite _p _v) := fun _ _ e => nomatch e
theorem Code.patrolScrub (_line : Nat) : Code.Statement (.patrolScrub _line) := fun _ _ e => nomatch e
theorem Code.ccsctlWrite (_p : Party) (_v : Word) : Code.Statement (.ccsctlWrite _p _v) := fun _ _ e => nomatch e
theorem Code.ccsWindowWrite (_p : Party) (_block : Nat) (_data : List Byte) (_chunks : Nat) : Code.Statement (.ccsWindowWrite _p _block _data _chunks) := fun _ _ e => nomatch e
theorem Code.eyeMarginLow (_n : Nat) (_ew : Nat) (_eh : Nat) (_lane : Nat) : Code.Statement (.eyeMarginLow _n _ew _eh _lane) := fun _ _ e => nomatch e
theorem Code.repair (_p : Party) (_n : Nat) : Code.Statement (.repair _p _n) := fun _ _ e => nomatch e
theorem Code.rtrn (_p : Party) (_n : Nat) : Code.Statement (.rtrn _p _n) := fun _ _ e => nomatch e
theorem Code.flitReceive (_n : Nat) (_crcOk : Bool) : Code.Statement (.flitReceive _n _crcOk) := fun _ _ e => nomatch e
theorem Code.linkFailure (_m : Nat) (_down : Bool) : Code.Statement (.linkFailure _m _down) := fun _ _ e => nomatch e
theorem Code.timeMessageSend (_port : Nat) : Code.Statement (.timeMessageSend _port) := fun _ _ e => nomatch e
theorem Code.timeMessageReceive (_port : Nat) (_sent : Word) (_rtt : Word) : Code.Statement (.timeMessageReceive _port _sent _rtt) := fun _ _ e => nomatch e
theorem Code.cxlLinkDown (_port : Nat) : Code.Statement (.cxlLinkDown _port) := fun _ _ e => nomatch e
theorem Code.flashCommandCompletion (_cell : Nat) (_page : Nat) (_status : Nat) : Code.Statement (.flashCommandCompletion _cell _page _status) := fun _ _ e => nomatch e
theorem Code.ppsEdge : Code.Statement (.ppsEdge) := fun _ _ e => nomatch e
theorem Code.todMessage (_lo : Word) (_hi : Word) : Code.Statement (.todMessage _lo _hi) := fun _ _ e => nomatch e
theorem Code.timeSourceLoss : Code.Statement (.timeSourceLoss) := fun _ _ e => nomatch e
theorem Code.timeWrap : Code.Statement (.timeWrap) := fun _ _ e => nomatch e
theorem Code.tstep (_p : Party) (_v : Word) : Code.Statement (.tstep _p _v) := fun _ _ e => nomatch e
theorem Code.actlWrite (_clu : Nat) (_v : Word) : Code.Statement (.actlWrite _clu _v) := fun _ _ e => nomatch e
theorem Code.arheadWrite (_clu : Nat) (_v : Word) : Code.Statement (.arheadWrite _clu _v) := fun _ _ e => nomatch e
theorem Code.traceRecordWrite (_clu : Nat) : Code.Statement (.traceRecordWrite _clu) := fun _ _ e => nomatch e
theorem Code.snapshotTrigger (_src : Nat) (_tag : Nat) (_tid : Word) : Code.Statement (.snapshotTrigger _src _tag _tid) := fun _ _ e => nomatch e
theorem Code.snapin : Code.Statement (.snapin) := fun _ _ e => nomatch e
theorem Code.fire (_p : Party) : Code.Statement (.fire _p) := fun _ _ e => nomatch e
theorem Code.arm (_p : Party) : Code.Statement (.arm _p) := fun _ _ e => nomatch e
theorem Code.getVersion : Code.Statement (.getVersion) := fun _ _ e => nomatch e
theorem Code.getCapabilities : Code.Statement (.getCapabilities) := fun _ _ e => nomatch e
theorem Code.negotiateAlgorithms (_asym : Nat) (_hash : Nat) (_aead : Nat) : Code.Statement (.negotiateAlgorithms _asym _hash _aead) := fun _ _ e => nomatch e
theorem Code.getDigests : Code.Statement (.getDigests) := fun _ _ e => nomatch e
theorem Code.getCertificate (_slot : Nat) (_off : Nat) (_len : Nat) : Code.Statement (.getCertificate _slot _off _len) := fun _ _ e => nomatch e
theorem Code.challenge (_slot : Nat) (_nonce : Nat) : Code.Statement (.challenge _slot _nonce) := fun _ _ e => nomatch e
theorem Code.getMeasurements (_index : Nat) (_nonce : Nat) : Code.Statement (.getMeasurements _index _nonce) := fun _ _ e => nomatch e
theorem Code.keyExchange (_share : Nat) : Code.Statement (.keyExchange _share) := fun _ _ e => nomatch e
theorem Code.finish (_mac : Nat) : Code.Statement (.finish _mac) := fun _ _ e => nomatch e
theorem Code.endSession : Code.Statement (.endSession) := fun _ _ e => nomatch e
theorem Code.fwverify (_p : Party) (_v : Word) : Code.Statement (.fwverify _p _v) := fun _ _ e => nomatch e
theorem Code.fwverifyDone : Code.Statement (.fwverifyDone) := fun _ _ e => nomatch e
theorem Code.fwswitch (_p : Party) (_v : Word) : Code.Statement (.fwswitch _p _v) := fun _ _ e => nomatch e
theorem Code.fwswitchDone : Code.Statement (.fwswitchDone) := fun _ _ e => nomatch e
theorem Code.fwhb (_p : Party) (_v : Word) : Code.Statement (.fwhb _p _v) := fun _ _ e => nomatch e
theorem Code.fwRollback : Code.Statement (.fwRollback) := fun _ _ e => nomatch e
theorem Code.fwdig (_p : Party) (_v : Word) : Code.Statement (.fwdig _p _v) := fun _ _ e => nomatch e
theorem Code.fwdigDone : Code.Statement (.fwdigDone) := fun _ _ e => nomatch e
theorem Code.powerOn (_badGroup : Option Nat) : Code.Statement (.powerOn _badGroup) := fun _ _ e => nomatch e
theorem Code.islWrite (_p : Party) (_n : Nat) (_v : Word) : Code.Statement (.islWrite _p _n _v) := fun _ _ e => nomatch e
theorem Code.thermalThrottle (_n : Nat) (_tj : Nat) : Code.Statement (.thermalThrottle _n _tj) := fun _ _ e => nomatch e
theorem Code.throttleStep (_n : Nat) : Code.Statement (.throttleStep _n) := fun _ _ e => nomatch e
theorem Code.powerLimitWindow (_draw : Nat) : Code.Statement (.powerLimitWindow _draw) := fun _ _ e => nomatch e
theorem Code.registerWrite (_p : Party) (_pa : Nat) (_bytes : Nat) (_v : Word) : Code.Statement (.registerWrite _p _pa _bytes _v) := fun _ _ e => nomatch e
theorem Code.hostBar2Write (_func : Nat) (_va : Word) (_data : List Byte) : Code.Statement (.hostBar2Write _func _va _data) := fun _ _ e => nomatch e
theorem Code.holdoverLockExpiry : Code.Statement (.holdoverLockExpiry) := fun _ _ e => nomatch e
theorem Code.retrainHoldEnd (_n : Nat) : Code.Statement (.retrainHoldEnd _n) := fun _ _ e => nomatch e
theorem Code.islandChangeHoldEnd (_n : Nat) : Code.Statement (.islandChangeHoldEnd _n) := fun _ _ e => nomatch e

end Sys2Proof.Laws
end

