-- ==== Sys2Proof/Tests/Slice0.lean ====
section
/-! SUPPORT. Tests: what well-formedness refuses, the manual's own words decoded, single steps on small states, and for each statement a concrete state that meets its hypotheses. -/

set_option Elab.async false

namespace Sys2Proof.Tests

open Sys2Proof Sys2Proof.Machine

/-! Well-formedness: each check refuses a term. -/

def ops (x : VExt) : VOps := ⟨1, 2, 3, x⟩
def ext : VExt := ⟨none, none, false, false, false, false, false⟩

theorem test_wf_scalar_refused : ([
    .shli 1 2 (.i23 64), .rori 1 2 (.i23 (-1)), .sext .d 1 2, .zext .q 1 2, .bfx 1 2 60 5, .bfi 1 2 1 0, .fcvt .np (.fl .f32) 1 2, .fcvt (.fl .f32) .raw 1 2,
    .wrctl .iflags 1, .mts .time 1, .mts .partcfg 1, .tlbinv 1 4 5, .tlbinv 2 4 5] : List Instr).all (fun i => !i.wf) = true := by
  decide +kernel

theorem test_wf_memory_refused : ([
    .ld .q 3 2 (.i23 0), .lds .d 1 2 (.i23 0), .ldPostinc .d 4 4, .ldPostinc .q 4 5, .ldsPostinc .q 4 6, .st .q 1 (.i23 0) 3, .stPostinc .q 1 5,
    .ald .h 1 2 (.i23 0) OrdScope.none, .ald .d 1 2 (.i23 0) ⟨.none, .pkg⟩, .ast .d 1 (.i23 0) 2 ⟨.rel, .thr⟩, .aadd .q 1 2 (.i23 0) 3 OrdScope.none,
    .acas .q 1 2 (.i23 0) 4 OrdScope.none, .afadd .f16 1 2 (.i23 0) 3 OrdScope.none] : List Instr).all (fun i => !i.wf) = true := by decide +kernel

theorem test_wf_sync_refused : ([
    .phase .thr, .fenceRel .thr, .binit false .thr 1 2, .binit true .clu 1 2, .barr 1 2 ⟨.acq, .clu⟩, .bwait 1 2 ⟨.rel, .clu⟩, .bsync 1 2 ⟨.none, .clu⟩,
    .wakew 1 2 ⟨.rel, .thr⟩, .park 1 2 0 3 0 0 ⟨.rel, .pkg⟩, .park 1 2 0 3 0 0 ⟨.acq, .clu⟩, .applyA 1 0 none ⟨.none, .clu⟩] : List Instr).all (fun i => !i.wf) = true := by
  decide +kernel

theorem test_wf_engine_refused : ([
    .vadd (ops { ext with immvl := some 0 }), .vadd (ops { ext with immvl := some 4097 }), .vadd (ops { ext with bca := true, pia := true }),
    .vabs (ops ext), .vcmp .hi (ops ext), .vdot false (ops { ext with bcb := true }), .vred false false (ops ext), .vsmaxf 0 (ops ext),
    .halo 1 2 3 4 3 false, .mcfg false 0 1 ⟨.none, .pkg⟩, .mma false false ⟨1, 2, 3, 4, 5, 0, 0, 0, 0, false⟩ OrdScope.none, .mcomp false 1 2 3 6 0,
    .sweep .f32 false false 1 2 0 3 4 0 95 1 OrdScope.none, .captr 0 7 1 2 5] : List Instr).all (fun i => !i.wf) = true := by decide +kernel

/-! Decoding: the manual's own words, given beside their lines. -/

/-- Whether each word of a list decodes to the instruction beside it, and is its encoding. -/
def decodes (nbits : Nat) (l : List (Nat × Instr)) : Bool := l.all (fun p => decodeTableWord nbits p.1 == some p.2 && encode p.2 == some p.1 && p.2.wf)

/-- Three parcels of 32 bits, the first lowest (R106). -/
def p3 (a b c : Nat) : Nat := a + b * 2 ^ 32 + c * 2 ^ 64

/-- Four parcels of 32 bits. -/
def p4 (a b c d : Nat) : Nat := p3 a b c + d * 2 ^ 96

theorem test_decode_scalar : decodes 64 [
    (0x0000000030880001, .add 8 4 12), (0xFFFFF00000630005, .addi 3 3 (.i23 (-8))), (0x0000020001850505, .ori 5 12 (.i23 1)),
    (0x000000009CC50015, .fadd .f32 5 6 7), (0xFFFFE80080000221, .bc .ne (-12)), (0xFFFFFC0000020621, .dbnz 2 (-2)), (0x29, .exit), (0x21, .nop64),
    (0x000306000000002D, .rep 0 true true false 3), (0x0004B0020000012D, .hintAlign 4 600), (0x0000000000070175, .flgrd 7),
    (0x0000040000000075, .rmset .rup), (0x00003E0000000275, .flgclr 0x1F), (0x50079, .tsrd 5), (0x00000E0010600179, .evmark 3 4 7)] = true := by decide +kernel

theorem test_decode_movi : decodes 96 [(p3 0x0005010A 0 0x4CBEBC20, .movi 5 (.i32 0x4CBEBC20))] = true := by decide +kernel

theorem test_decode_memory : decodes 64 [
    (0x000010019C200035, .st .d 1 (.i23 8) 7), (0x0000000180640231, .ldPostinc .d 4 3),
    (0x0000800180640031, .ld .d 4 3 (.i23 64)), (0x000001C218440049, .acas .q 4 2 (.i23 0) 6 ⟨.acqRel, .pkg⟩),
    (0x0000014194800141, .ast .d 4 (.i23 0) 5 ⟨.rel, .pkg⟩), (0x0000014000000051, .phaseRel .pkg), (0x000000C000000051, .phaseAcq .pkg),
    (0x0000014000000151, .fenceRel .pkg), (0x000001C014600455, .bsync 3 5 ⟨.acqRel, .pkg⟩), (0x00000A0025030061, .send 3 8 9 5)] = true := by decide +kernel

theorem test_decode_vector : decodes 96 [
    (p3 0x20C40782 0 7, .vfma ⟨4, 6, 8, { ext with pid := true, pia := true, pib := true }⟩),
    (p3 0x9483008A 5 0x10, .vcmp .lt ⟨3, 4, 5, { ext with bcb := true }⟩), (p3 0x0062008E 0x200 2, .vred true false ⟨2, 3, 0, { ext with pia := true }⟩),
    (p3 0x358E0092 0x200 0x220, .vsmax 1 ⟨14, 12, 13, { ext with immvl := some 4 }⟩), (p3 0x000E0192 0x200 0, .vsmaxf 1 ⟨14, 0, 0, ext⟩),
    (p3 0x4A33038E 0 0, .vdot false ⟨19, 17, 18, ext⟩)] = true := by decide +kernel

theorem test_decode_engines : decodes 64 [
    (0x00000000006000C1, .mtc 0 3), (0x0000080000E000C1, .mtc 4 7), (0x602C1, .claunch 6), (0x00000000010901C5, .twaitall 9 8), (0xC9, .cseal),
    (0x00000200000001C9, .cwaitn 1), (0x00000000012400F9, .ftest 4 9), (0x00000000012003F9, .fcancel 9), (0x0000020000A000D1, .mcfg false 1 5 OrdScope.none),
    (0x00000A0000A000D1, .mcfg true 1 5 OrdScope.none), (0x00000400000001D1, .mzero 2 OrdScope.none), (0x00000000012401E1, .swstat 4 9),
    (0x00000000012002E1, .swcancel 9), (0x0000000000C501E5, .swmergeSsa 5 6), (0x000000009CC500E5, .swmerge .f32 false 5 6 7),
    (0x000002009CC500E5, .swmerge .f32 true 5 6 7)] = true := by decide +kernel

theorem test_decode_closures : decodes 64 [
    (0x0280260000E100ED, .capt 1 7 0x13 5), (0x00000000040002ED, .apply 1), (0x3ED, .ret), (0x00000140080904ED, .applyA 9 2 none ⟨.rel, .pkg⟩),
    (0x00000000040305ED, .kdup 3 1), (0x00000000040006ED, .kdrop 1), (0x00002000046007ED, .kst 3 16 1), (0x00002000006208ED, .kld 2 3 16),
    (0x00002000006009ED, .krelm 3 16), (0x00000000008000F1, .migr 4), (0x00000000008001F1, .migrto 4), (0x0000015018A001F5, .wakew 5 6 ⟨.rel, .dom⟩),
    (0x0000000000A702F5, .estat 7 5)] = true := by decide +kernel

theorem test_decode_long : decodes 128 [
    (p4 0x086900F7 0x1C0 0x104004 0, .park 9 3 2 4 1 1 ⟨.acqRel, .pkg⟩), (p4 0x846900E3 0x1C0 0x40A4 0, .sweep .f32 false false 9 3 1 4 5 0 1 0 ⟨.acqRel, .pkg⟩),
    (p4 0x106909FF 0 0x8005 0, .launch 9 3 4 5 2)] = true := by decide +kernel

theorem test_decode_captr : decodes 96 [(p3 0x00E001EE 0xA00 0x8003, .captr 0 7 3 2 5)] = true := by decide +kernel

theorem test_decode_system : decodes 64 [
    (0x00006000000403FD, .mfs 4 .actl), (0x00000400000403FD, .mfs 4 .trapcause), (0x0000600000A004FD, .mts .actl 5), (0x0000060000A004FD, .mts .trappc 5),
    (0x00000E00000001FD, .syscall 7), (0x00000200140008FD, .tlbinv 1 0 5), (0x00000000148008FD, .tlbinv 0 4 5), (0x0000000000A00AFD, .sleep 5),
    (0x0000000020E606FD, .spillslot 6 7 8), (0x0000000020E607FD, .fillslot 6 7 8), (0x0000020020E607FD, .fillslotEnd 6 7 8),
    (0x00000A0000000BFD, .assaytrig 5)] = true := by decide +kernel

/-! Single steps. -/

/-- A user thread of tenant 1 on core 0, slot 0, WP 0x1000, PC at the start of bank X0. -/
def st : State := withThread State.reset false

/-- Register `n` of that thread set to `v`. -/
def put (s : State) (n : Nat) (v : Word) : State := s.setW64 (winKey 0 (0x1000 + 8 * n)) v

/-- Register `n` of that thread. -/
def reg (s : State) (n : Nat) : Word := s.w64 (winKey 0 (0x1000 + 8 * n))

/-- That thread with registers W4 and W5 set. -/
def st2 (a b : Word) : State := put (put st 4 a) 5 b

/-- Something of the state that an instruction leaves, if it leaves one. -/
def after {α : Type} (i : Instr) (s : State) (f : State → α) : Option α :=
  match exec i s with
  | .next t => some (f t)
  | _ => none

/-- FLAGS of that thread as Z, N, C, V. -/
def zncv (s : State) : List Bool := match s.thread 0 0 with
  | some t => [t.flags.z, t.flags.n, t.flags.c, t.flags.v]
  | none => []

/-- Something of that thread. -/
def th {α : Type} (f : Thread → α) (s : State) : Option α := (s.thread 0 0).map f

/-- Its cause and TRAPINFO, once it stands in its kernel frame. -/
def cause (s : State) : Nat × Word := ((s.slot 0 0).trapcause.toNat, (s.slot 0 0).trapinfo)

theorem test_st_tidy : Tidy st := ⟨by decide +kernel, by decide +kernel, by decide +kernel, by decide +kernel⟩

/-- FLAGS set. -/
def flagged (f : Flags) (s : State) : State := s.modThread 0 0 (fun t => { t with flags := f })

/-- A one in register 3's result. -/
def r3 (s : State) : Word := reg s 3

theorem test_add_wraps : after (.add 3 4 5) (st2 (-1) 1) (fun s => (r3 s, zncv s)) = some (0, [true, false, true, false]) := by decide +kernel
theorem test_sub_borrows : after (.sub 4 4 5) (st2 5 7) (fun s => (reg s 4, zncv s)) = some (-2, [false, true, false, false]) := by decide +kernel
theorem test_adc_carries_in : after (.adc 3 4 5) (flagged ⟨false, false, true, false⟩ (st2 1 2)) r3 = some 4 := by decide +kernel
theorem test_sbc_borrows_in : after (.sbc 3 4 5) (flagged ⟨false, false, false, false⟩ (st2 9 2)) r3 = some 6 := by decide +kernel
theorem test_andn : after (.andn 3 4 5) (st2 0xFF 0x0F) r3 = some 0xF0 := by decide +kernel
theorem test_shl_takes_six_bits : after (.shl 3 4 5) (st2 3 65) r3 = some 6 := by decide +kernel
theorem test_sar_keeps_sign : after (.sar 3 4 5) (st2 (-8) 1) r3 = some (-4) := by decide +kernel
theorem test_ror_by_zero : after (.ror 3 4 5) (st2 0x81 0) r3 = some 0x81 := by decide +kernel
theorem test_mulhu : after (.mulhu 3 4 5) (st2 (-1) 2) r3 = some 1 := by decide +kernel
theorem test_mulhs : after (.mulhs 3 4 5) (st2 (-1) 2) r3 = some (-1) := by decide +kernel
theorem test_divs_truncates : after (.divs 3 4 5) (st2 (-7) 2) r3 = some (-3) := by decide +kernel
theorem test_divs_overflow : after (.divs 3 4 5) (st2 0x8000000000000000 (-1)) r3 = some 0x8000000000000000 := by decide +kernel
theorem test_rems_by_zero : after (.rems 3 4 5) (st2 (-7) 0) r3 = some (-7) := by decide +kernel
theorem test_mins_is_signed : after (.mins 3 4 5) (st2 (-7) 3) r3 = some (-7) := by decide +kernel
theorem test_minu_is_unsigned : after (.minu 3 4 5) (st2 (-7) 3) r3 = some 3 := by decide +kernel
theorem test_subi_extends : after (.subi 3 4 (.i23 (-1))) (st2 5 0) r3 = some 6 := by decide +kernel
theorem test_cmp_flags : after (.cmp 4 5) (st2 0x8000000000000000 1) zncv = some [false, false, true, true] := by decide +kernel
theorem test_neg_of_zero : after (.neg 3 4) (st2 0 0) (fun s => (r3 s, zncv s)) = some (0, [true, false, true, false]) := by decide +kernel
theorem test_movhi_keeps_low : after (.movhi 4 0xFF) (st2 0x123456789 0) (fun s => reg s 4) = some 0xFF23456789 := by decide +kernel
theorem test_leax : after (.leax 3 4 5 3) (st2 0x1000 5) r3 = some 0x1028 := by decide +kernel
theorem test_adr : after (.adr 3 (.i23 16)) st r3 = some 0xFF00000000008010 := by decide +kernel
theorem test_sext_half : after (.sext .h 3 4) (st2 0x18000 0) r3 = some 0xFFFFFFFFFFFF8000 := by decide +kernel
theorem test_clz_of_zero : after (.clz 3 4) (st2 0 0) r3 = some 64 := by decide +kernel
theorem test_bswap : after (.bswap 3 4) (st2 0x0102030405060708 0) r3 = some 0x0807060504030201 := by decide +kernel
theorem test_brev : after (.brev 3 4) (st2 1 0) r3 = some 0x8000000000000000 := by decide +kernel
theorem test_bfx_whole : after (.bfx 3 4 0 0) (st2 (-2) 0) r3 = some (-2) := by decide +kernel
theorem test_bfxs : after (.bfxs 3 4 4 4) (st2 0x80 0) r3 = some (-8) := by decide +kernel
theorem test_bfi : after (.bfi 5 4 8 4) (st2 0xABC 0xFFFFFFFF) (fun s => reg s 5) = some 0xFFFFFCFF := by decide +kernel
theorem test_csel_takes_b : after (.csel .eq 3 4 5) (st2 1 2) r3 = some 2 := by decide +kernel
theorem test_cset_ls : after (.cset .ls 3) (flagged ⟨false, false, true, false⟩ st) r3 = some 0 := by decide +kernel

/-- IFLAGS of the thread, in the order of R75. -/
def iflags (s : State) : Option (BitVec 5) := th (fun t => t.iflags) s

/-- The thread with a rounding mode. -/
def rounding (m : RMode) (s : State) : State := s.modThread 0 0 (fun t => { t with rmode := m })

/- The worked chain of 07: 1.0e8 + 3.0 in F32 is 1.0e8 under RNE and the next value under RUP, each inexact. -/
theorem test_fadd_rne : after (.fadd .f32 3 4 5) (st2 0x4CBEBC20 0x40400000) (fun s => (r3 s, iflags s)) = some (0x4CBEBC20, some 0x10) := by decide +kernel
theorem test_fadd_rup : after (.fadd .f32 3 4 5) (rounding .rup (st2 0x4CBEBC20 0x40400000)) (fun s => (r3 s, iflags s)) = some (0x4CBEBC21, some 0x10) := by
  decide +kernel
theorem test_fdiv_by_zero : after (.fdiv .f64 3 4 5) (st2 0x3FF0000000000000 0x8000000000000000) (fun s => (r3 s, iflags s)) = some (0xFFF0000000000000, some 2) := by
  decide +kernel
theorem test_fsqrt_negative : after (.fsqrt .f32 3 4) (st2 0xBF800000 0) (fun s => (r3 s, iflags s)) = some (0x7FC00000, some 1) := by decide +kernel
theorem test_fma_adds_d : after (.fma .f64 3 4 5) (put (st2 0x4008000000000000 0x4010000000000000) 3 0x4014000000000000) r3 = some 0x4031000000000000 := by decide +kernel
theorem test_fneg_of_zero : after (.fneg .f16 3 4) (st2 0 0) (fun s => (r3 s, iflags s)) = some (0x8000, some 0) := by decide +kernel
theorem test_fcmp_nan : after (.fcmp .f32 4 5) (st2 0x7FC00000 0) (fun s => (zncv s, iflags s)) = some ([false, false, true, true], some 0) := by decide +kernel
theorem test_fcvt_saturates : after (.fcvt .i32 (.fl .f64) 3 4) (st2 0x41F0000000000000 0) (fun s => (r3 s, iflags s)) = some (0x7FFFFFFF, some 1) := by decide +kernel

/-- The thread's PC. -/
def pc (s : State) : Option Word := th (fun t => t.pc) s

theorem test_b_backward : after (.b (-2)) st pc = some (some 0xFF00000000007FF8) := by decide +kernel
theorem test_bc_not_taken : after (.bc .eq 4) st pc = some (some 0xFF00000000008008) := by decide +kernel
theorem test_bl_links : after (.bl 3 4) st (fun s => (r3 s, pc s)) = some (0xFF00000000008008, some 0xFF00000000008010) := by decide +kernel
theorem test_dbnz_falls_through : after (.dbnz 4 (-2)) (st2 1 0) (fun s => (reg s 4, pc s)) = some (0, some 0xFF00000000008008) := by decide +kernel
theorem test_jr_misaligned : after (.jr 4) (st2 0x1002 0) cause = some (0x05, 0x1002) := by decide +kernel
theorem test_jmpa_not_canonical : after (.jmpa 0x0100000000000000) st cause = some (0x07, 0x0100000000000000) := by decide +kernel
theorem test_wrctl_vl_too_large : after (.wrctl .vl 4) (st2 4097 0) cause = some (0x01, 0x1504) := by decide +kernel
theorem test_rdctl_nregs : after (.rdctl 3 .nregs) st r3 = some 16 := by decide +kernel
theorem test_register_outside : after (.add 3 16 5) st (fun s => (s.slot 0 0).trapcause) = some 3 := by decide +kernel

/-- An address in bank Y0 of core 0 (R57). -/
def y0 : Word := 0xFF00000000024000

theorem test_st_byte_only : after (.st .b 4 (.i23 1) 5) (st2 y0 0x1234) (fun s => s.w64 (winKey 0 0x24000)) = some 0x3400 := by decide +kernel
/-- That thread has taken the reply it waits for. -/
def replied (s : State) : State := takeReply s 0 0

theorem test_lds_extends : after (.lds .b 3 4 (.i23 0)) ((st2 y0 0).setW64 (winKey 0 0x24000) 0x80) (fun s => r3 (replied s)) = some (-128) := by decide +kernel
theorem test_ld_postinc : after (.ldPostinc .s 3 4) ((st2 y0 0).setW64 (winKey 0 0x24000) (-1)) (fun s => (r3 (replied s), reg s 4)) = some (0xFFFFFFFF, y0 + 4) := by decide +kernel
theorem test_ld_misaligned : after (.ld .d 3 4 (.i23 4)) (st2 y0 0) cause = some (0x05, y0 + 4) := by decide +kernel
theorem test_aadd_wraps : after (.aadd .s 3 4 (.i23 0) 5 OrdScope.none) ((st2 y0 2).setW64 (winKey 0 0x24000) 0x5FFFFFFFF) (fun s => (r3 (replied s), s.w64 (winKey 0 0x24000))) =
    some (0xFFFFFFFF, 0x500000001) := by decide +kernel
theorem test_acas_fails : after (.acas .d 3 4 (.i23 0) 5 OrdScope.none) ((put (st2 y0 2) 3 8).setW64 (winKey 0 0x24000) 9) (fun s => (r3 (replied s), s.w64 (winKey 0 0x24000), zncv s)) =
    some (9, 9, [false, false, false, false]) := by decide +kernel
theorem test_acas_stores : after (.acas .d 3 4 (.i23 0) 5 OrdScope.none) ((put (st2 y0 2) 3 9).setW64 (winKey 0 0x24000) 9) (fun s => (r3 (replied s), s.w64 (winKey 0 0x24000), zncv s)) =
    some (9, 2, [true, false, false, false]) := by decide +kernel
theorem test_amins_is_signed : after (.amins .s 3 4 (.i23 0) 5 OrdScope.none) ((st2 y0 0xFFFFFFFE).setW64 (winKey 0 0x24000) 7) (fun s => s.w64 (winKey 0 0x24000)) =
    some 0xFFFFFFFE := by decide +kernel

/-- A counting barrier's record of a phase, a count of arrivals and an expectation, at Y0 (R161). -/
def barrier (ph cnt exp : Nat) : State :=
  (st2 y0 ph).setW64 (winKey 0 0x24000) (BitVec.ofNat 64 (2 ^ 60 + 2 * 2 ^ 55 + ph)) |>.setW64 (winKey 0 0x24008) (BitVec.ofNat 64 (cnt * 2 ^ 16 + exp))

theorem test_binit_writes_record : after (.binit false .clu 4 5) (st2 y0 3) (fun s => (s.w64 (winKey 0 0x24000), s.w64 (winKey 0 0x24008))) =
    some (0x1100000000000000, 3) := by decide +kernel
theorem test_binit_expects_one : after (.binit false .clu 4 5) (st2 y0 0) (fun s => (s.slot 0 0).trapcause) = some 1 := by decide +kernel

theorem test_mmask_sets_msk : after .mmask st (fun s => s.msk 0 0) = some true := by decide +kernel
theorem test_mret_outside_handler : after .mret st cause = some (0x07, 0) := by decide +kernel
theorem test_send_bad_name : after (.send 3 4 5 0) (st2 7 0) (fun s => (s.slot 0 0).trapcause) = some 1 := by decide +kernel
theorem test_mytid : after (.mytid 3) st (fun s => (r3 s) &&& 0xFFFFE00000000000) = some 0xA000000000000000 := by decide +kernel

theorem test_mtc_arms : after (.mtc 2 4) (st2 9 0) (fun s => ((s.slot 0 0).cset.cshp, (s.slot 0 0).cset.arm)) = some (9, true) := by decide +kernel
theorem test_claunch_disarmed : after (.claunch 3) st r3 = some 1 := by decide +kernel
theorem test_twaitany_of_none : after (.twaitany 3 4) (st2 0 0) r3 = some 0 := by decide +kernel
theorem test_tffr_of_none : after (.tffr 3 4) (st2 0 0) r3 = some 64 := by decide +kernel
theorem test_cstat_of_no_transfer : after (.cstat 3 4) (st2 0 0) r3 = some 0xF000000000000000 := by decide +kernel
theorem test_ftest_of_a_value : after (.ftest 3 4) (st2 5 0) r3 = some 1 := by decide +kernel

/-- Bank Y0's segment in I64 elements (R62). -/
def i64s (s : State) : State := s.setCore 0 { s.core 0 with fmt := tset fmtReset (s.core 0).fmt 4 0x886 }

theorem test_vadd_waits : after (.vadd ⟨3, 4, 5, { ext with immvl := some 2 }⟩) (i64s (put (st2 y0 y0) 3 y0)) (fun s => th (fun t => t.wait) s) = some (some .vector) := by
  decide +kernel
theorem test_mzero_of_no_tile : after (.mzero 1 OrdScope.none) st cause = some (0x07, 0x14000000) := by decide +kernel
theorem test_mstat_of_no_tile : after (.mstat 3 1) st r3 = some 0 := by decide +kernel
theorem test_swstat_of_no_sweep : after (.swstat 3 4) (st2 0 0) r3 = some 0xF000000000000000 := by decide +kernel
theorem test_swmerge_of_no_slot : after (.swmerge .f32 false 3 4 5) (st2 y0 0) (fun s => (s.slot 0 0).trapcause) = some 1 := by decide +kernel

/-- The manual's capture example (13): core 40, WP 0x1000, W5 = 10, W6 = 20, W7 the entry, record 3 the lowest free one, at GEN 5. -/
def core40 : State :=
  let s := State.reset
  let s := { s with xl := { s.xl with tentab := tins (tins (tins s.xl.tentab 0 0x10001) 1 0) 2 0x400 }, pwr := { s.pwr with on := true }, cur := ⟨40, 0, none⟩ }
  let s := (s.setCore 40 { CoreSt.reset with tenant := 1 }).setClu 2 { s.clu 2 with rmemb := 1 }
  let s := createIn s 40 0 0x1000 (flatVa 40 0x8000) 1024 false [] .none ⟨0, 0, 0, 0, 0, []⟩
  let w (n : Nat) := winKey 40 (0x1000 + 8 * n)
  let r (y o : Nat) := winKey 40 (0x5C000 + 128 * y + o)
  (((((s.setW64 (w 5) 10).setW64 (w 6) 20).setW64 (w 7) 0x400200).setW64 (r 0 8) (2 ^ 34)).setW64 (r 1 8) (2 ^ 34)).setW64 (r 2 8) (2 ^ 34) |>.setW64 (r 3 0) 5

theorem test_captr_example : after (.captr 0 7 3 2 5) core40 (fun s => ([0, 1, 2, 3].map (fun n => s.w64 (winKey 40 (0x5C180 + 8 * n))), (s.thread 40 0).map (fun t => t.k[0]))) =
    some ([0x20010005, 0x12004A0018004, 10, 0xFF00000001401030], some 0xC0500C0140000000) := by decide +kernel
theorem test_capt_misaligned : after (.capt 1 4 0 0) (st2 0x1010 0) cause = some (0x05, 0x1010) := by decide +kernel
theorem test_ret_of_first_frame : after .ret st (fun s => (s.slot 0 0).trapcause) = some 7 := by decide +kernel
theorem test_apply_of_no_handle : after (.apply 1) st (fun s => (s.slot 0 0).trapcause) = some 0x0D := by decide +kernel
theorem test_migrto_here : after (.migrto 4) (st2 0 0) pc = some (some 0xFF00000000008008) := by decide +kernel

theorem test_syscall_returns_past : after (.syscall 7) st (fun s => (cause s, (s.slot 0 0).trappc)) = some ((0x15, 7), 0xFF00000000008008) := by decide +kernel
theorem test_trap_needs_kernel_mode : ((State.reset.withFetchWord 64 0x00000400000403FD).thread 0 0).map (fun t => t.kernel) = some true := by decide +kernel

/-! Witnesses: each statement applied to a concrete state and operands that meet its hypotheses, clause by clause. -/

/-- A decidable fact, by evaluation. -/
theorem kd {p : Prop} [Decidable p] (h : decide p = true := by decide +kernel) : p := of_decide_eq_true h

/-- An instruction answers a next state. -/
def Next (i : Instr) (s : State) : Prop := ∃ s', exec i s = .next s'

/-- The issuing thread of a state that has one. -/
def thr (s : State) : Thread := (s.thread s.cur.core s.cur.slot).getD ((st.thread 0 0).get kd)

/-- What an operation answers, and the state it leaves. -/
def got {α : Type} (d : α) (m : M α) (s : State) : α := match m s with
  | .ok (v, _) => v
  | .error _ => d

def left {α : Type} (m : M α) (s : State) : State := match m s with
  | .ok (_, t) => t
  | .error _ => s

def fine {α : Type} (m : M α) (s : State) : Bool := match m s with
  | .ok _ => true
  | .error _ => false

theorem hits {α : Type} {d : α} {m : M α} {s : State} (h : fine m s = true := by decide +kernel) : m s = .ok (got d m s, left m s) := by
  unfold fine at h
  unfold got left
  split at h
  · rename_i p e
    simp [e]
  · cases h

def tidyB (s : State) : Bool := Memory.wf s.mem && twf SlotSt.reset s.slots && twf CoreSt.reset s.cores && twf CluSt.reset s.clus

theorem tidy_of {s : State} (h : tidyB s = true := by decide +kernel) : Tidy s := by
  simp only [tidyB, Bool.and_eq_true] at h
  exact ⟨h.1.1.1, h.1.1.2, h.1.2, h.2⟩

theorem issues_of {s : State} {t : Thread} (h : decide (s.thread s.cur.core s.cur.slot = some t) = true := by decide +kernel) : Issues s t := of_decide_eq_true (p := s.thread s.cur.core s.cur.slot = some t) h

theorem part_of {s : State} {l : List WReg} (h : l.all (fun r => r.val < s.nregs s.cur.core) = true := by decide +kernel) : InPart s l := fun r hr => by
  simpa using List.all_eq_true.mp h r hr

theorem ready_of {s : State} {t : Thread} {l : List WReg} (hi : decide (s.thread s.cur.core s.cur.slot = some t) = true := by decide +kernel)
    (h : l.all (fun r => r.val < s.nregs s.cur.core && !t.pends r.val) = true := by decide +kernel) : Ready s t l :=
  ⟨issues_of hi, fun r hr => by have := List.all_eq_true.mp h r hr; simp at this; exact this.1,
    fun r hr => by have := List.all_eq_true.mp h r hr; simp at this; exact this.2⟩

theorem dst_of {s : State} {t : Thread} {d : WReg} (h : (d.val < s.nregs s.cur.core && (!t.pends d.val || bit (opnd s t d) 23)) = true := by decide +kernel) : Dst s t d := by
  simp at h
  exact ⟨h.1, h.2⟩

theorem follows_of {s s1 : State} {u : Thread} (h : decide (s1.cur = s.cur ∧ s1.thread s1.cur.core s1.cur.slot = some u ∧ tidyB s1 = true) = true := by decide +kernel) :
    Follows s s1 u := by
  have h := of_decide_eq_true h
  exact ⟨h.1, h.2.1, tidy_of h.2.2⟩

theorem drained_of {s : State} {t : Thread}
    (h : decide (s.cur.core < 2048 ∧ s.cur.slot < 16 ∧ t.inc < 65536 ∧ t.left = [] ∧ (s.core s.cur.core).wbuf = []) = true := by decide +kernel) : Drained s t :=
  have h := of_decide_eq_true h
  ⟨⟨h.1, h.2.1, h.2.2.1, h.2.2.2.1⟩, h.2.2.2.2⟩

theorem first_of {i : Instr} {s : State} {P : State → Prop} (h : ∃ s', exec i s = .next s' ∧ P s') : Next i s := by
  obtain ⟨s', e, _⟩ := h
  exact ⟨s', e⟩

theorem first_of2 {α : Type} {i : Instr} {s : State} {P : State → α → Prop} (h : ∃ s' u, exec i s = .next s' ∧ P s' u) : Next i s := by
  obtain ⟨s', _, e, _⟩ := h
  exact ⟨s', e⟩

theorem first_of3 {α β : Type} {i : Instr} {s : State} {P : State → α → β → Prop} (h : ∃ s' u v, exec i s = .next s' ∧ P s' u v) : Next i s := by
  obtain ⟨s', _, _, e, _⟩ := h
  exact ⟨s', e⟩

theorem first_of4 {α β γ : Type} {i : Instr} {s : State} {P : State → α → β → γ → Prop} (h : ∃ s' u v w, exec i s = .next s' ∧ P s' u v w) : Next i s := by
  obtain ⟨s', _, _, _, e, _⟩ := h
  exact ⟨s', e⟩

theorem next_of {i : Instr} {s t : State} (h : exec i s = .next t) : Next i s := ⟨t, h⟩

theorem hitsAs {α : Type} [DecidableEq α] {m : M α} {s : State} {v : α}
    (h : (match m s with | .ok (w, _) => decide (w = v) | .error _ => false) = true := by decide +kernel) : m s = .ok (v, left m s) := by
  unfold left
  split at h
  · rename_i p e
    simp only [e, of_decide_eq_true h]
  · cases h

theorem read_of {ε α : Type} [DecidableEq α] {p : Except ε α × State} {a : α}
    (h : (match p.1 with | .ok b => decide (b = a) | .error _ => false) = true := by decide +kernel) : p = (.ok a, p.2) := by
  obtain ⟨x, y⟩ := p
  cases x with
  | ok b => simp at h; rw [h]
  | error _ => cases h

theorem nodev_of {k : Nat} (h : (devOff k).isNone = true := by decide +kernel) : ∀ off, devOff k ≠ some off := by
  intro off e
  rw [e] at h
  cases h

theorem empty_of {α : Type} {l : List α} {P : α → Prop} (h : l.isEmpty = true := by decide +kernel) : ∀ e ∈ l, P e := by
  intro e he
  rw [List.isEmpty_iff.mp h] at he
  cases he

/-- What a check answers, and that it does. -/
def gotE {ε α : Type} (d : α) : Except ε α → α
  | .ok v => v
  | .error _ => d

def fineE {ε α : Type} : Except ε α → Bool
  | .ok _ => true
  | .error _ => false

theorem hitsE {ε α : Type} {d : α} {r : Except ε α} (h : fineE r = true := by decide +kernel) : r = .ok (gotE d r) := by
  cases r with
  | ok v => rfl
  | error _ => cases h

theorem is_of {α β : Type} [DecidableEq α] [DecidableEq β] {r : Except α β} {v : Except α β}
    (h : (match r, v with | .ok a, .ok b => decide (a = b) | .error a, .error b => decide (a = b) | _, _ => false) = true := by decide +kernel) : r = v := by
  cases r <;> cases v <;> simp_all

/-- The state after an instruction. -/
def ran (i : Instr) (s : State) : State := match exec i s with
  | .next t => t
  | _ => s

theorem hitsE3 {ε α β γ : Type} {d : α × β × γ} {r : Except ε (α × β × γ)} (h : fineE r = true := by decide +kernel) :
    r = .ok ((gotE d r).1, (gotE d r).2.1, (gotE d r).2.2) := hitsE h

theorem errs {ε α : Type} [DecidableEq ε] {r : Except ε α} {v : ε} (h : (match r with | .error e => decide (e = v) | .ok _ => false) = true := by decide +kernel) : r = .error v := by
  cases r with
  | ok _ => cases h
  | error e => simp at h; rw [h]

theorem ran_of {i : Instr} {s : State} (h : (match exec i s with | .next _ => true | _ => false) = true := by decide +kernel) : exec i s = .next (ran i s) := by
  unfold ran
  split at h
  · rename_i t e
    rw [e]
  · cases h

theorem nopend_of {s : State} {k n : Nat} (h : (match placeOf k with | .sram c o => decide (pendingAt s c o n = []) | _ => true) = true := by decide +kernel) :
    NoPending s k n := by
  unfold NoPending
  split at h <;> simp_all

theorem pair_of {α : Type} {p : α × Bool} (h : (!p.2) = true := by decide +kernel) : p = (p.1, false) := by
  obtain ⟨x, y⟩ := p
  cases y <;> simp_all

theorem witness_IntegerRegisterForms : Obligations.IntegerRegisterForms → Next (.add 3 4 5) (st2 (-1) 1) ∧ Next (.add 15 15 15) st := fun h =>
  ⟨first_of (h 3 4 5 _ (thr (st2 (-1) 1)) tidy_of ready_of dst_of _ (.head _)), first_of (h 15 15 15 _ (thr st) tidy_of ready_of dst_of _ (.head _))⟩

theorem witness_IntegerImmediateForms : Obligations.IntegerImmediateForms → Next (.addi 3 4 (.i32 (-1))) (st2 1 1) ∧ Next (.subi 3 4 (.i23 0)) (st2 1 1) := fun h =>
  ⟨first_of (h 3 4 (.i32 (-1)) _ (thr (st2 1 1)) tidy_of ready_of dst_of _ (.head _)),
   first_of (h 3 4 (.i23 0) _ (thr (st2 1 1)) tidy_of ready_of dst_of _ (.tail _ (.head _)))⟩

theorem witness_NegateAndCompare : Obligations.NegateAndCompare → Next (.neg 3 4) st ∧ Next (.cmp 4 5) (st2 2 2) ∧
    ∀ s' u, exec (.cmp 4 5) (st2 2 2) = .next s' → Issues s' u → u.flags.c = true := fun h =>
  ⟨first_of (h.1 3 4 _ (thr st) tidy_of ready_of dst_of), first_of (h.2.1 4 5 (.i23 0) _ (thr (st2 2 2)) ready_of _ (.head _)),
   fun _ _ e i => (h.2.2 4 5 (st2 2 2) _ (thr (st2 2 2)) _ ready_of e i).mpr kd⟩

theorem witness_MovesAndBitForms : Obligations.MovesAndBitForms → Next (.mov 3 4) st ∧ Next (.movhi 3 7) st ∧ Next (.bfi 3 4 63 1) st := fun h =>
  ⟨first_of (h.1 3 4 5 (.i23 0) 4 .s 0 0 _ (thr st) tidy_of ready_of dst_of (by decide) _ (.head _)),
   first_of (h.2 3 4 7 63 1 _ (thr st) tidy_of ready_of (by decide)).1, first_of (h.2 3 4 7 63 1 _ (thr st) tidy_of ready_of (by decide)).2⟩

theorem witness_FloatForms : Obligations.FloatForms → Next (.fadd .f8 3 4 5) st ∧ Next (.fcvt .i64 .i32 3 4) st := fun h =>
  have g := h .f8 .i64 .i32 3 4 5 st (thr st) tidy_of ready_of
  have _ := (h .f32 .i64 .i32 3 4 5 st (thr st) tidy_of ready_of).2.2 false false 0 0 (-149) (-149) kd kd
  have _ := (h .f32 .i64 .i32 3 4 5 (st2 0x4CBEBC20 0x40400000) (thr (st2 0x4CBEBC20 0x40400000)) tidy_of ready_of).2.2 false false 12500000 12582912 3 (-22) kd kd
  ⟨first_of (g.1 _ (.head _)).2, first_of g.2.1⟩

theorem witness_RoundingAndToInteger : Obligations.RoundingAndToInteger → 
    roundsTo .rne false 5 2 (roundQ .rne false 5 0 1).1 ∧ toIntN 1 .rne (.fin true 1 (-1)) = (0, 16) ∧ toIntN 64 .rna (.fin false 1 63) = (2 ^ 63 - 1, 1) := fun h =>
  ⟨((h.1 .rne false 5 0 1).2 (by decide)).1, (h.2 1 .rne (by decide) (by decide)).2.2 true 1 (-1) 1 0 (by decide) (by unfold roundsTo; decide),
   (h.2 64 .rna (by decide) (by decide)).2.2 false 1 63 0 (2 ^ 63) (by decide) (by unfold roundsTo; decide) |>.trans (if_pos (by decide))⟩

theorem witness_SelectAndFloatCompare : Obligations.SelectAndFloatCompare → Next (.fcmp .f32 4 5) st ∧ Next (.csel .al 3 4 5) st ∧ Next (.cset .le 3) st := fun h =>
  have g := h.2 .al 3 4 5 st (thr st) tidy_of dst_of
  ⟨first_of2 (h.1 .f32 4 5 st (thr st) ready_of), first_of2 (g.1 ready_of), first_of2 ((h.2 .le 3 4 5 st (thr st) tidy_of dst_of).2 issues_of)⟩

theorem witness_RelativeBranches : Obligations.RelativeBranches → Next .nop64 st ∧ Next (.b (-4194304)) st ∧ Next (.bc .al 1) st ∧ Next (.bl 3 4194303) st := fun h =>
  have g := h .al 3 4 (-4194304) st (thr st) tidy_of ready_of
  ⟨first_of g.1, first_of g.2.2.1, first_of2 (h .al 3 4 1 st (thr st) tidy_of ready_of).2.2.2.1, first_of ((h .al 3 4 4194303 st (thr st) tidy_of ready_of).2.2.2.2.2.2.2 dst_of)⟩

/-- The last canonical multiple of 4 below the gap, and the first address in it. -/
def hi : Word := 0x00FFFFFFFFFFFFFC
def gap : Word := 0x0100000000000000

theorem witness_JumpsAndBadTargets : Obligations.JumpsAndBadTargets → Next (.jr 4) (st2 hi 0) ∧ Next (.jlr 3 4) (st2 hi 0) ∧ Next (.jmpa (-4)) st ∧ Next (.bla 3 (-4)) st ∧
    Next (.jr 4) (st2 (hi + 2) 0) ∧ Next (.jr 4) (st2 gap 0) := fun h =>
  have g := h.1 3 4 (-4) (st2 hi 0) (thr (st2 hi 0)) tidy_of issues_of
  have k := h.1 3 4 (-4) st (thr st) tidy_of issues_of
  ⟨first_of (g.1 ready_of (by unfold goodTarget; decide +kernel)), first_of (g.2.1 ready_of dst_of (by unfold goodTarget; decide +kernel)),
   first_of (k.2.2.1 (by unfold goodTarget; decide)), first_of (k.2.2.2 (by unfold goodTarget; decide) dst_of),
   next_of ((h.2 3 4 (hi + 2) (st2 (hi + 2) 0) (thr (st2 (hi + 2) 0)) ready_of kd kd _ (.head _)).1 (by decide)),
   next_of ((h.2 3 4 gap (st2 gap 0) (thr (st2 gap 0)) ready_of kd kd _ (.head _)).2 (by decide) (by unfold goodTarget; decide))⟩

theorem witness_ControlRegisters : Obligations.ControlRegisters → Next (.rdctl 3 .nregs) st ∧ Next (.wrctl .flags 4) st ∧ Next (.wrctl .vl 4) (st2 4096 0) ∧
    Next (.wrctl .vl 4) (st2 4097 0) ∧ Next (.wrctl .rmode 4) (st2 4 0) ∧ Next (.wrctl .rmode 4) (st2 5 0) ∧ Next (.rmset .rna) st := fun h =>
  have g := h.2 4 .rna st (thr st) ready_of
  have k := h.2 4 .rna (st2 4 0) (thr (st2 4 0)) ready_of
  ⟨first_of2 (h.1 3 .nregs st (thr st) tidy_of issues_of dst_of), first_of g.1,
   first_of ((h.2 4 .rne (st2 4096 0) (thr (st2 4096 0)) ready_of).2.1 kd),
   next_of ((h.2 4 .rne (st2 4097 0) (thr (st2 4097 0)) ready_of).2.2.1 kd), first_of (k.2.2.2.1 .rna kd),
   next_of ((h.2 4 .rne (st2 5 0) (thr (st2 5 0)) ready_of).2.2.2.2.1 kd), first_of g.2.2.2.2.2⟩

/-- The thread of a core that is not its cluster's first. -/
def core1 : State :=
  let s := (st.setCore 1 { CoreSt.reset with tenant := 1 }).setSlot 1 0 SlotSt.reset
  createIn { s with cur := ⟨1, 0, none⟩ } 1 0 0x1000 (flatVa 1 0x8000) 128 false [] .none ⟨0, 0, 0, 0, 0, []⟩

/-- Core 0 with user trace on (R356). -/
def traced : State := st.setClu 0 { st.clu 0 with actl := 0x11 }

/-- A flag raised in the present ck (R78). -/
def raised : State := st.setClu 0 { st.clu 0 with u := 2, raised := [(1, st.ckClu 0, 7, 0, 0)] }

theorem witness_FlagsAndTime : Obligations.FlagsAndTime → Next (.flgrd 3) st ∧ Next (.evmark 4 5 7) traced ∧ Next (.flgrdClu 3) st ∧ Next (.flgftClu 3 4) st ∧
    Next (.flgclrClu 1) st ∧ Next (.flgclrClu 2) raised ∧ Next (.flgclrClu 1) core1 := fun h =>
  have g := h.1 3 4 5 31 7 st (thr st) tidy_of ready_of dst_of
  have k := h.2 3 1 4 st (thr st) tidy_of issues_of dst_of
  ⟨first_of g.1, by
    obtain ⟨s', e, _, _, _, _, f⟩ := (h.1 3 4 5 31 7 traced (thr traced) tidy_of ready_of dst_of).2.2.2
    exact have _ := f kd kd kd kd; ⟨s', e⟩,
   first_of (k.1 kd kd).1, first_of (k.1 kd kd).2.2, by
    obtain ⟨s', e, _, _, _, f, _⟩ := (k.1 kd kd).2.1
    exact have _ := f empty_of; ⟨s', e⟩, by
    obtain ⟨s', e, _, _, _, _, f⟩ := ((h.2 3 2 4 raised (thr raised) tidy_of issues_of dst_of).1 kd kd).2.1
    exact have _ := f 1 7 (0, 0) kd kd kd; ⟨s', e⟩,
   next_of ((h.2 3 1 4 core1 (thr core1) tidy_of issues_of dst_of).2 kd _ (.tail _ (.head _)))⟩

/-- The thread of core 0, slot 0, waiting. -/
def waiting (w : Wait) (s : State) : State := s.modThread 0 0 (fun t => { t with wait := w })

/-- Threads of cores 0 and 1 that wait at one align point for a group of two. -/
def aligned : State :=
  let s := { core1 with cur := ⟨0, 0, none⟩ }
  (waiting (.align 0 1 2 9 0) s).modThread 1 0 (fun t => { t with wait := .align 0 1 2 9 0 })

theorem witness_ExitAndAlign : Obligations.ExitAndAlign → Next .exit st ∧ Next (.hintAlign 31 65535) st ∧ Next (.alignPointRelease 0 0) (waiting (.align 0 1 2 0 0) st) ∧
    Next (.alignPointRelease 0 0) aligned ∧ Next (.alignPointRelease 0 0) (waiting (.align 0 1 17 0 0) st) ∧ Next (.alignPointRelease 0 0) (waiting (.align 0 1 1 9 0) st) := fun h =>
  have g (m l : Nat) (e : tidyB (waiting (.align 0 1 m l 0) st) = true) (i : (waiting (.align 0 1 m l 0) st).thread 0 0 = some (thr (waiting (.align 0 1 m l 0) st))) :=
    (h.2 0 0 (waiting (.align 0 1 m l 0) st) (thr (waiting (.align 0 1 m l 0) st)) (tidy_of e) i).2 0 0 0 1 m l 0 (thr (waiting (.align 0 1 m l 0) st)) kd i
  have a := (h.2 0 0 aligned (thr aligned) tidy_of issues_of).2 0 0 0 1 2 9 0 (thr aligned) kd kd rfl
  ⟨first_of (h.1 st (thr st) tidy_of issues_of (.inl drained_of)), first_of (h.2 31 65535 st (thr st) tidy_of issues_of).1,
   first_of ((g 2 0 kd kd kd).1 ⟨by decide, by decide⟩ (.inl kd)),
   first_of (a.1 ⟨by decide, by decide⟩ (.inr ⟨[0, 1], by decide, by decide, fun j hj =>
     by
      rcases (by simpa using hj : j = 0 ∨ j = 1) with rfl | rfl
      · exact ⟨0, thr aligned, kd, kd, kd, 2, 9, 0, ⟨by decide, by decide⟩, kd⟩
      · exact ⟨0, (aligned.thread 1 0).get kd, kd, kd, kd, 2, 9, 0, ⟨by decide, by decide⟩, kd⟩⟩)),
   first_of ((g 17 0 kd kd kd).2.1 (by decide) kd), next_of ((g 1 9 kd kd kd).2.2 (by decide) kd)⟩

/-- The manual's `ADD W8, W4, W12` eight bytes past the PC, `n` repetitions done. -/
def repeated (n : Nat) : State := (st.setW64 (winKey 0 0x8008) 0x30880001).modThread 0 0 (fun t => { t with repcnt := n })

/-- A subtraction there. -/
def repSub : State := st.setW64 (winKey 0 0x8008) ((encode (.sub 8 4 12)).getD 0)

/-- The state in which it is performed as the first of four repetitions. -/
def atRep : State := (fetchAt repSub repSub.cur.core repSub.cur.slot (thr repSub) ((thr repSub).pc + 8)).2
def inRep : State := { atRep with cur := { atRep.cur with rep := some (0, 4) } }

theorem witness_RepRunsItsTarget : Obligations.RepRunsItsTarget → Next (.rep 0 true true false 3) (repeated 3) ∧ Next (.rep 0 true true false 3) (repeated 0) ∧
    Next (.rep 0 true true false 3) repSub := fun h =>
  ⟨first_of2 (h.1 0 true true false 3 8 4 12 11 7 12 8 (repeated 3) _ (thr (repeated 3)) tidy_of rfl ready_of dst_of read_of kd kd
     kd kd kd kd kd),
   first_of2 (h.1 0 true true false 3 8 4 12 8 4 12 8 (repeated 0) _ (thr (repeated 0)) tidy_of rfl ready_of dst_of read_of kd kd
     kd kd kd kd kd),
   next_of (h.2 0 true true false 3 8 4 12 8 4 12 (.i23 0) 0 0 .b 0 0 .al .f32 .raw .raw OrdScope.none ⟨8, 4, 12, ext⟩ ⟨8, 4, 12, ext⟩ false false 0 8 (.sub 8 4 12) (.sub 8 4 12)
     repSub atRep (ran (.sub 8 4 12) inRep) (thr repSub) kd kd kd rfl rfl rfl rfl (.tail _ (.head _)) issues_of read_of kd ran_of)⟩

/-- The last bytes of the own window's data part, and the first. -/
def last8 : Word := flatVa 0 (0x5C000 - 8)
def low8 : Word := flatVa 0 0x1000

theorem own_of {s : State} {ea : Word} {n o j : Nat} (h : (decide (s.cur.core < Config.nCores) && decide (s.slotOfCore s.cur.core = some j) && s.tenHas j (cluOf s.cur.core)) = true)
    (ho : 0x1000 ≤ o ∧ o + n ≤ 0x5C000 ∧ o % n = 0) (he : ea = BitVec.ofNat 64 (0xFF00000000000000 + s.cur.core * 0x80000 + o)) : OwnBank s ea n (winKey s.cur.core o) := by
  simp at h
  exact ⟨h.1.1, ⟨j, h.1.2, h.2⟩, ⟨o, ho.1, ho.2.1, ho.2.2, he, rfl⟩⟩

/-- A thread that waits for a 16-byte value. -/
def lateq : State := st.modThread 0 0 (fun t => { t with wait := .reply, late := [(6, 5), (7, 1)] })

theorem witness_Loads : Obligations.Loads → Next (.ld .d 3 4 (.i23 0)) (st2 last8 0) ∧ Next (.ldsPostinc .b 3 4) (st2 low8 0) ∧ Next (.ld .q 6 4 (.i23 (-8))) (st2 last8 0) ∧
    loadAt last8 8 (st2 last8 0) = .ok (leNat ((List.range 8).map (fun i => byteAt (st2 last8 0).mem (winKey 0 (0x5C000 - 8) + i))), st2 last8 0) ∧
    Next (.ld .d 3 4 (.i23 0)) { st2 low8 0 with poison := [winKey 0 0x1000 / 64] } ∧ Next (.memoryReply 0 0) lateq := fun h =>
  let p : State := { st2 low8 0 with poison := [winKey 0 0x1000 / 64] }
  let a : State := left (loadAt (opnd (st2 last8 0) (thr (st2 last8 0)) 4 + (Imm.i23 0).sext) 8) (st2 last8 0)
  let b : State := left (loadAt (opnd (st2 low8 0) (thr (st2 low8 0)) 4) 1) (st2 low8 0)
  let c : State := left (loadAt (opnd (st2 last8 0) (thr (st2 last8 0)) 4 + (Imm.i23 (-8)).sext) 16) (st2 last8 0)
  have m := h.2.1 0 0 .q 6 (2 ^ 64 + 5) (lateq) (thr lateq) tidy_of kd kd (by intro _; decide) kd
  ⟨first_of (h.1 false false .d 3 4 (.i23 0) (st2 last8 0) a (thr (st2 last8 0)) (thr a) _ tidy_of ready_of (by intro r hr; simp [regsOf] at hr; subst hr; exact dst_of)
     (by intro e; cases e) (by decide) (by decide) (hits (d := 0)) follows_of).1,
   first_of (h.1 true true .b 3 4 (.i23 0) (st2 low8 0) b (thr (st2 low8 0)) (thr b) _ tidy_of ready_of (by intro r hr; simp [regsOf] at hr; subst hr; exact dst_of)
     (by intro e; cases e) (by decide) (by decide) (hits (d := 0)) follows_of).1,
   first_of (h.1 false false .q 6 4 (.i23 (-8)) (st2 last8 0) c (thr (st2 last8 0)) (thr c) _ tidy_of ready_of
     (by intro r hr; simp [regsOf] at hr; rcases hr with rfl | rfl <;> exact dst_of) (by intro _; decide) (by decide) (by decide) (hits (d := 0)) follows_of).1,
   (h.2.2 .d last8 _ (st2 last8 0) (thr (st2 last8 0)) issues_of (own_of (j := 0) (o := 0x5C000 - 8) kd (by decide) kd) empty_of).1 kd,
   next_of ((h.2.2 .d low8 _ p (thr p) issues_of (own_of (j := 0) (o := 0x1000) kd (by decide) kd) empty_of).2 kd 3 4 (.i23 0) ready_of
     (by intro r hr; simp [regsOf] at hr; subst hr; exact dst_of) kd), first_of2 m⟩

/-- An address in the window of core 1, and its key. -/
def far : Word := flatVa 1 0x24000

theorem force_none {s : State} {tid : Word} (h : (leftBy s tid).isEmpty = true := by decide +kernel) : forceIn s (leftBy s tid) [] = (s, false) := by
  rw [List.isEmpty_iff.mp h]
  rfl

theorem witness_Stores : Obligations.Stores → Next (.st .d 4 (.i23 0) 5) (st2 last8 7) ∧ Next (.stPostinc .q 4 6) (st2 y0 0) ∧ Next (.st .d 4 (.i23 0) 5) (st2 far 7) := fun h =>
  ⟨first_of2 (h.1 false .d 4 5 (.i23 0) (st2 last8 7) _ (thr (st2 last8 7)) _ tidy_of ready_of (by intro e; cases e) (hits (d := 0)) kd kd),
   first_of2 (h.1 true .q 4 6 (.i23 0) (st2 y0 0) _ (thr (st2 y0 0)) _ tidy_of ready_of (by intro _; decide) (hits (d := 0)) kd kd),
   first_of3 (h.2 false .d 4 5 (.i23 0) (st2 far 7) _ (thr (st2 far 7)) _ tidy_of ready_of (by intro e; cases e) (hits (d := 0)) kd
     (fun off e => (nodev_of kd off e).elim) force_none)⟩

/-- Y0's first word set. -/
def celled (v : Word) (s : State) : State := s.setW64 (winKey 0 0x24000) v

theorem witness_AtomicUpdates : Obligations.AtomicUpdates → Next (.aswp .d 3 4 (.i23 0) 5 ⟨.acqRel, .dom⟩) (celled 7 (st2 y0 5)) ∧
    Next (.aadd .s 3 4 (.i23 4) 5 OrdScope.none) (celled (-1) (st2 y0 1)) := fun h =>
  have a := h .d 3 4 5 (.i23 0) ⟨.acqRel, .dom⟩ (celled 7 (st2 y0 5)) _ (thr (celled 7 (st2 y0 5))) _ (winKey 0 0x24000) 7 ready_of dst_of (.inr rfl) hitsAs
    (follows_of (u := thr (left (rmwOpen y0 8 ⟨.acqRel, .dom⟩) (celled 7 (st2 y0 5))))) nopend_of |>.2 _ (.head _)
  have b := h .s 3 4 5 (.i23 4) OrdScope.none (celled (-1) (st2 y0 1)) _ (thr (celled (-1) (st2 y0 1))) _ (winKey 0 0x24004) 0xFFFFFFFF ready_of dst_of (.inl rfl) hitsAs
    (follows_of (u := thr (left (rmwOpen (y0 + 4) 4 OrdScope.none) (celled (-1) (st2 y0 1))))) nopend_of |>.2 _ (.tail _ (.head _))
  ⟨first_of2 a, first_of2 b⟩

theorem witness_OtherAtomics : Obligations.OtherAtomics → Next (.acas .q 2 4 (.i23 0) 6 OrdScope.none) (celled 7 (st2 y0 5)) ∧ Next (.afadd .f32 3 4 (.i23 0) 5 OrdScope.none) (celled 7 (st2 y0 5)) ∧
    Next (.ald .q 2 4 (.i23 0) ⟨.acq, .pkg⟩) (celled 7 (st2 y0 5)) ∧ Next (.ast .d 4 (.i23 0) 5 ⟨.rel, .pkg⟩) (celled 7 (st2 y0 5)) := fun h =>
  let s := celled 7 (st2 y0 5)
  ⟨first_of2 ((h.1 .q .f32 2 4 6 (.i23 0) OrdScope.none s _ (thr s) (thr (left (rmwOpen y0 16 OrdScope.none) s)) (winKey 0 0x24000) 7 follows_of).1 ready_of (by intro _; decide) (by intro _; decide)
     (by decide) (by decide) hitsAs nopend_of),
   first_of2 ((h.1 .d .f32 3 4 5 (.i23 0) OrdScope.none s _ (thr s) (thr (left (rmwOpen y0 4 OrdScope.none) s)) (winKey 0 0x24000) 7 follows_of).2 ready_of dst_of (.inr rfl) hitsAs nopend_of),
   first_of2 ((h.2 .q 2 4 5 (.i23 0) ⟨.acq, .pkg⟩ s (left (locate .ald (opnd s (thr s) 4 + (Imm.i23 0).sext) 16 16) s) _ _ (thr s)
     (thr (left (atomicAt (winKey 0 0x24000) 16 y0 false) (left (ordRelease ⟨.acq, .pkg⟩) s))) (winKey 0 0x24000) kd kd (hitsAs (v := ())) follows_of).1 ready_of (by intro r hr; simp [regsOf] at hr; rcases hr with rfl | rfl <;> exact dst_of) (by intro _; decide) hitsAs (hitsAs (v := ()))),
   first_of2 ((h.2 .d 2 4 5 (.i23 0) ⟨.rel, .pkg⟩ s (left (locate .rmw (opnd s (thr s) 4 + (Imm.i23 0).sext) 8 8) s) _ _ (thr s)
     (thr (left (atomicAt (winKey 0 0x24000) 8 y0 true) (left (ordRelease ⟨.rel, .pkg⟩) s))) (winKey 0 0x24000) kd kd (hitsAs (v := ())) follows_of).2
     ready_of (by intro e; cases e) hitsAs (hitsAs (v := ())) nopend_of)⟩

theorem witness_BadAddresses : Obligations.BadAddresses → Next (.ld .d 2 4 (.i23 0)) (st2 (hi + 1) 0) ∧ Next (.st .d 4 (.i23 0) 6) (st2 gap 0) := fun h =>
  ⟨next_of ((h .d 2 4 6 (.i23 0) OrdScope.none (st2 (hi + 1) 0) (thr (st2 (hi + 1) 0)) ready_of _ (.head _)).1 kd kd),
   next_of ((h .d 2 4 6 (.i23 0) OrdScope.none (st2 gap 0) (thr (st2 gap 0)) ready_of _ (.tail _ (.tail _ (.head _)))).2 kd kd)⟩

/-- A buffered store of the thread to the window of core 1. -/
def buffered : State := left (fun s => match exec (.st .d 4 (.i23 0) 5) s with
  | .next t => .ok ((), setWait t 0 0 .none)
  | _ => .ok ((), s)) (st2 far 7)

theorem witness_PhasesAndFences : Obligations.PhasesAndFences → (buffered.core 0).wbuf ≠ [] ∧ Next (.phaseRel .pkg) buffered ∧ Next (.phase .clu) buffered ∧
    Next (.phaseRel .core) st ∧ Next (.phase .dom) st ∧ Next (.phaseAcq .core) st ∧ Next (.fenceAcq .dom) st ∧ Next (.fenceRel .core) buffered ∧ Next (.fenceAcqRel .core) buffered := fun h =>
  have g := h .pkg buffered _ (thr buffered) (thr (left (release .pkg) buffered)) issues_of
  have k := h .clu buffered _ (thr buffered) (thr (left (release .clu) buffered)) issues_of
  have f := h .core buffered buffered (thr buffered) (thr (left (release .clu) buffered)) issues_of
  have c := h .core st st (thr st) (thr st) issues_of
  have d := h .dom st st (thr st) (thr st) issues_of
  ⟨by decide +kernel, first_of (g.1 (hitsAs (v := ())) follows_of).2.1, first_of (k.1 (hitsAs (v := ())) follows_of).2.2, first_of (c.2.1 drained_of).1,
   first_of (d.2.1 drained_of).2, first_of c.2.2.1, first_of d.2.2.2.1, first_of f.2.2.2.2.1, first_of f.2.2.2.2.2⟩

/-- A counting record of cluster scope at Y0, and phase `q` in W5 (R161). -/
def record (ph nxt cnt exp drops nd : Nat) (q : Word) : State :=
  ((st2 y0 q).setW64 (winKey 0 0x24000) (BitVec.ofNat 64 (2 ^ 60 + 2 * 2 ^ 55 + nxt * 65536 + ph))).setW64 (winKey 0 0x24008)
    (BitVec.ofNat 64 (nd * 2 ^ 48 + drops * 2 ^ 32 + cnt * 2 ^ 16 + exp))

/-- A byte-counting record at Y0, and a byte count in W5. -/
def byteRecord (posted : Nat) (n : Word) (v : Word) : State :=
  ((st2 y0 v).setW64 (winKey 0 0x24000) (BitVec.ofNat 64 (2 * 2 ^ 60 + posted * 2 ^ 58 + 2 * 2 ^ 55))).setW64 (winKey 0 0x24008) n

/-- What a barrier form finds, and where. -/
def seen (ks : List Nat) (r : OrdScope) (w : Bool) (s : State) : BarRec := (got (0, barAt s 0) (barOpen y0 ks r w) s).2

def clu : OrdScope := ⟨.acqRel, .clu⟩
def yk : Nat := winKey 0 0x24000

theorem witness_BarrierArrivals : Obligations.BarrierArrivals → Next (.binit false .clu 4 5) (st2 y0 65535) ∧ Next (.binit true .dom 4 5) (st2 y0 0) ∧
    Next (.barr 4 5 ⟨.rel, .clu⟩) (record 65535 1 1 2 1 1 65535) ∧ Next (.bardrop 4 5 ⟨.rel, .clu⟩) (record 65535 0 0 1 0 0 0) ∧
    Next (.barr 4 5 ⟨.rel, .clu⟩) (record 7 1 1 2 1 0 8) := fun h => by
  have a := h.1 false .clu 4 5 (st2 y0 65535) _ (thr (st2 y0 65535)) (thr (left (barLocate y0) (st2 y0 65535))) yk ready_of (fun _ => by decide +kernel) hitsAs follows_of kd nopend_of
  have b := h.1 true .dom 4 5 (st2 y0 0) _ (thr (st2 y0 0)) (thr (left (barLocate y0) (st2 y0 0))) yk ready_of (fun e => by cases e) hitsAs follows_of kd nopend_of
  let r : OrdScope := ⟨.rel, .clu⟩
  let s := record 65535 1 1 2 1 1 65535
  have c := (h.2 false 4 5 r s _ _ (thr s) (thr (left (ordRelease r) (left (barOpen y0 [1] r false) s))) yk (seen [1] r false s) ready_of hitsAs (hitsAs (v := ())) follows_of kd
    nopend_of kd kd kd kd).1 ⟨65535, 2, 2, 1, 1, 1⟩ ⟨1, 0, 0, 0, 0, 0⟩ kd
    (.step _ _ (by decide) (by decide) (.step _ _ (by decide) (by decide) (.stop _ (by decide))))
  let s := record 65535 0 0 1 0 0 0
  have d := (h.2 true 4 5 r s _ _ (thr s) (thr (left (ordRelease r) (left (barOpen y0 [1] r false) s))) yk (seen [1] r false s) ready_of hitsAs (hitsAs (v := ())) follows_of kd
    nopend_of kd kd kd kd).1 ⟨65535, 0, 1, 0, 1, 1⟩ ⟨65535, 0, 1, 0, 1, 1⟩ kd (.stop _ (by decide))
  let s := record 7 1 1 2 1 0 8
  have e := (h.2 false 4 5 r s _ _ (thr s) (thr (left (ordRelease r) (left (barOpen y0 [1] r false) s))) yk (seen [1] r false s) ready_of hitsAs (hitsAs (v := ())) follows_of kd
    nopend_of kd kd kd kd).2 kd
  exact ⟨first_of2 a, first_of2 b, first_of3 c, first_of3 d, first_of2 e⟩

/-- A BSYNC whose arrival was counted, issued again after its phase completed. -/
def again : State := (record 2 0 0 2 0 0 1).modThread 0 0 (fun t => { t with repcnt := 1 })

theorem witness_BarrierWaits : Obligations.BarrierWaits → Next (.bwait 4 5 ⟨.acq, .clu⟩) (record 0 0 0 2 0 0 32768) ∧ Next (.bwait 4 5 ⟨.acq, .clu⟩) (record 0 0 0 2 0 0 32767) ∧
    Next (.bsync 4 5 clu) (record 0 0 0 2 0 0 0) ∧ Next (.bsync 4 5 clu) again ∧ Next (.bexpect 4 5) (byteRecord 0 4096 4096) ∧ Next (.bexpect 4 5) (byteRecord 1 4096 4096) ∧
    Next (.barrb 4 5 OrdScope.none) (byteRecord 1 (-4096) 4096) ∧ Next (.barrb 4 5 OrdScope.none) (byteRecord 1 (-4096) 4097) := fun h => by
  let q : OrdScope := ⟨.acq, .clu⟩
  let s := record 0 0 0 2 0 0 32768
  have a := (h.1 4 5 q s _ (thr s) (thr (left (barOpen y0 [1, 2] q true) s)) yk (seen [1, 2] q true s) ready_of rfl kd issues_of kd
    _ (.head _) hitsAs).1 kd
  let s := record 0 0 0 2 0 0 32767
  have b := (h.1 4 5 q s _ (thr s) (thr (left (barOpen y0 [1, 2] q true) s)) yk (seen [1, 2] q true s) ready_of rfl kd issues_of kd
    _ (.head _) hitsAs).2 kd
  let s := record 0 0 0 2 0 0 0
  have c := (h.1 4 5 clu s _ (thr s) (thr (left (barArrive y0 0 0 clu) s)) yk (got (0, barAt s 0) (barArrive y0 0 0 clu) s).2 ready_of rfl kd
    issues_of kd _ (.tail _ (.tail _ (.head _))) ⟨by decide +kernel, hitsAs⟩).2 kd
  have c2 := (h.1 4 5 clu again _ (thr again) (thr (left (barOpen y0 [1] clu true) again)) yk (seen [1] clu true again) ready_of rfl kd
    issues_of kd _ (.tail _ (.head _)) ⟨by decide +kernel, hitsAs⟩).1 kd
  let s := byteRecord 0 4096 4096
  have d := (h.2 4 5 OrdScope.none s s _ (thr s) (thr (left (barOpen y0 [2] OrdScope.none false) s)) yk (seen [2] OrdScope.none false s) ready_of kd kd follows_of
    kd nopend_of kd kd kd kd _ (.head _) hitsAs).1 kd
  let s := byteRecord 1 4096 4096
  have e := (h.2 4 5 OrdScope.none s s _ (thr s) (thr (left (barOpen y0 [2] OrdScope.none false) s)) yk (seen [2] OrdScope.none false s) ready_of kd kd follows_of
    kd nopend_of kd kd kd kd _ (.head _) hitsAs).2 kd
  let s := byteRecord 1 (-4096) 4096
  let m (s : State) := left (barOpen y0 [2] OrdScope.none false) s
  let n (s : State) := left (ordRelease OrdScope.none) (m s)
  have f := (h.2 4 5 OrdScope.none s _ _ (thr s) (thr (n s)) yk (seen [2] OrdScope.none false s) ready_of kd kd follows_of
    kd nopend_of kd kd kd kd _ (.tail _ (.head _)) ⟨hitsAs, hitsAs⟩).1 kd
  let s := byteRecord 1 (-4096) 4097
  have g := (h.2 4 5 OrdScope.none s _ _ (thr s) (thr (n s)) yk (seen [2] OrdScope.none false s) ready_of kd kd follows_of
    kd nopend_of kd kd kd kd _ (.tail _ (.head _)) ⟨hitsAs, hitsAs⟩).2 kd
  refine ⟨?_, ?_, ?_, ?_, ?_, ?_, ?_, ?_⟩
  · exact first_of2 a
  · exact first_of2 b
  · exact first_of2 c
  · exact first_of2 c2
  · exact first_of3 d
  · exact first_of2 e
  · exact first_of3 f
  · exact first_of2 g

/-- Two threads: of core 0, which issues, and of core 1. -/
def two : State := { core1 with cur := ⟨0, 0, none⟩ }

/-- The identifier of core 1's thread. -/
def tid1 : Word := two.tid 1 0

/-- A message from core 0's thread to core 1's, whose status W3 of the sender awaits. -/
def sent (s : State) : State := waiting .send { s with eng := { s.eng with net := [⟨tid1, ⟨s.tid 0 0, 9, 5, 0⟩, some (s.tid 0 0, 3)⟩] } }

/-- A message from core 0's thread to an identifier where no thread stands. -/
def lost (x : Word) : State := waiting .send { two with eng := { two.eng with net := [⟨x, ⟨two.tid 0 0, 9, 5, 0⟩, some (two.tid 0 0, 3)⟩] } }

theorem witness_MessageSends : Obligations.MessageSends → Next (.mytid 3) st ∧ Next (.send 3 4 5 65535) (st2 (BitVec.ofNat 64 (0xA * 2 ^ 60)) 0) ∧
    Next (.send 3 4 5 0) (st2 (BitVec.ofNat 64 (0xA * 2 ^ 60 + 1536 * 2 ^ 49)) 0) ∧ Next (.send 3 4 5 0) (st2 (BitVec.ofNat 64 (0xA * 2 ^ 60 + 1535 * 2 ^ 49)) 0) ∧
    Next (.messageArrival 0) (sent two) ∧ Next (.messageArrival 0) (lost (tidOf 1 1 1)) ∧ Next (.messageArrival 0) (lost (tidOf 16 0 1)) := fun h => by
  let z := st2 (BitVec.ofNat 64 (0xA * 2 ^ 60)) 0
  have b := (h.1 3 4 5 65535 (st2 (BitVec.ofNat 64 (0xA * 2 ^ 60)) 0) (thr (st2 (BitVec.ofNat 64 (0xA * 2 ^ 60)) 0)) tidy_of ready_of dst_of).2.1 kd kd
    kd _ (thr (forceFences z 0 (z.tid 0 0)).1) pair_of follows_of kd
  have c := (h.1 3 4 5 0 (st2 (BitVec.ofNat 64 (0xA * 2 ^ 60 + 1536 * 2 ^ 49)) 0) (thr (st2 (BitVec.ofNat 64 (0xA * 2 ^ 60 + 1536 * 2 ^ 49)) 0)) tidy_of ready_of dst_of).2.2.1 kd
  have d := (h.1 3 4 5 0 (st2 (BitVec.ofNat 64 (0xA * 2 ^ 60 + 1535 * 2 ^ 49)) 0) (thr (st2 (BitVec.ofNat 64 (0xA * 2 ^ 60 + 1535 * 2 ^ 49)) 0)) tidy_of ready_of dst_of).2.2.2 kd
    (.inl kd)
  have e := (h.2 0 ⟨tid1, ⟨two.tid 0 0, 9, 5, 0⟩, some (two.tid 0 0, 3)⟩ 0 0 3 (sent two) (thr (sent two)) (thr core1) tidy_of kd kd kd (by decide)
    (by decide) kd kd (by decide)).2.2 kd kd kd kd
  have f := (h.2 0 ⟨tidOf 1 1 1, ⟨two.tid 0 0, 9, 5, 0⟩, some (two.tid 0 0, 3)⟩ 0 0 3 (lost (tidOf 1 1 1)) (thr (sent two)) (thr core1) tidy_of kd kd kd (by decide)
    (by decide) kd kd (by decide)).2.1 kd kd kd
  have g := (h.2 0 ⟨tidOf 16 0 1, ⟨two.tid 0 0, 9, 5, 0⟩, some (two.tid 0 0, 3)⟩ 0 0 3 (lost (tidOf 16 0 1)) (thr (sent two)) (thr core1) tidy_of kd kd kd (by decide)
    (by decide) kd kd (by decide)).1 kd kd
  exact ⟨first_of (h.1 3 4 5 0 st (thr st) tidy_of ready_of dst_of).1, first_of b.1, next_of c, next_of d, first_of3 e, first_of2 f, first_of2 g⟩

/-- In a handler whose frame lies above the first, and which may return. -/
def handling : State :=
  let s := (st.modThread 0 0 (fun t => { t with size := 1024, held := [⟨0, 9, 7, 0⟩] })).setW64 (winKey 0 0) 0x20
  ran (.messageDelivery 0 0) s

/-- A thread with a message held and a handler base. -/
def told (h : Word) : State := (st.modThread 0 0 (fun t => { t with size := 1024, held := [⟨0, 9, 65535, 0⟩] })).setW64 (winKey 0 0) h

/-- A masked section open for a microsecond of 2,700 ck. -/
def overdue : State := { ran .mmask st with real := 65536000 }

theorem witness_MessageForms : Obligations.MessageForms → Next .mmask st ∧ Next .munmask st ∧ Next .mwait st ∧ Next .mret st ∧ Next .mret handling ∧
    Next (.messageMaskOverrun 0 0) overdue ∧ Next (.messageMaskOverrun 0 0) (waiting .reply overdue) ∧ Next (.messageMaskOverrun 0 0) (waiting .msg overdue) := fun h => by
  let c : State := gotE handling (closeTo handling 0 0 (thr handling) ((thr handling).mdepth - 2))
  have g := h.1 st st (thr st) tidy_of issues_of
  have m := (h.1 handling _ (thr handling) tidy_of issues_of).2.2.2.2 kd (by unfold goodTarget; decide +kernel) (hitsE (d := handling)) tidy_of kd
    ⟨thr c, by decide +kernel⟩
  have v := (h.2 0 0 overdue (thr overdue) tidy_of kd kd kd kd kd kd).2 (.inl kd)
  have y := (h.2 0 0 (waiting .msg overdue) (thr (waiting .msg overdue)) tidy_of kd kd kd kd kd kd).2 (.inr kd)
  have w := (h.2 0 0 (waiting .reply overdue) (thr (waiting .reply overdue)) tidy_of kd kd kd kd kd kd).1 kd kd
  exact ⟨first_of2 g.1, first_of g.2.1, first_of g.2.2.1, next_of (g.2.2.2.1 kd), first_of2 m, first_of2 v, next_of w, first_of2 y⟩

theorem witness_MessageDelivered : Obligations.MessageDelivered → Next (.messageDelivery 0 0) (told 0x20) ∧ Next (.messageDelivery 0 0) (told 0x21) := fun h => by
  let s := told 0x20
  let s1 := gotE s (openFrame (setWait s 0 0 .none) 0 0 0)
  have a := (h 0 0 s _ (thr s) (thr s1) ⟨0, 9, 65535, 0⟩ [] kd kd kd kd (by decide) (by decide)).1 kd
    kd kd (hitsE (d := s)) tidy_of kd kd kd (by decide)
  let s := told 0x21
  have b := (h 0 0 s s (thr s) (thr s) ⟨0, 9, 65535, 0⟩ [] kd kd kd kd (by decide) (by decide)).2 kd tidy_of
  exact ⟨first_of2 a, first_of2 b⟩

/-- Two I64 elements of Y0 (R62). -/
def vadd2 : Instr := .vadd ⟨3, 4, 5, { ext with immvl := some 2 }⟩
def vst (d : Word) : State := i64s (put (st2 y0 y0) 3 d)
def piped : State := ran vadd2 (vst y0)
def vrunning : State := ran (.vectorStart 0) piped
def cmdOf (s : State) : VCmd := ((s.core 0).vrun).getD ⟨0, .exit, 0, none, 0, .rne, 0, 0, 0, 0, 0, 0, [], false, [], 0, none, none, false⟩

theorem vf (s : State) {f : VForm} (e : vForm vadd2 = some f := by rfl) (h : (cmdOf s).i = vadd2 := by decide +kernel) : vForm (cmdOf s).i = some f := (congrArg vForm h).trans e

theorem witness_VectorIssue : Obligations.VectorIssue → Next vadd2 (vst y0) ∧ Next vadd2 (vst (flatVa 0 0x5C000)) ∧ Next vadd2 (vst (flatVa 0 0x7FFF)) := fun h => by
  let s := vst y0
  let u : VOp × VOp × VOp := (VOp.unused, VOp.unused, VOp.unused)
  have a := h.1 ⟨3, 4, 5, { ext with immvl := some 2 }⟩ .eq false false false 0 0 0 0 0 0 s (thr s) vadd2 (.tail _ (.head _)) _ _ _ _ rfl ready_of kd
    (hitsE3 (d := u))
  have b := h.2 ⟨3, 4, 5, { ext with immvl := some 2 }⟩ .eq (vst (flatVa 0 0x5C000)) (thr (vst (flatVa 0 0x5C000))) ready_of kd kd _ (.head _)
  have c := h.2 ⟨3, 4, 5, { ext with immvl := some 2 }⟩ .eq (vst (flatVa 0 0x7FFF)) (thr (vst (flatVa 0 0x7FFF))) ready_of kd kd _ (.head _)
  exact ⟨first_of2 a, next_of b, next_of c⟩

theorem witness_VectorRuns : Obligations.VectorRuns → Next (.vectorStart 0) piped ∧ Next (.vectorCompletion 0) vrunning ∧
    (exec (.vectorStart 0) piped = .next vrunning → Next (.vectorCompletion 0) vrunning) := fun h => by
  have a := (h.1 0 0 piped (cmdOf piped) _ (thr piped) kd (vf piped rfl)).1 kd
  have b := (h.1 0 0 vrunning (cmdOf vrunning) _ (thr vrunning) kd (vf vrunning rfl)).2 kd kd kd kd tidy_of kd kd kd kd
  have c := h.2 64 0 0 0x24000 0x24000 0x24000 .i64 ⟨3, 4, 5, { ext with immvl := some 2 }⟩ .al piped vrunning (cmdOf piped) (thr piped) (.inl ⟨rfl, rfl⟩)
    _ (.tail _ (.head _)) tidy_of kd (by decide) kd kd kd kd kd kd kd kd kd (fun _ => ⟨kd, kd⟩) (fun _ _ => ⟨kd, kd⟩)
  exact ⟨first_of2 a, first_of2 b, fun e => first_of (c e)⟩

/-- A set of one row of 64 bytes within Y0 (R191). -/
def cset1 : CopySet := ⟨y0, y0 + 0x1000, BitVec.ofNat 64 (2 ^ 32 + 64), 0, 0, 0, 0, 0, true⟩

/-- Core 0's thread with a set. -/
def armed (x : CopySet) : State := st.setSlot 0 0 { st.slot 0 0 with cset := x }

/-- All 64 tags of core 0 held by its thread. -/
def noTag (s : State) : State :=
  s.setCore 0 { s.core 0 with tags := (List.range 64).map (fun g => (g, { TagSt.reset with owner := some (s.tid 0 0), lnd := false, rel := false })) }

theorem witness_CopySetAndStatus : Obligations.CopySetAndStatus → Next (.mtc 7 4) st ∧ Next (.mfc 3 8) st ∧ Next (.cstat 3 4) (st2 (BitVec.ofNat 64 (0xB * 2 ^ 60)) 0) := fun h => by
  let s := st2 (BitVec.ofNat 64 (0xB * 2 ^ 60)) 0
  exact ⟨first_of2 ((h.1 7 8 3 4 st (thr st) tidy_of issues_of).1 ready_of), first_of ((h.1 7 8 3 4 st (thr st) tidy_of issues_of).2 dst_of),
    first_of2 (h.2 3 4 s (thr s) tidy_of ready_of dst_of kd)⟩

theorem witness_CopyLaunch : Obligations.CopyLaunch → Next (.claunch 3) st ∧ Next (.claunch 3) (armed { cset1 with csrc := y0 + 1, cshp := 64 }) ∧
    Next (.claunch 3) (noTag (armed cset1)) ∧ Next (.claunch 3) (armed cset1) := fun h => by
  let w : Sides := ⟨0, 0, none, none⟩
  have a := (h 3 st (thr st) tidy_of issues_of dst_of).1 kd
  have b := (h 3 (armed { cset1 with csrc := y0 + 1, cshp := 64 }) (thr st) tidy_of issues_of dst_of).2.1 7 1 2 kd errs
  have c := (h 3 (noTag (armed cset1)) (thr st) tidy_of issues_of dst_of).2.2.1 _ kd (hitsE (d := w)) kd kd
  have d := (h 3 (armed cset1) (thr st) tidy_of issues_of dst_of).2.2.2 _ 0 kd (hitsE (d := w)) kd kd (by decide) (by decide)
    kd
  exact ⟨first_of a, next_of b, first_of c, first_of2 d⟩

/-- The copy of core 0, launched, started and released. -/
def copying : State := ran (.claunch 3) (armed cset1)
def copyOf (s : State) : Copy := (s.eng.copies.head?).getD ⟨0, 0, none, 0, 0, 0, false, .rne, cset1, 0, 0, 0, false, 0, 0, [], [], [], none, none, none, none, false⟩
def moved1 : State := ran (.copyStart (copyOf copying).id) copying
def moved2 : State := ran (.copyReleased (copyOf copying).id) moved1

/-- A set whose destination has a border of one element around it, and the barrier of an exchange of one core (R203). -/
def haloed (arm : Bool) : State :=
  let s := record 0 0 0 1 0 0 0
  s.setSlot 0 0 { s.slot 0 0 with cset :=
    { cset1 with csrc := 0, cdst := y0 + 0x2000, cshp := BitVec.ofNat 64 (2 ^ 32 + 64), cstr := BitVec.ofNat 64 (2 ^ 32 * 256), ccfg := BitVec.ofNat 64 (2 ^ 44), arm := arm } }

/-- Its barrier form's arrival at phase `q`. -/
def arrived (q : Nat) (s : State) : State := left (barArrive y0 q 0 ⟨.rel, .clu⟩) s
def recOf (q : Nat) (s : State) : BarRec := (got (0, barAt s 0) (barArrive y0 q 0 ⟨.rel, .clu⟩) s).2

/-- The exchange launched, and the phase it now arrives for. -/
def exchanging : State := put (ran (.halo 3 4 5 0 0 true) (haloed true)) 5 1

theorem witness_CopiesAndHalos : Obligations.CopiesAndHalos → Next (.halo 3 4 5 0 0 false) (haloed false) ∧ Next (.halo 3 4 5 0 0 true) (noTag (haloed true)) ∧
    Next (.halo 3 4 5 0 0 true) (haloed true) ∧ Next (.haloCopy (copyOf exchanging).id) exchanging ∧
    Next (.copyStart (copyOf copying).id) copying ∧ Next (.copyReleased (copyOf copying).id) moved1 ∧ Next (.copyLanded (copyOf copying).id) moved2 := fun h => by
  have a := h.2 (copyOf copying).id 64 yk 0 copying (copyOf copying) kd kd kd kd kd kd
    kd kd kd kd kd (by decide) (by decide)
  have b := h.2 (copyOf copying).id 64 yk (yk + 0x1000) moved1 (copyOf moved1) kd kd kd kd kd kd
    kd kd kd kd kd (by decide) (by decide)
  have c := h.2 (copyOf copying).id 64 0 (yk + 0x1000) moved2 (copyOf moved2) kd kd kd kd kd
    kd kd kd kd kd kd (by decide) (by decide)
  have a := a.1 kd kd kd kd kd kd kd
  have b := b.2.1 (List.replicate 64 0) kd kd kd kd kd
  have c := c.2.2 (List.replicate 64 0) kd kd kd tidy_of kd kd kd kd nopend_of
  have d := (h.1 3 4 5 0 0 false (haloed false) _ (thr (haloed false)) (thr (arrived 0 (haloed false))) yk (recOf 0 (haloed false)) ready_of dst_of (by decide) kd hitsAs follows_of
    kd).1 kd
  have e := (h.1 3 4 5 0 0 true (noTag (haloed true)) _ (thr (haloed true)) (thr (arrived 0 (haloed true))) yk (recOf 0 (haloed true)) ready_of dst_of (by decide) kd hitsAs follows_of
    kd).2.1 _ kd (hitsE (d := 0)) kd
  have f := (h.1 3 4 5 0 0 true (haloed true) _ (thr (haloed true)) (thr (arrived 0 (haloed true))) yk (recOf 0 (haloed true)) ready_of dst_of (by decide) kd hitsAs follows_of
    kd).2.2.1 _ 0 kd (hitsE (d := 0)) kd
  have g := (h.1 6 4 5 0 0 true exchanging _ (thr exchanging) (thr (arrived 1 exchanging)) yk (recOf 1 exchanging) ready_of dst_of (by decide) kd hitsAs follows_of
    kd).2.2.2 (copyOf exchanging).id (copyOf exchanging) 1 1 0 1 true yk kd kd kd kd kd kd kd kd
  exact ⟨first_of2 d, first_of e, first_of2 f, first_of2 g, first_of2 a, first_of2 b, first_of c⟩

/-- Core 0's thread changed. -/
def thread (f : Thread → Thread) (s : State) : State := s.modThread 0 0 f

def bit63 : Word := 0x8000000000000000

theorem witness_TagWaitsAndBatches : Obligations.TagWaitsAndBatches → Next (.twaitall 3 4) (st2 bit63 0) ∧ Next (.twaitall 3 4) (noTag (st2 bit63 0)) ∧ Next (.twaitanySrc 3 4) st ∧
    Next (.twaitanySrc 3 4) (noTag (st2 bit63 0)) ∧ Next (.tffr 3 4) (st2 bit63 0) ∧ Next (.tffr 3 4) (noTag (st2 bit63 0)) ∧ Next .cseal st ∧
    Next .cseal (thread (fun t => { t with openBatch := [64] }) st) ∧ Next .cseal (thread (fun t => { t with openBatch := [0], sealed := List.replicate 16 [0] }) (noTag st)) ∧
    Next (.cwaitn 0) st ∧ Next (.cwaitn 15) (thread (fun t => { t with sealed := List.replicate 16 [0] }) (noTag st)) ∧
    Next (.cwaitnSrc 0) st ∧ Next (.cwaitnSrc 15) (thread (fun t => { t with sealed := List.replicate 16 [0] }) (noTag st)) := fun h => by
  have a := h.1 false 3 4 (st2 bit63 0) (thr (st2 bit63 0)) tidy_of ready_of dst_of
  have b := h.1 false 3 4 (noTag (st2 bit63 0)) (thr (st2 bit63 0)) tidy_of ready_of dst_of
  have c := h.1 true 3 4 st (thr st) tidy_of ready_of dst_of
  have d := h.1 true 3 4 (noTag (st2 bit63 0)) (thr (st2 bit63 0)) tidy_of ready_of dst_of
  have down : ∀ g, g < 64 → ¬ (((opnd (noTag (st2 bit63 0)) (thr (st2 bit63 0)) 4).getLsbD g && ((noTag (st2 bit63 0)).tag 0 g).lnd) = true) := by decide +kernel
  have downS : ∀ g, g < 64 → ¬ (((opnd (noTag (st2 bit63 0)) (thr (st2 bit63 0)) 4).getLsbD g && ((noTag (st2 bit63 0)).tag 0 g).rel) = true) := by decide +kernel
  let f := thread (fun t => { t with openBatch := [0], sealed := List.replicate 16 [0] }) (noTag st)
  let e := thread (fun t => { t with openBatch := [64] }) st
  let g := thread (fun t => { t with sealed := List.replicate 16 [0] }) (noTag st)
  have x := h.2 0 st (thr st) issues_of
  have y := h.2 15 g (thr g) issues_of
  refine ⟨first_of3 (a.1 kd), first_of (b.2.1 ?_), first_of3 (c.2.2.1 (.inr kd)), first_of (d.2.2.2.1 ?_),
    first_of3 (a.2.2.2.2.1 ⟨63, by decide, by decide +kernel⟩), first_of3 (b.2.2.2.2.2 ?_), first_of (x.1 kd),
    first_of ((h.2 0 e (thr e) issues_of).2.1 kd kd), first_of ((h.2 0 f (thr f) issues_of).2.2.1 kd kd),
    first_of2 (x.2.2.2.1 kd), first_of (y.2.2.2.2.1 kd), first_of (x.2.2.2.2.2.1 kd), first_of (y.2.2.2.2.2.2 kd)⟩
  · exact fun k => down 63 (by decide) (k 63 (by decide) kd)
  · rintro (⟨g, hg, e⟩ | e)
    · exact downS g hg e
    · exact absurd e kd
  · rintro ⟨g, hg, e⟩
    exact down g hg e

/-- W4 pending, holding a word. -/
def pending (v : Word) : State := thread (fun t => { t with pend := 16 }) (st2 v 0)

theorem witness_PendingRegisters : Obligations.PendingRegisters → Next (.add 3 4 5) (pending 0) ∧ Next (.add 3 4 5) (pending 0x1000000) ∧ Next (.add 4 5 6) (pending 0) := fun h => by
  have a := (h .f64 3 4 5 (pending 0) (thr (pending 0)) issues_of part_of _ (.head _)).1 kd kd
  have b := (h .f64 3 4 5 (pending 0x1000000) (thr (pending 0x1000000)) issues_of part_of _ (.head _)).2.1 kd kd
  have c := (h .f64 4 5 6 (pending 0) (thr (pending 0)) issues_of part_of _ (.head _)).2.2 kd kd kd kd
  exact ⟨first_of a, next_of b, first_of c⟩

/-- W4 awaits a future, whose completion comes. -/
def awaited (can : Bool) : State :=
  let s := pending 0xF100000000000000
  { s with eng := { s.eng with futs := [⟨0xF100000000000000, .reg (s.tid 0 0) (some 0) 4, can, false⟩, ⟨7, .pair yk (s.tid 0 0), false, false⟩],
                               dones := [⟨0xF100000000000000, 42, false⟩, ⟨7, 43, false⟩] } }

/-- The same, where an arrival has touched the thread in the present ck (R50). -/
def early : State := thread (fun t => { t with evCk := 0, evPlace := 5 }) (awaited false)

theorem witness_Futures : Obligations.Futures → Next (.ftest 3 4) (pending 0) ∧ Next (.fwait 4) (pending 0) ∧ Next (.fwait 4) (pending 0x1800000) ∧ Next (.ftime 3 4) (pending 0) ∧
    Next (.fpass 4 4) (pending 0) ∧ Next (.fpass 4 5) (pending 0) ∧ Next (.fpass 3 5) st ∧ Next (.fpass 3 4) (pending 0) ∧ Next (.fcancel 4) st ∧
    Next (.fcancel 4) (pending 0xF100000000000000) ∧ Next (.fpassMem 4 0 5) (st2 y0 5) ∧ Next (.futureCompletion 0) (awaited false) ∧ Next (.futureCompletion 0) (awaited true) ∧
    Next (.futureCompletion 1) (awaited false) ∧ Next (.futureCompletion 0) early := fun h => by
  have g (d a b : WReg) (s : State) (t : Thread) (hi : Issues s t) (p : InPart s [d, a, b]) (w : Tidy s) := h.1 d a b 0 s t w hi p
  have p := g 3 4 5 (pending 0) (thr (pending 0)) issues_of part_of tidy_of
  have o := g 3 5 4 st (thr st) issues_of part_of tidy_of
  have quiet (s : State) (e : s.cores = [(0, { CoreSt.reset with tenant := 1 })]) : ∀ j, ∀ e ∈ (s.core j).wbuf, match e with | .store _ _ _ _ w => w = false | .fence _ _ _ => True := by
    intro j
    have : (s.core j).wbuf = [] := by
      show (tget CoreSt.reset s.cores j).wbuf = []
      rw [e]
      simp only [tget]
      repeat' split
      all_goals rfl
    rw [this]
    exact fun _ he => by cases he
  have a := (h.2 0 4 0 0 0 0xA000000020000000 ⟨0xF100000000000000, 42, false⟩ ⟨0xF100000000000000, .reg 0xA000000020000000 (some 0) 4, false, false⟩ (awaited false) (thr (awaited false)) tidy_of
    kd kd (quiet _ kd)).1 kd (by decide) (by decide) (by decide) kd kd kd kd
    kd kd
  have b := (h.2 0 4 0 0 0 0xA000000020000000 ⟨0xF100000000000000, 42, false⟩ ⟨0xF100000000000000, .reg 0xA000000020000000 (some 0) 4, true, false⟩ (awaited true) (thr (awaited true)) tidy_of
    kd kd (quiet _ kd)).1 kd (by decide) (by decide) (by decide) kd kd kd kd
    kd kd
  have c := (h.2 1 4 0 0 yk 0xA000000020000000 ⟨7, 43, false⟩ ⟨7, .pair yk 0xA000000020000000, false, false⟩ (awaited false) (thr (awaited false)) tidy_of kd kd
    (quiet _ kd)).2 kd kd kd kd
  have d := (h.2 0 4 0 0 0 0xA000000020000000 ⟨0xF100000000000000, 42, false⟩ ⟨0xF100000000000000, .reg 0xA000000020000000 (some 0) 4, false, false⟩ early (thr early) tidy_of
    kd kd (quiet _ kd)).1 kd (by decide) (by decide) (by decide) kd kd kd kd
    kd kd
  have m := (g 3 4 5 (st2 y0 5) (thr (st2 y0 5)) issues_of part_of tidy_of).2.2.2.2.2.2.2.2.2.2 _ yk ready_of hitsAs kd (by decide) nopend_of
  exact ⟨first_of (p.1 dst_of), first_of (p.2.1 kd kd),
    first_of ((g 3 4 5 (pending 0x1800000) (thr (pending 0)) issues_of part_of tidy_of).2.2.1 (.inr kd)), first_of (p.2.2.2.1 dst_of),
    first_of ((g 4 4 5 (pending 0) (thr (pending 0)) issues_of part_of tidy_of).2.2.2.2.1 rfl),
    next_of ((g 4 5 3 (pending 0) (thr (pending 0)) issues_of part_of tidy_of).2.2.2.2.2.1 (by decide) kd),
    first_of (o.2.2.2.2.2.2.1 (by decide) kd kd), first_of2 (p.2.2.2.2.2.2.2.1 (by decide) kd kd),
    first_of ((g 3 4 5 st (thr st) issues_of part_of tidy_of).2.2.2.2.2.2.2.2.1 (.inl kd)),
    first_of2 ((g 3 4 5 (pending 0xF100000000000000) (thr (pending 0)) issues_of part_of tidy_of).2.2.2.2.2.2.2.2.2.1 kd kd kd),
    first_of m, first_of2 (a.2.1 kd kd kd), first_of2 (b.2.2 kd (.inl kd)), first_of c, next_of (d.1 kd)⟩

/-- Y0 in F64 elements, and tile 0 of one F64 element at X0. -/
def desc : Word := BitVec.ofNat 64 (2 ^ 63 + 0x200 * 2 ^ 22)
def tiled (s : State) : State :=
  (s.setCore 0 { s.core 0 with fmt := tset fmtReset (s.core 0).fmt 4 0x880 }).setClu 0 { s.clu 0 with tiles := tset 0 (s.clu 0).tiles 0 desc }
def crowded (s : State) : State := s.setClu 0 { s.clu 0 with arrQ := List.replicate 5 ⟨.exit, 0, 0, 0, 0, 0, .rne, false, 0, 0, 0, 0, 0, 0, false⟩ }

def mm : MOps := ⟨3, 4, 5, 6, 7, 0, 0, 0, 0, false⟩
def mms : State := tiled (st2 y0 (y0 + 8))
def cfg (v : Word) : State := st2 v 0

theorem witness_MatrixIssue : Obligations.MatrixIssue → Next (.mcfg false 1 4 OrdScope.none) (cfg (2 ^ 35)) ∧ Next (.mcfg false 1 4 OrdScope.none) (cfg 0x80000000) ∧
    Next (.mcfg false 1 4 OrdScope.none) (crowded (cfg 0x80000000)) ∧ Next (.mzero 1 OrdScope.none) (cfg 0) ∧ Next (.mzero 0 OrdScope.none) mms ∧ Next (.mzero 0 OrdScope.none) (crowded mms) ∧
    Next (.mma false false mm OrdScope.none) st ∧ Next (.mma false false mm OrdScope.none) mms ∧ Next (.mma false false mm OrdScope.none) (crowded mms) ∧ Next (.mstat 3 1) (cfg 0) ∧
    Next (.mprog 3) (cfg 0) := fun h => by
  have g (tl : Fin 4) (s : State) (t : Thread) (w : Tidy s) (hi : Issues s t) := h false false false false tl 3 4 mm OrdScope.none s t w hi
  have e := g 1 (cfg (2 ^ 35)) (thr (cfg (2 ^ 35))) tidy_of issues_of
  have o := g 1 (cfg 0x80000000) (thr (cfg 0x80000000)) tidy_of issues_of
  have f := g 1 (crowded (cfg 0x80000000)) (thr (cfg 0x80000000)) tidy_of issues_of
  have z := g 1 (cfg 0) (thr (cfg 0)) tidy_of issues_of
  have m := g 0 mms (thr mms) tidy_of issues_of
  have n := g 0 (crowded mms) (thr mms) tidy_of issues_of
  have b := g 0 st (thr st) tidy_of issues_of
  exact ⟨next_of (e.1 ready_of (0x07, 1, 4) kd), first_of2 ((o.2.1 ready_of kd).1 kd),
    first_of ((f.2.1 ready_of kd).2 kd), next_of (z.2.2.1 kd), first_of2 ((m.2.2.2.1 kd).1 kd),
    first_of ((n.2.2.2.1 kd).2 kd), next_of ((b.2.2.2.2.1 _ (.head _) ready_of dst_of).1 (0x07, 1, 4) kd),
    first_of3 ((m.2.2.2.2.1 _ (.head _) ready_of dst_of).2.2 kd kd),
    first_of ((n.2.2.2.2.1 _ (.head _) ready_of dst_of).2.1 kd kd), first_of (z.2.2.2.2.2 dst_of).1, first_of (z.2.2.2.2.2 dst_of).2⟩

/-- A command of core 0's thread in its cluster's array queue. -/
def cmd (i : Instr) (v : Word) : ArrCmd := ⟨i, 0, 0, st.tid 0 0, 0, 0, .rne, false, v, y0, 0, 0, 0x880, 0x880, false⟩
def queueOf (q : ArrCmd) (s : State) : State := s.setClu 0 { s.clu 0 with arrQ := [q] }

/-- The array running a command on tile 0, with so many rows done. -/
def run0 (q : ArrCmd) (rows : Nat) : ArrRun := ⟨q, desc, rows, false, none, false, [], false, 0⟩
def running (q : ArrCmd) (rows : Nat) (s : State) : State := s.setClu 0 { s.clu 0 with arr := some (run0 q rows) }

theorem block_of {ε α : Type} {d : α} {p : Except ε α × State} (h : fineE p.1 = true := by decide +kernel) : p = (.ok (gotE d p.1), p.2) := by
  obtain ⟨x, y⟩ := p
  cases x with
  | ok _ => rfl
  | error _ => cases h

theorem witness_ArrayRuns : Obligations.ArrayRuns → Next (.arrayCommandStart 0) (queueOf (cmd (.mma false false mm OrdScope.none) y0) mms) ∧
    Next (.arrayCommandStart 0) (queueOf (cmd (.mcfg false 1 4 OrdScope.none) 0x80000000) st) ∧ Next (.rowBlockWrite 0) (running (cmd (.mma false false mm OrdScope.none) y0) 0 mms) ∧
    Next (.arrayCommandEnd 0) (waiting .array (running (cmd (.mcfg false 1 4 OrdScope.none) 0x80000000) 0 st)) ∧
    Next (.arrayCommandEnd 0) (waiting .array (running (cmd (.mzero 0 OrdScope.none) 0) 0 mms)) ∧
    Next (.arrayCommandEnd 0) (running { cmd (.mma false false mm OrdScope.none) y0 with h := 9 } 1 mms) := fun h => by
  let q := cmd (.mma false false mm OrdScope.none) y0
  let d : BlockIn := ⟨[], [], []⟩
  have a := (h 0 (queueOf q mms) st tidy_of).1 q [] kd kd kd kd ⟨_, .f64, rfl, is_of, by decide +kernel⟩
  have b := (h 0 (queueOf (cmd (.mcfg false 1 4 OrdScope.none) 0x80000000) st) st tidy_of).1 (cmd (.mcfg false 1 4 OrdScope.none) 0x80000000) [] kd kd
    kd kd rfl
  have c := (h 0 (running q 0 mms) _ tidy_of).2.1 (run0 q 0) _ .f64 _ kd rfl rfl rfl rfl rfl kd is_of (block_of (d := d)) kd kd
    kd rfl kd kd kd kd
  let m := cmd (.mcfg false 1 4 OrdScope.none) 0x80000000
  let z := cmd (.mzero 0 OrdScope.none) 0
  have e := ((h 0 (waiting .array (running m 0 st)) st tidy_of).2.2.1 (run0 m 0) 0 0 (thr (waiting .array st)) kd kd kd kd).1
    false 1 4 OrdScope.none rfl kd
  have f := ((h 0 (waiting .array (running z 0 mms)) st tidy_of).2.2.1 (run0 z 0) 0 0 (thr (waiting .array mms)) kd kd kd kd).2
    0 OrdScope.none rfl kd kd
  have g := (h 0 (running { q with h := 9 } 1 mms) st tidy_of).2.2.2 (run0 { q with h := 9 } 1) _ kd rfl rfl rfl kd (by decide) kd
  exact ⟨first_of2 a, first_of2 b, first_of2 c, first_of e, first_of f, first_of g⟩

/-- The state that an operation leaves. -/
def done (o : Out) (s : State) : State := match o with
  | .next t => t
  | _ => s

/-- A sweep's operands and descriptor of two RAW tiles of one byte at Y0, and a body in K1 (R229, R230, R233, R248). -/
def sw0 : State :=
  let s := thread (fun t => { t with k := t.k.set 1 0xC000000000000000 }) (put (put (put (put st 3 (y0 + 0x400)) 4 (y0 + 0x800)) 5 (y0 + 0xC00)) 7 0x400200)
  let w (n : Nat) (v : Word) (s : State) := s.setW64 (winKey 0 (0x24400 + 8 * n)) v
  w 4 64 (w 3 0x100000001 (w 2 0x100000002 (w 1 0x808 (w 0 (y0 + 0x1000) ((s.setW64 (purseKey 0 0 0) 0x20010000).setW64 (purseKey 0 0 1) (BitVec.ofNat 64 (2 ^ 48 + 0x200 * 2 ^ 36 + 2 ^ 34)))))))
def swi : Instr := .sweep .f32 false false 9 3 1 4 5 0 0 0 OrdScope.none

/-- The thread waits with its request at the Mint (R234), its descriptor at `va`. -/
def asked (va : Word) : State := waiting .sweep { sw0 with eng := { sw0.eng with sweepReqs := [⟨0, 0, st.tid 0 0, swi, va, y0 + 0x800, y0 + 0xC00⟩] } }
def sw1 : State := asked (y0 + 0x400)

/-- The sweep accepted, with bodies, and the handle in W9. -/
def sweeping (done : Nat) (l : List Body) : State :=
  let w : Sweep := ⟨0, 0xF300000000000000, st.tid 0 0, 0, false, 1, OrdScope.none, 0xC000000000000000, [y0 + 0x1000, 0x808, 0x100000002, 0x100000001, 64, 0, 0, 0], y0 + 0x800, y0 + 0xC00,
    .f32, false, 0, 0, 1, 2, List.replicate 16 64, 128, done, 0, 0, [], [], [], l, 0, 0, false, false, 0, 0, []⟩
  thread (fun t => { t with pend := 512 }) (put { sw0 with eng := { sw0.eng with sweeps := [w] } } 9 0xF300000000000000)
def sw2 : State := sweeping 0 []
def sw3 : State := sweeping 1 [⟨0, 0, 0, BitVec.ofNat 64 (0xA * 2 ^ 60 + 2 ^ 45 + 2 ^ 29), true⟩]
def swOf (s : State) : Option Sweep := s.eng.sweeps.head?

/-- The status word's operand: the handle in W9, whose register pends. -/
def w9 (s : State) : Sweep := (swOf s).getD ⟨0, 0, 0, 0, false, 0, OrdScope.none, 0, [], 0, 0, .f32, false, 0, 0, 0, 0, [], 0, 0, 0, 0, [], [], [], [], 0, 0, false, false, 0, 0, []⟩

/-- A sweep's header of two F32 slots and present bits at Y0 + 0x800 (R244). -/
def ssa : State := ((st2 y0 (y0 + 0x800)).setW64 (winKey 0 0x24800) (BitVec.ofNat 64 (2 ^ 17 + 2))).setW64 (winKey 0 0x24808) y0 |>.setW64 (winKey 0 (0x24800 + 72)) 3

/-- The sweep over, its last status word kept. -/
def swOver : State := { sw2 with eng := { sw2.eng with sweeps := [], swept := [(0xF300000000000000, 5)] } }

theorem witness_SweepForms : Obligations.SweepForms → Next swi sw0 ∧ Next (.swstat 3 9) sw2 ∧ Next (.swstat 3 9) st ∧ Next (.swcancel 9) sw3 ∧ Next (.swcancel 9) st ∧
    Next (.swmerge .f32 false 3 4 5) st ∧ Next (.swmerge .f32 false 3 4 5) (st2 0 65537) ∧ Next (.swmerge .f32 false 3 4 5) (put (st2 y0 1) 3 y0) ∧
    Next (.swmergeSsa 4 5) (st2 y0 (y0 + 0x800)) ∧ Next (.swmergeSsa 4 5) ssa ∧ Next (.swstat 3 9) swOver ∧ Next (.swmerge .f32 false 3 4 5) (put (st2 y0 1) 3 y0) ∧ Next (.swmergeSsa 4 5) ssa ∧
    (∃ s', mergeSlots .i64 false y0 y0 [(0, true), (1, true)] st = .ok ((), s')) := fun h => by
  have g (ty : STy) (d a b e f : WReg) (s : State) (t : Thread) (w : Tidy s) (i : Issues s t) := h.1 ty false false d a b e f 1 0 0 0 OrdScope.none s t w i
  have a := (g .f32 9 3 0 4 5 sw0 (thr sw0) tidy_of issues_of).1 ready_of dst_of
  have b := ((g .f32 3 9 0 4 5 sw2 (thr sw2) tidy_of issues_of).2.1 part_of dst_of).1 (w9 sw2) ⟨⟨kd, kd⟩, kd⟩
  have c := ((g .f32 3 9 0 4 5 st (thr st) tidy_of issues_of).2.1 part_of dst_of).2.2 (fun _ n => absurd n.1.1 kd) (fun _ n => absurd n.1.1 kd)
  have c2 := ((g .f32 3 9 0 4 5 swOver (thr sw2) tidy_of issues_of).2.1 part_of dst_of).2.1 5 ⟨⟨kd, kd⟩, (fun _ n => by cases (show (none : Option Sweep) = some _ from n.2)), kd⟩
  have d := ((g .f32 3 9 0 4 5 sw3 (thr sw3) tidy_of issues_of).2.2.1 part_of).1 (w9 sw3) ⟨⟨kd, kd⟩, kd⟩ kd kd kd
  have e := ((g .f32 3 9 0 4 5 st (thr st) tidy_of issues_of).2.2.1 part_of).2 (fun _ n => absurd n.1.1 kd)
  have f := (g .f32 3 4 5 4 5 st (thr st) tidy_of issues_of).2.2.2.1 ready_of kd
  have k := (g .f32 3 4 5 4 5 (st2 0 65537) (thr (st2 0 65537)) tidy_of issues_of).2.2.2.1 ready_of kd
  have m := (g .f32 3 4 5 4 5 (put (st2 y0 1) 3 y0) (thr st) tidy_of issues_of).2.2.2.2.1 _ ready_of kd kd (hitsAs (v := ()))
  have n := ((g .f32 4 5 5 4 5 (st2 y0 (y0 + 0x800)) (thr st) tidy_of issues_of).2.2.2.2.2.2 [0, 0, 0, 0, 0, 0] _ ready_of hitsAs).1 kd
  have o := ((g .f32 4 5 5 4 5 ssa (thr st) tidy_of issues_of).2.2.2.2.2.2 [BitVec.ofNat 64 (2 ^ 17 + 2), y0, 0, 0, 0, 0] _ ready_of hitsAs).2 [3] _ _
    ⟨by decide +kernel, by decide +kernel, by decide +kernel, by decide +kernel, fun v hv => by simpa using hv⟩ kd hitsAs
    (hitsAs (v := ()))
  have w1 := ((g .f32 3 4 5 4 5 (put (st2 y0 1) 3 y0) (thr st) tidy_of issues_of).2.2.2.2.2.1 1 yk yk (by decide) (by decide) kd kd (own_of (j := 0) (o := 0x24000) kd (by decide) kd) nopend_of).1
    ready_of kd (fun j hj => by obtain rfl : j = 0 := by omega
                                exact own_of (j := 0) (o := 0x24000) kd (by decide) kd)
  have z : ∀ j, j < 8 → 4 ≤ j → ssa.w64 (yk + 0x800 + 8 * j) = 0 := by decide +kernel
  have w2 := ((g .f32 4 5 5 4 5 ssa (thr st) tidy_of issues_of).2.2.2.2.2.1 2 yk yk (by decide) (by decide) kd kd (own_of (j := 0) (o := 0x24000) kd (by decide) kd) nopend_of).2 (yk + 0x800)
    ready_of (fun j hj => by
      have hj : j < 10 := hj
      rw [show yk + 0x800 + 8 * j = winKey 0 (0x24800 + 8 * j) from by simp only [yk, winKey]; omega]
      exact own_of (j := 0) (o := 0x24800 + 8 * j) kd ⟨by omega, by omega, by omega⟩
        (by rw [show opnd ssa (thr st) 5 = BitVec.ofNat 64 (0xFF00000000000000 + 0x24800) from kd, ← BitVec.ofNat_add]
            exact congrArg _ (by rw [show ssa.cur.core = 0 from rfl]; omega))) kd (fun j a b => z j b a) kd
    (fun j hj _ => by
      show OwnBank ssa (ssa.w64 (yk + 0x800 + 8 * 1) + BitVec.ofNat 64 (4 * j)) 4 (yk + 4 * j)
      rw [show yk + 4 * j = winKey 0 (0x24000 + 4 * j) from by simp only [yk, winKey]; omega]
      exact own_of (j := 0) (o := 0x24000 + 4 * j) kd ⟨by omega, by omega, by omega⟩
        (by rw [show ssa.w64 (yk + 0x800 + 8 * 1) = BitVec.ofNat 64 (0xFF00000000000000 + 0x24000) from kd, ← BitVec.ofNat_add]
            exact congrArg _ (by rw [show ssa.cur.core = 0 from rfl]; omega)))
  have p := h.2.1 .i64 y0 y0 [(0, true), (1, true)] [some 0, some 0] yk st _ _ (thr st) (by decide) (by decide) hitsAs hitsAs kd issues_of follows_of kd
    nopend_of
  obtain ⟨s', hs, _⟩ := p
  exact ⟨first_of a, first_of b, first_of c, first_of d, first_of e, next_of f, next_of k, next_of m, next_of n, next_of o, first_of c2, first_of w1, first_of w2, ⟨s', hs⟩⟩

theorem witness_SweepEvents : Obligations.SweepEvents → Next (.sweepAcceptance 0 0) (asked (y0 + 1)) ∧ Next (.sweepAcceptance 0 0) (setRc sw1 0xC000000000000000 65535) ∧
    Next (.sweepAcceptance 0 0) sw1 ∧ Next (.tileDelivery 0 0 0) sw2 ∧ Next (.tileAgePriority 0 1) { sw2 with real := 131072000 } ∧ Next (.swsuspGo 63) sw3 := fun h => by
  have g (s : State) (t : Thread) (w : Tidy s) (i : s.thread 0 0 = some t) := h 0 0 s t w i (by decide) (by decide)
  let r (s : State) : SweepReq := s.eng.sweepReqs.head?.getD ⟨0, 0, 0, .exit, 0, 0, 0⟩
  let bad := asked (y0 + 1)
  let ad : Admit := ⟨[], [], 0⟩
  have a := (g bad (thr bad) tidy_of kd).1 .f32 false false 9 3 4 5 1 0 0 0 OrdScope.none (r bad) kd kd kd kd
    kd kd kd kd
  have b := (g sw1 (thr sw1) tidy_of kd).1 .f32 false false 9 3 4 5 1 0 0 0 OrdScope.none (r sw1) kd kd kd kd
    kd kd kd kd
  let full := setRc sw1 0xC000000000000000 65535
  have c := (g full (thr full) tidy_of kd).1 .f32 false false 9 3 4 5 1 0 0 0 OrdScope.none (r full) kd kd kd kd
    kd kd kd kd
  have a := a.1 0x05 (y0 + 1) errs
  have b := b.2.2 _ _ (hitsE (d := ad)) kd rfl kd kd kd (hitsE (d := []))
  have c := c.2.1 _ 0x0C (hitsE (d := ad)) kd
  have d := (g sw2 (thr sw2) tidy_of kd).2.1 0 0 0 1 0 (w9 sw2) _ kd kd kd (by decide) kd kd
    (hitsE (d := [])) kd kd kd kd kd kd kd kd
  have e := (g { sw2 with real := 131072000 } (thr sw2) tidy_of kd).2.2.1 0 1 (w9 sw2) kd kd kd kd kd
  have f := (g sw3 (thr sw3) tidy_of kd).2.2.2 63 kd
  exact ⟨next_of a, first_of c, first_of2 b, first_of4 d, first_of e, first_of f⟩

/-- K1 holds a handle of record 0 of core 0; the block has room for frames. -/
def kst : State :=
  let s := thread (fun t => { t with size := 1024, k := t.k.set 1 0xC000000000000000 }) (put st 7 0x400200)
  (s.setW64 (purseKey 0 0 0) 0x20010000).setW64 (purseKey 0 0 1) (BitVec.ofNat 64 (2 ^ 48 + 0x200 * 2 ^ 36 + 2 ^ 34 + 5 * 2 ^ 29 + 2 ^ 15))
def kh : Word := 0xC000000000000000
def ky (v : Word) : State := celled v (put kst 4 y0)

theorem witness_HandleForms : Obligations.HandleForms → Next (.kdup 1 1) kst ∧ Next (.kdup 2 1) (setRc kst kh 65535) ∧ Next (.kdup 2 1) (setRc kst kh 65534) ∧ Next (.kdup 2 1) st ∧
    Next (.kdrop 1) kst ∧ Next (.kst 4 0 1) (ky 0) ∧ Next (.kld 2 4 0) (ky kh) ∧ Next (.kld 2 4 0) (ky 5) ∧ Next (.krelm 4 0) (ky kh) := fun h => by
  have g (k j : KReg) (s s1 : State) (t u : Thread) (m : Nat) (w : Tidy s) (i : Issues s t) := h k j 4 0 s s1 t u m w i
  have a := (g 1 1 kst kst (thr kst) (thr kst) 0 tidy_of issues_of).1 rfl
  have b := (g 1 2 (setRc kst kh 65535) kst (thr kst) (thr kst) 0 tidy_of issues_of).2.1 (by decide) kd kd kd
  have c := (g 1 2 (setRc kst kh 65534) kst (thr kst) (thr kst) 0 tidy_of issues_of).2.2.1 (by decide) kd kd kd
  have d := (g 1 2 st kst (thr st) (thr kst) 0 tidy_of issues_of).2.2.2.1 (by decide) kd kd kd
  have e := (g 1 2 kst kst (thr kst) (thr kst) 0 tidy_of issues_of).2.2.2.2.1 kd
  have f := (g 1 2 (ky 0) _ (thr (ky 0)) (thr (left (hdlWord 4 0 true) (ky 0))) yk tidy_of issues_of).2.2.2.2.2.1 ⟨hitsAs, follows_of, fun _ => nopend_of⟩ kd kd kd
    kd kd
  have k := (g 1 2 (ky kh) _ (thr (ky 0)) (thr (left (hdlWord 4 0 false) (ky kh))) yk tidy_of issues_of).2.2.2.2.2.2.1 ⟨hitsAs, follows_of, fun e => by cases e⟩ kd kd kd
    kd kd kd kd
  have m := (g 1 2 (ky 5) _ (thr (ky 0)) (thr (left (hdlWord 4 0 false) (ky 5))) yk tidy_of issues_of).2.2.2.2.2.2.2.1 ⟨hitsAs, follows_of, fun e => by cases e⟩ kd kd kd
  have n := (g 1 2 (ky kh) _ (thr (ky 0)) (thr (left (hdlWord 4 0 true) (ky kh))) yk tidy_of issues_of).2.2.2.2.2.2.2.2 ⟨hitsAs, follows_of, fun _ => nopend_of⟩ kd kd kd
  exact ⟨first_of a, next_of b, first_of c, first_of d, first_of e, first_of2 f, first_of k, first_of m, first_of2 n⟩

/-- Every record of core 0 in use. -/
def purseFull : State := { put st 7 0x400200 with mem := (put st 7 0x400200).mem ++ (List.range 128).map (fun y => (purseKey 0 y 1 + 4, 4)) }
def capst : State := put st 7 0x400200
/-- K1 holds a handle of another generation. -/
def oldGen : State := thread (fun t => { t with k := t.k.set 1 0xC000000040000000 }) kst
/-- In the frame that an APPLY opened. -/
def called : State := setWait (ran (.apply 1) kst) 0 0 .none

/-- W14 pending; and a record reserved by a capture that waited for it (R255). -/
def capPend : State := thread (fun t => { t with pend := 0x4000 }) capst
def capHeld : State := thread (fun t => { t with reserved := [(t.pc, 3)] }) capst

theorem alone_of {s : State} (h : (List.range 16).all (fun x => x == 0 || (s.thread 0 x).isNone) = true := by decide +kernel) (x : Nat) (hx : x < 16) (hn : x ≠ 0) (u : Thread) :
    s.thread 0 x ≠ some u := by
  intro e
  have := List.all_eq_true.mp h x (by simpa using hx)
  simp [hn, e] at this

theorem witness_CapturesAndApplications : Obligations.CapturesAndApplications → Next (.capt 1 7 1 0) (put st 7 16) ∧ Next (.captr 1 7 1 1 15) purseFull ∧
    Next (.capt 1 7 1 14) capPend ∧ Next (.capt 1 7 3 14) capst ∧ Next (.capt 1 7 3 14) capHeld := fun h => by
  have a := (h.1 false 1 7 1 0 0 (put st 7 16) (thr st) tidy_of ready_of).1 kd kd
  have one (x : Nat) (hx : x < 14 ∧ (1 : BitVec 14).getLsbD x = true) : x = 0 := by
    obtain ⟨h1, h2⟩ := hx
    revert h2; revert h1; revert x; decide
  have two (x : Nat) (hx : x < 14 ∧ (3 : BitVec 14).getLsbD x = true) : x = 0 ∨ x = 1 := by
    obtain ⟨h1, h2⟩ := hx
    revert h2; revert h1; revert x; decide
  have used : ∀ y, y < 128 → (purseFull.purse 0 y 1).getLsbD 34 = true := by decide +kernel
  have b := (h.1 true 1 7 1 1 15 purseFull (thr st) tidy_of ready_of).2.1 kd kd (fun x hx => by obtain rfl := one x hx; decide +kernel) kd
    (fun y hy f => absurd (f.1.symm.trans (used y hy)) (by decide))
  have c := (h.1 false 1 7 1 0 14 capPend (thr capPend) tidy_of ready_of).2.2.1 0 0 kd kd (fun x hx => by obtain rfl := one x hx; decide +kernel)
    ⟨by decide, .inr ⟨kd, ⟨kd, empty_of, fun x u hx hn e => absurd e (alone_of kd x hx hn u), empty_of⟩, fun z hz => absurd hz (by omega)⟩⟩ kd kd kd kd (fun z hz => absurd hz (by omega)) kd
  have d := (h.1 false 1 7 3 0 14 capst (thr st) tidy_of ready_of).2.2.2 0 kd kd (by decide) (by decide)
    (fun x hx => by rcases two x hx with rfl | rfl <;> exact ⟨by decide +kernel, fun _ => by decide +kernel⟩)
    ⟨by decide, .inr ⟨kd, ⟨kd, empty_of, fun x u hx hn e => absurd e (alone_of kd x hx hn u), empty_of⟩, fun z hz => absurd hz (by omega)⟩⟩ kd kd kd kd
  have e := (h.1 false 1 7 3 0 14 capHeld (thr capHeld) tidy_of ready_of).2.2.2 3 kd kd (by decide) (by decide)
    (fun x hx => by rcases two x hx with rfl | rfl <;> exact ⟨by decide +kernel, fun _ => by decide +kernel⟩) ⟨by decide, .inl kd⟩ kd kd kd kd
  exact ⟨next_of a, next_of b, first_of c, first_of d, first_of e⟩

theorem witness_CapturesAndApplications_2 : Obligations.CapturesAndApplications →
    Next (.apply 1) oldGen ∧ Next (.apply 1) kst ∧ Next .ret st ∧ Next .ret (thread (fun t => { t with pend := 1 }) called) ∧ Next .ret called ∧
    Next (.applyA 3 1 none ⟨.rel, .pkg⟩) kst ∧ Next (.applyA 3 1 (some 4) OrdScope.none) (put (setRc kst kh 65534) 4 15) := fun h => by
  have g (s s1 : State) (t t1 : Thread) (w : Tidy s) (i : Issues s t) := h.2 1 3 ⟨.rel, .pkg⟩ s s1 t t1 w i
  have d := (g oldGen st (thr oldGen) (thr st) tidy_of issues_of).1 kd kd
  have e := (g kst _ (thr kst) (thr (gotE st (openFrame kst 0 0 (atAddr kst (thr kst) + 8)))) tidy_of issues_of).2.1 kd kd ready_of (hitsE (d := st)) follows_of
  have f := (g st st (thr st) (thr st) tidy_of issues_of).2.2.1 (.inl kd)
  let p := thread (fun t => { t with pend := 1 }) called
  have k := (g p st (thr p) (thr st) tidy_of issues_of).2.2.2.1 kd kd kd kd
  have m := (g called _ (thr called) (thr (gotE st (closeTo called 0 0 (thr called) ((thr called).depth - 2)))) tidy_of issues_of).2.2.2.2.1 kd kd kd
    kd (hitsE (d := st)) follows_of
  have n := (g kst st (thr kst) (thr st) tidy_of issues_of).2.2.2.2.2 none 0 kd kd dst_of drained_of kd kd (by decide) kd kd
  let q := put (setRc kst kh 65534) 4 15
  have o := (h.2 1 3 OrdScope.none q st (thr kst) (thr st) tidy_of issues_of).2.2.2.2.2 (some 4) 15 kd kd dst_of drained_of kd
    ⟨ready_of, by decide +kernel, by decide +kernel⟩ (by decide) kd kd
  exact ⟨next_of d, first_of e, next_of f, first_of k, first_of m, first_of2 n, first_of2 o⟩

theorem witness_Migrations : Obligations.Migrations → Next (.migrto 4) (st2 (2 ^ 21) 0) ∧ Next (.migrto 4) (st2 1536 0) ∧ Next (.migrto 4) ((st2 1535 0).setCore 0 { (st2 0 0).core 0 with wide := true }) ∧
    Next (.migrto 4) (st2 0 0) ∧ Next (.migrto 4) (thread (fun t => { t with pend := 1 }) (st2 15 0)) ∧ Next (.migrto 4) (put copying 4 15) ∧ Next (.migrto 4) (st2 15 0) ∧
    Next (.migr 4) (st2 far 0) ∧ Next (.migrto 4) (thread (fun t => { t with depth := 2 }) (st2 15 0)) ∧ Next (.migr 4) (ran .mmask (st2 far 0)) ∧
    Next (.migr 4) ((st2 far 0).setCore 0 { (st2 0 0).core 0 with wide := true }) ∧ Next (.migr 4) ((st2 1 0).setCore 0 { (st2 0 0).core 0 with wide := true }) := fun h => by
  let m (v : Word) := st2 v 0
  let x (v : Word) := (m v).setCore 0 { (m 0).core 0 with wide := true }
  have u := (h 4 (x 1535) (thr st) tidy_of ready_of).1 kd
  have i := (h 4 (x far) (thr st) tidy_of ready_of).2.1 kd (winKey 1 0x24000) _ 0 1 hitsAs kd
  have y := (h 4 (x 1) (thr st) tidy_of ready_of).2.2.1 kd (fun k s0 e => by
    have z : (match migrLocate (opnd (x 1) (thr st) 4) (x 1) with | .ok (k, s0) => decide (ownerOf s0.modid k = none) | .error _ => true) = true := by decide +kernel
    rw [e] at z
    exact of_decide_eq_true z)
  let o := thread (fun t => { t with depth := 2 }) (m 15)
  have l := ((h 4 o (thr o) tidy_of ready_of).2.2.2.1 kd (.migrto 4) (.tail _ (.head _))).1 kd
  let n := ran .mmask (m far)
  have w := ((h 4 n (thr n) tidy_of ready_of).2.2.2.1 kd (.migr 4) (.head _)).2 kd (.inl kd)
  have a := (h 4 (m (2 ^ 21)) (thr st) tidy_of ready_of).2.2.2.2.1 kd kd kd (.inl kd)
  have b := (h 4 (m 1536) (thr st) tidy_of ready_of).2.2.2.2.1 kd kd kd (.inr kd)
  have d := ((h 4 (m 0) (thr st) tidy_of ready_of).2.2.2.2.2 kd kd kd 0 0 (m 0) _ (.head _) ⟨rfl, by decide +kernel, by decide, by decide⟩ follows_of
    (fun _ => by decide +kernel) kd).1 kd kd
  let p := thread (fun t => { t with pend := 1 }) (m 15)
  have e := ((h 4 p (thr p) tidy_of ready_of).2.2.2.2.2 kd kd kd 0 15 p _ (.head _) ⟨rfl, by decide +kernel, by decide, by decide⟩ follows_of
    (fun _ => by decide +kernel) kd).2.1 kd kd
  let q := put copying 4 15
  have f := ((h 4 q (thr q) tidy_of ready_of).2.2.2.2.2 kd kd kd 0 15 q _ (.head _) ⟨rfl, by decide +kernel, by decide, by decide⟩ follows_of
    (fun _ => by decide +kernel) kd).2.2.1 kd kd kd
  have g := ((h 4 (m 15) (thr st) tidy_of ready_of).2.2.2.2.2 kd kd kd 0 15 (m 15) _ (.head _) ⟨rfl, by decide +kernel, by decide, by decide⟩ follows_of
    (fun _ => by decide +kernel) kd).2.2.2 kd kd kd drained_of
  have k := ((h 4 (m far) (thr st) tidy_of ready_of).2.2.2.2.2 kd kd kd 0 1 _ _ (.tail _ (.head _)) ⟨winKey 1 0x24000, hitsAs, by decide +kernel⟩ follows_of
    (fun _ => by decide +kernel) kd).2.2.2 kd kd kd drained_of
  exact ⟨next_of a, next_of b, next_of u, first_of d, first_of e, first_of f, first_of3 g, first_of3 k, next_of l, next_of w, next_of i, next_of y⟩

/-- Stores a word at a physical address of the module. -/
def phys (a : Nat) (v : Word) (s : State) : State := s.setW64 (keyOf s.modid a) v

/-- The tenant's tables (R301, R302): the page at pga is homed at channel 0, and the page at 0x10000 holds the wake cells. -/
def paged (s : State) : State :=
  phys 0x4008 (BitVec.ofNat 64 (Config.devBase + 0x40000000 + 0x2F)) (phys 0x4000 (BitVec.ofNat 64 (Config.directBase + 0x100000 + 0x2F))
    (phys 0x3000 0x4001 (phys 0x2000 0x3001 (phys 0x1000 0x2001 (phys 0x20 0x1001 (phys 0 0x1001 s))))))
def cellVa : Word := 0x10008
def pga : Word := 0x4000000000000

/-- A thread that may park: its page list at Y0 names the page at pga, W5 the cell, K1 the continuation. -/
def parking : State := celled pga <| put (put (paged kst) 4 y0) 5 cellVa
def pki : Instr := .park 3 4 1 5 0 0 ⟨.acq, .pkg⟩

/-- The request at the escrow engine. -/
def request (np : Nat) : ParkReq := ⟨st.tid 0 0, 0, false, 1, 0xF500000000000000, ⟨.acq, .pkg⟩, y0, np, 0, cellVa, kh, 1024, false⟩
def parked (np : Nat) : State := { parking with eng := { parking.eng with parks := [request np] } }

/-- Cell 1 holds a park of the page at 0, which stands in a tier and may be moving; room stands for one page in CXL memory and flash. -/
def pageIn (t : Tier) (m : Option Tier) : Page := ⟨pga, Config.directBase + 0x100000, t, m, if t == .flash || m == some .flash then some (0, 1) else none, []⟩
def parkOf (t : Tier) (m : Option Tier) : Park := ⟨kh, [pageIn t m], 1024, 1, 0, 0, 0, 500, 50000, 0, 0, false⟩
def cellIn (state : Nat) (t : Tier) (m : Option Tier) : State :=
  { kst with time := 65536000 * 50500, eng := { kst.eng with cells := [(1, ⟨state, 0, 0, 0, 0, some (parkOf t m)⟩)], ecxllim := 1, efllim := 1 },
             fab := { kst.fab with cxlSize := tset 0 kst.fab.cxlSize 0 65536, flashPages := [(0, 1)] } }
def bare (state : Nat) : State := { kst with eng := { kst.eng with cells := [(1, ⟨state, 0, 0, 0, 0, none⟩)] } }

def wokenCell : State :=
  { kst with eng := { kst.eng with cells := [(1, ⟨3, 0, 0, 0, 0, some { parkOf .hbm (some .cxl) with woken := true }⟩)] } }
/-- The stores of the tenant's cores forced, with the request taken. -/
def unsplit (s : State) : State := (forceCores { s with eng := { s.eng with parks := [] } } (fun x => s.tenantOf x == 1)).1

/-- A flit of a thread for core 1 (R260, R261). -/
def flown : Flit := ⟨st.tid 0 0, 16 * 4096, Vector.replicate 4 0, 0, List.replicate 7 0, 1, ⟨0, 0, 0, 0, 0, []⟩, [], [], [], []⟩
def kst1 : State := kst.setCore 1 { kst.core 1 with tenant := 1 }
def flit : Creation := { core := 1, entry := 0x400208, regs := (List.range 16).map (fun j => (j, 7)), bsize := 128, acq := none, env := none, origin := .none, cell := none,
                         flit := some flown, stamp := none }

theorem witness_Parks : Obligations.Parks → Next (.park 3 4 1 5 63 7 ⟨.acq, .pkg⟩) (put parking 4 (y0 + 4)) ∧ Next pki parking ∧ Next (.wakew 5 7 OrdScope.none) parking ∧ Next (.estat 3 5) parking := fun h => by
  have g (np : BitVec 6) (cls : Fin 8) (s s1 s2 : State) (t u : Thread) (w : Tidy s) (i : Issues s t) := h.1 3 4 7 5 1 np cls ⟨.acq, .pkg⟩ s s1 s2 t u w i
  have a := (g 63 7 (put parking 4 (y0 + 4)) st st (thr kst) (thr kst) tidy_of issues_of).1 ready_of dst_of kd
  have b := (g 0 0 parking st st (thr kst) (thr kst) tidy_of issues_of).2.1 ready_of dst_of kd kd kd kd kd
    kd
  have c := (h.1 3 5 7 5 1 0 0 OrdScope.none parking _ st (thr kst) (thr kst) tidy_of issues_of).2.2.1 1 ready_of hitsAs (by decide) rfl drained_of kd follows_of
  have d := (h.1 3 5 7 5 1 0 0 OrdScope.none parking _ _ (thr kst) (thr (left (loadAt cellVa 8) (left (locate .read cellVa 8 8) parking))) tidy_of issues_of).2.2.2.1 1 _ ready_of dst_of hitsAs
    (by decide) kd (hits (d := 0)) follows_of
  have _ := d.2 _ hitsAs
  exact ⟨next_of a, first_of2 b, first_of2 c, first_of d.1⟩

theorem witness_Parks_2 : Obligations.Parks → Next (.migrationFlit 0) { kst1 with eng := { kst.eng with flits := [flit] } } ∧ Next (.migrationFlit 0) { kst1 with eng := { kst.eng with flits := [{ flit with core := 16 }] } } ∧
    Next (.parkAcceptance 0) (parked 2) ∧ Next (.parkAcceptance 0) (parked 1) ∧
    Next (.wakeWrite 1 9) (bare 0) ∧ Next (.wakeWrite 1 9) (bare 9) ∧ Next (.wakeWrite 1 9) (cellIn 6 .flash none) ∧ Next (.wakeWrite 1 9) (cellIn 3 .hbm (some .cxl)) ∧ Next (.wakeWrite 1 9) wokenCell ∧ Next (.hbmDwellExpiry 1) (cellIn 2 .hbm none) ∧
    Next (.cxlDwellExpiry 1) (cellIn 4 .cxl none) ∧ Next (.pageMoveComplete 1 0 false) (cellIn 3 .hbm (some .cxl)) ∧ Next (.flashCommandCompletion 1 0 0) (cellIn 5 .cxl (some .flash)) ∧
    Next (.promotionStageComplete 1 0 false) (cellIn 7 .cxl (some .hbm)) ∧ Next (.ecellclr .comptroller 1) (bare 9) := fun h => by
  have g (v : Word) (s : State) (t : Tier) (m : Option Tier) (w : Tidy s) := h.2 1 0 v s (parkOf t m) (pageIn t m) w
  have a := (g 0 { kst1 with eng := { kst.eng with flits := [flit] } } .hbm none tidy_of).2.1 flit flown 0 0x1000 kd rfl kd rfl rfl
    kd (by decide) kd (by decide) kd
  have a1 := (g 0 { kst1 with eng := { kst.eng with flits := [{ flit with core := 16 }] } } .hbm none tidy_of).1 { flit with core := 16 } kd kd rfl
  have b := ((g 0 (parked 2) .hbm none tidy_of).2.2.1 (request 2) kd kd kd (by decide)).1 2 errs
  have c := ((g 0 (parked 1) .hbm none tidy_of).2.2.1 (request 1) kd kd kd (by decide)).2 [pageIn .hbm none] 1 (unsplit (parked 1)) is_of kd kd
  have d := ((g 9 (bare 0) .hbm none tidy_of).2.2.2.1 (by decide)).1 kd
  have e := ((g 9 (bare 9) .hbm none tidy_of).2.2.2.1 (by decide)).2.1 kd
  have f := (((g 9 (cellIn 6 .flash none) .flash none tidy_of).2.2.2.1 (by decide)).2.2.2 kd kd rfl).1 kd
  have f1 := (((g 9 (cellIn 3 .hbm (some .cxl)) .hbm (some .cxl) tidy_of).2.2.2.1 (by decide)).2.2.2 kd kd rfl).2 kd
  have f2 := (h.2 1 0 9 wokenCell { parkOf .hbm (some .cxl) with woken := true } (pageIn .hbm (some .cxl)) tidy_of).2.2.2.1 (by decide) |>.2.2.1 kd kd rfl
  have i := (g 9 (cellIn 2 .hbm none) .hbm none tidy_of).2.2.2.2.1 kd kd rfl rfl rfl (by decide) kd kd
  have j := (g 9 (cellIn 4 .cxl none) .cxl none tidy_of).2.2.2.2.2.1 kd kd rfl rfl rfl (by decide) (by decide) kd kd
  have k := (g 9 (cellIn 3 .hbm (some .cxl)) .hbm (some .cxl) tidy_of).2.2.2.2.2.2.1 kd kd rfl rfl rfl
  have l := (g 9 (cellIn 5 .cxl (some .flash)) .cxl (some .flash) tidy_of).2.2.2.2.2.2.2.1 kd kd rfl rfl rfl
  have m := (g 9 (cellIn 7 .cxl (some .hbm)) .cxl (some .hbm) tidy_of).2.2.2.2.2.2.2.2.1 kd kd rfl (by decide)
  have n := (g 1 (bare 9) .hbm none tidy_of).2.2.2.2.2.2.2.2.2 .comptroller 1 kd kd (by decide) ⟨.inl rfl, rfl⟩
  exact ⟨first_of2 a, first_of a1, first_of b, first_of2 c, first_of d, next_of e, first_of f, first_of f1, next_of f2, first_of i, first_of2 j, first_of k, first_of l, first_of2 m, first_of n⟩

/-- Core 0 with a trap vector; and its thread in the kernel frame. -/
def vectored : State := st.setCore 0 { st.core 0 with trapvec := 0x8000 }
def kt : State := withThread State.reset true

theorem witness_TrapEntry : Obligations.TrapEntry → (trapEntry vectored 0 0 0x14 5 8 0).mem = vectored.mem ∧ (trapEntry kt 0 0 0x14 5 8 0).mem = kt.mem := fun h =>
  ⟨((h 0 0 0x14 5 8 0 vectored (thr vectored) tidy_of kd).1 kd kd).2.1,
   ((h 0 0 0x14 5 8 0 kt (thr kt) tidy_of kd).2 kd).2.1⟩

/-- The kernel thread with a return address. -/
def returning (v : Word) : State := kt.setSlot 0 0 { kt.slot 0 0 with trappc := v }
/-- A kernel thread with W4, W5 and W6. -/
def kput (s : State) (n : Nat) (v : Word) : State := s.setW64 (winKey 0 (0x800 + 8 * n)) v
def k3 (a b e : Word) : State := kput (kput (kput kt 4 a) 5 b) 6 e
/-- The first device-launch queue full. -/
def devFull (s : State) : State :=
  { s with tr := { s.tr with queues := tins s.tr.queues 1016 { s.queue 1016 with dev := List.replicate 1024 ⟨0, 0, 1, 1, 0, 0⟩ } } }

theorem witness_TrapsAndSystemForms : Obligations.TrapsAndSystemForms → Next (.trap 65535) st ∧ Next .eret (thread (fun t => { t with pend := 1 }) kt) ∧ Next .eret (returning hi) ∧
    Next .eret (returning 2) ∧ Next .eretEnd kt ∧ Next (.repart 3 4) (k3 0 0 0) ∧ Next (.repart 3 4) (k3 2048 0 0) ∧ Next (.repart 3 4) (k3 (2048 + 1535) 0 0) ∧
    Next (.tlbinv 0 4 5) (k3 0 65535 0) ∧ Next (.launch 3 4 5 6 7) (k3 0 0 0) ∧ Next (.launch 3 4 5 6 7) (k3 0 0 0xFFFFFFFF) ∧ Next (.launch 3 4 5 6 0) (devFull (k3 0 0 1)) ∧
    Next (.sleep 4) (k3 0 0 0) ∧ Next (.sleep 4) (k3 1 0 0) ∧ Next (.assaytrig 65535) (k3 0 0 0) := fun h => by
  let p := thread (fun t => { t with pend := 1 }) kt
  have a := (h.1 65535 p (thr p) tidy_of issues_of).2.2.1 kd _ (.head _)
  have b := (h.1 0 (returning hi) (thr kt) tidy_of issues_of).2.2.2.1 kd (by unfold goodTarget; decide +kernel)
  have c := (h.1 0 (returning 2) (thr kt) tidy_of issues_of).2.2.2.2.1 kd kd
  have d := (h.1 0 kt (thr kt) tidy_of issues_of).2.2.2.2.2 kd (.inl drained_of)
  have g (x y z : Word) (w : Tidy (k3 x y z)) (r : Ready (k3 x y z) (thr kt) [4, 5, 6]) := h.2 3 4 5 6 0 7 65535 (k3 x y z) (thr kt) w r
  have e := ((g 0 0 0 tidy_of ready_of).1 dst_of kd kd).1 kd
  have f := ((g 2048 0 0 tidy_of ready_of).1 dst_of kd kd).2.1 kd kd
  have i := ((g (2048 + 1535) 0 0 tidy_of ready_of).1 dst_of kd kd).2.2 kd kd
  have j := (g 0 65535 0 tidy_of ready_of).2.1 kd (.inr kd) (.inr kd)
  have l := (g 0 0 0 tidy_of ready_of).2.2.1 kd (.inl kd)
  have m := ((g 0 0 0xFFFFFFFF tidy_of ready_of).2.2.2.1 kd kd dst_of drained_of).2 kd
  have n := ((h.2 3 4 5 6 0 0 0 (devFull (k3 0 0 1)) (thr kt) tidy_of ready_of).2.2.2.1 kd kd dst_of drained_of).1 kd
  have o := (g 0 0 0 tidy_of ready_of).2.2.2.2.1 kd
  have q := (g 1 0 0 tidy_of ready_of).2.2.2.2.2.1 kd
  exact ⟨next_of (h.1 65535 st (thr st) tidy_of issues_of).1, first_of a, first_of b, next_of c, first_of d, first_of e, first_of f, first_of i, first_of j, next_of l, first_of m, first_of n, first_of o,
    first_of q, first_of (g 0 0 0 tidy_of ready_of).2.2.2.2.2.2⟩

theorem witness_SystemRegisters : Obligations.SystemRegisters → Next (.mfs 3 .wp) kt ∧ Next (.mfs 3 .flttid) kt ∧ Next (.mfs 3 .flttid) core1 ∧ Next (.mts .trapcause 4) (k3 (-1) 0 0) ∧
    Next (.mts .trapvec 4) (k3 (-1) 0 0) ∧ Next (.mts (.fmt 11) 4) (k3 0x4888 0 0) ∧ Next (.mts (.fmt 0) 4) (k3 0x5888 0 0) ∧ Next (.mts .time 4) (k3 0 0 0) ∧ Next (.mts .actl 4) (k3 1 0 0) ∧
    Next (.mts .tenant 4) (k3 0 0 0) ∧ Next (.mts .flttid 4) (k3 0 0 0) := fun h => by
  have a := (h 3 4 0 kt (thr kt) tidy_of issues_of).1 dst_of kd
  have b := (h 3 4 0 core1 (thr core1) tidy_of issues_of).1 dst_of kd
  have g (x : Word) (s : Seg) (w : Tidy (k3 x 0 0)) (i : Issues (k3 x 0 0) (thr kt)) := (h 3 4 s (k3 x 0 0) (thr kt) w i).2
  have c := g (-1) 0 tidy_of issues_of ready_of kd
  have d := g 0 0 tidy_of issues_of ready_of kd
  have e := g 1 0 tidy_of issues_of ready_of kd
  exact ⟨first_of (a.1 _ (.head _)), first_of (a.2.1 kd _ (.head _)), next_of (b.2.2 kd _ (.head _)), first_of (c.1 _ (.head _)), first_of (c.2.1 _ (.head _)),
    first_of ((g 0x4888 11 tidy_of issues_of ready_of kd).2.2.1 kd kd),
    next_of ((g 0x5888 0 tidy_of issues_of ready_of kd).2.2.2.1 kd), next_of (d.2.2.2.2.1 _ (.tail _ (.tail _ (.head _)))), first_of (e.2.2.2.2.2.1 _ (.head _)),
    next_of (d.2.2.2.2.2.2.1 _ (.head _)), first_of (d.2.2.2.2.2.2.2 kd _ (.head _))⟩

/-- Core 0's spill engine with a request, and a pool of one entry in its own banks (R288). -/
def pooled (s : State) (q : List SpillReq) : State := s.setCore 1 { s.core 1 with savebase := 0xFF00000000020001, spillQ := q }
def asking (sl : Nat) : SpillReq := ⟨none, 0, 0, 3, sl, 0⟩
def behind : State := pooled (k3 1 0 0) [asking 5]
def filling : State := pooled (waiting .spillReq two) [⟨some false, 0, 0, 3, 5, 0⟩]

theorem witness_SpillAndFill : Obligations.SpillAndFill → Next (.fillslot 3 4 5) (k3 32768 0 0) ∧ Next (.spillslot 3 4 5) (k3 0 0 0) ∧ Next (.spillslot 3 4 5) (k3 (15 * 2048 + 1535) 0 0) ∧
    Next (.fillslot 3 4 5) behind ∧ Next (.fillslot 3 4 5) (k3 0 0 0) ∧ Next (.fillslot 3 4 5) (k3 1 0 0) ∧ Next (.spill 1 5) (pooled (waiting .spillReq two) [asking 5]) ∧ Next (.spill 1 5) filling ∧ Next (.spill 1 0) (pooled (waiting .spillReq two) [asking 0]) ∧
    Next (.sleepExpiry 0 0) (waiting (.sleep 0) st) := fun h => by
  have g (x : Word) (w : Tidy (k3 x 0 0)) (i : Issues (k3 x 0 0) (thr kt)) := h false 3 4 5 (k3 x 0 0) (thr kt) w i
  have a := (g 32768 tidy_of issues_of).1 ready_of kd _ (.head _) kd
  have b := ((g 0 tidy_of issues_of).2.1 ready_of dst_of kd).1 (.inr (.inr kd))
  have c := ((g (15 * 2048 + 1535) tidy_of issues_of).2.1 ready_of dst_of kd).2.1 kd
  have c2 := ((h false 3 4 5 behind (thr kt) tidy_of issues_of).2.1 ready_of dst_of kd).2.2.1 kd kd
  have c3 := ((g 0 tidy_of issues_of).2.1 ready_of dst_of kd).2.2.2.1 kd kd
  have d := ((g 1 tidy_of issues_of).2.1 ready_of dst_of kd).2.2.2.2 4 (k3 1 0 0) (thr kt) kd kd follows_of kd
  let s := pooled (waiting .spillReq two) [asking 5]
  have e := ((h false 3 4 5 s (thr s) tidy_of issues_of).2.2.1 1 5 (asking 5) [] (thr s) kd rfl (by decide) kd).2.1 rfl kd
  have e2 := ((h false 3 4 5 filling (thr filling) tidy_of issues_of).2.2.1 1 5 _ [] (thr filling) rfl rfl (by decide) kd).1 false 7 filling (thr filling) rfl kd kd
  let u := pooled (waiting .spillReq two) [asking 0]
  have f := ((h false 3 4 5 u (thr u) tidy_of issues_of).2.2.1 1 0 (asking 0) [] (thr u) kd rfl (by decide) kd).2.2 (thr core1)
    ((writeRecord u 1 0 0 (savedContext u 1 0 (thr core1)) false).getD st) rfl kd kd kd kd kd kd kd (by decide) kd
  have w := (h false 3 4 5 (waiting (.sleep 0) st) (thr (waiting (.sleep 0) st)) tidy_of issues_of).2.2.2 0 0 (thr (waiting (.sleep 0) st)) 0 kd kd kd
  exact ⟨next_of a, first_of b, first_of c, first_of c2, first_of c3, first_of d, first_of e, first_of e2, first_of f, first_of w⟩

/-- Core 1's context saved in record 0, and a kernel thread asking for it back. -/
def spilledOut : State := done (execSpill 1 0 (pooled (waiting .spillReq two) [asking 0])) st
def refilling : State := kput (kput ((spilledOut.modThread 0 0 (fun _ => { thr kt with wp := 0x800 }))) 4 1) 5 0

theorem witness_SpillAndFill_2 : Obligations.SpillAndFill → Next (.fillslot 3 4 5) refilling ∧ Next (.fillslotEnd 3 4 5) refilling ∧
    (fillResult refilling false 1 0 0 false).map Prod.fst = some 0 ∧ (fillResult refilling false 1 0 0 true).map Prod.fst = some 0 := fun h => by
  have a (e : Bool) := ((h e 3 4 5 refilling (thr refilling) tidy_of issues_of).2.1 ready_of dst_of kd).2.2.2.2 0 ((fillResult refilling false 1 0 0 e).getD (0, st)).2 (thr refilling) kd
  exact ⟨first_of (a false kd follows_of kd), first_of (a true kd follows_of kd), by decide +kernel, by decide +kernel⟩

/-- A buffered store to HBM, and a copy whose page is being walked or whose fault stands in the ring. -/
def hbmKey : Nat := Config.directBase + 0x100000
def oneStore (l : List WEntry) : State := st.setCore 0 { st.core 0 with wbuf := .store (st.tid 0 0) hbmKey hbmKey [1, 2] false :: l }
def walking (n : Nat) (va : Word) : State :=
  { copying with eng := { copying.eng with copies := [{ copyOf copying with paused := true }] },
                 xl := { copying.xl with walks := List.replicate n ⟨1, va, false, 0, 0, 0, .copy (copyOf copying).id⟩ } }
def faulting : State := { walking 0 y0 with xl := { copying.xl with recs := [⟨7, 1, 0x10000, [(.copy (copyOf copying).id, 0)]⟩] } }
def ringed (h t : Nat) : State := { st with xl := { st.xl with efhead := h, eftail := t } }

theorem witness_MemoryEvents : Obligations.MemoryEvents → Next (.memoryReply 0 0) (waiting .reply st) ∧ Next (.pinFreeResume 0 0) (waiting .pin st) ∧
    Next (.bufferedWritePerformed 0 0) (oneStore []) ∧ Next (.pageWalk 0) (walking 1 y0) ∧ Next (.pageWalk 63) (walking 64 y0) ∧
    Next (.efrespResolve .comptroller 7) faulting ∧ Next (.efrespUnresolvable (.func 0) 7) faulting ∧
    Next (.efheadWrite .comptroller 4) (ringed 0xFFFFFFFF 4) ∧ Next (.efheadWrite .teller 5) (ringed 0xFFFFFFFF 4) := fun h => by
  have g (s : State) (w : Tidy s) (i : decide (s.thread 0 0 = some (thr s)) = true) := h 0 0 s (thr s) w (of_decide_eq_true i)
  have a := (g (waiting .reply st) tidy_of kd).1 kd kd
  have b := (g (waiting .pin st) tidy_of kd).2.1 kd kd
  have c := (g (oneStore []) tidy_of kd).2.2.1 (st.tid 0 0) hbmKey _ [1, 2] [] kd (show placeOf hbmKey = .hbm 0 by decide +kernel)
  have d (n : Nat) (w : Tidy (walking n y0)) (i : decide ((walking n y0).thread 0 0 = some (thr (walking n y0))) = true) := (g (walking n y0) w i).2.2.2.1
  have d1 := d 1 tidy_of kd 0 (copyOf copying).id _ ⟨1, y0, false, 0, 0, 0, .copy (copyOf copying).id⟩ { copyOf copying with paused := true } kd
    (by decide) rfl (hitsE (d := 0)) kd rfl kd
  have d2 := d 64 tidy_of kd 63 (copyOf copying).id _ ⟨1, y0, false, 0, 0, 0, .copy (copyOf copying).id⟩ { copyOf copying with paused := true } kd
    (by decide) rfl (hitsE (d := 0)) kd rfl kd
  have e (i : Instr) := (g faulting tidy_of kd).2.2.2.2.1 7 (copyOf copying).id 0 ⟨7, 1, 0x10000, [(.copy (copyOf copying).id, 0)]⟩
    { copyOf copying with paused := true } i (by decide) kd rfl kd
  have e1 := (e (.efrespResolve .comptroller 7)).1 ⟨_, ⟨.inl rfl, kd⟩, rfl⟩
  have e2 := (e (.efrespUnresolvable (.func 0) 7)).2 ⟨_, ⟨.inr (.inr rfl), kd⟩, rfl⟩
  have f := (g (ringed 0xFFFFFFFF 4) tidy_of kd).2.2.2.2.2
  have f1 := f .comptroller 4 ⟨.inl rfl, kd⟩ kd
  have f2 := f .teller 5 ⟨.inr (.inl rfl), kd⟩ kd
  exact ⟨first_of a, first_of b, first_of c, first_of d1, first_of d2, first_of2 e1, first_of e2, first_of f1, first_of f2⟩

/-- A creation at the creation port of core 1; a launch with a share of die 0 and one of die 1; a core whose registers may be written. -/
def oneCreation : Creation := { core := 1, entry := 0x400208, regs := [(1, 7), (0, 5)], bsize := 128, acq := none, env := none, origin := .none, cell := none, flit := none }
def ten1 : State := core1.setCore 1 { core1.core 1 with tenant := 1 }
def creating : State := { ten1 with eng := { core1.eng with creations := [oneCreation] } }
/-- A creation that APPLY.A of core 1000 asks of core 1, in a cluster whose router does not admit core 1000's tenant. -/
def unrouted : State := { ten1 with eng := { core1.eng with creations := [{ oneCreation with origin := .applyA (BitVec.ofNat 64 (1000 * 2 ^ 45)) }] } }
def launched (p q : Nat × Nat × Nat) : Launch := ⟨3, 5, none, none, 0, 1, 0x400208, 128, false, (List.range 12).map (fun j => tget fmtReset (core1.core 1).fmt j), 9, none, [p, q], 100, 0, 0, 0⟩
def launching (p q : Nat × Nat × Nat) : State := { ten1 with tr := { ten1.tr with launches := [launched p q], steals := [(3, 0)] } }

theorem witness_CreationEvents : Obligations.CreationEvents → Next (.threadCreation 0) creating ∧ Next (.threadCreation 0) unrouted ∧ Next (.taskPlacement 3 0 1) (launching (0, 0, 4) (1, 4, 8)) ∧
    Next (.dieSteal 3 0) (launching (0, 4, 4) (1, 4, 9)) ∧ Next (.ctenWrite .comptroller 1535 7) st ∧ Next (.covfWrite .comptroller 0 7) st := fun h => by
  have a := (h creating tidy_of).1 0 oneCreation 1 4224 kd rfl rfl rfl (by decide) kd (by decide +kernel) kd kd
  have a2 := (h unrouted tidy_of).2.1 0 { oneCreation with origin := .applyA (BitVec.ofNat 64 (1000 * 2 ^ 45)) } kd kd rfl rfl ⟨_, rfl⟩
  have b := (h (launching (0, 0, 4) (1, 4, 8)) tidy_of).2.2.1 3 0 1 (launched (0, 0, 4) (1, 4, 8)) 0 1 4224 kd rfl (by decide) kd kd kd kd
    kd
  have c := (h (launching (0, 4, 4) (1, 4, 9)) tidy_of).2.2.2.1 3 0 (launched (0, 4, 4) (1, 4, 9)) 4 1 4 9 rfl kd rfl kd kd rfl
  have d := (((h st tidy_of).2.2.2.2 1535 7 (by decide)).1 kd).1
  have e := (((h st tidy_of).2.2.2.2 0 7 (by decide)).2 kd).2
  exact ⟨first_of a, first_of a2, first_of2 b, first_of2 c, first_of d, next_of e⟩

/-- Queue 1015 with some fields; a QCFG word of a log of the ring's size and a bound on started packets. -/
def q0 : Queue := Queue.reset 1015
def queued (x : Queue) : State := { st with tr := { st.tr with queues := [(1015, x)] } }
def qcfg (log live slot : Nat) : Word := BitVec.ofNat 64 (1 + 2 ^ 8 + 2 ^ 16 * log + 2 ^ 40 * live + 2 ^ 48 * slot)
/-- Queue 1015 enabled with a ring of 64 packets, in a state. -/
def qon (state : Nat) : Queue := { q0 with cfg := qcfg 6 64 0, state := state }

theorem witness_QueueStores : Obligations.QueueStores →
    Next (.qdoor .comptroller 1015 64) (queued (qon 1)) ∧ Next (.qdoor .comptroller 1015 65) (queued (qon 1)) ∧ Next (.qdoor .comptroller 1015 0) (queued (qon 5)) ∧
    Next (.qcfgWrite .comptroller 1015 (qcfg 6 64 0)) (queued q0) ∧ Next (.qcfgWrite .comptroller 1015 (qcfg 20 0 0)) (queued { q0 with state := 6 }) ∧
    Next (.qcfgWrite .comptroller 1015 (qcfg 5 64 0)) (queued q0) ∧ Next (.qcfgWrite .comptroller 1015 (qcfg 21 64 0)) (queued q0) ∧
    Next (.qcfgWrite .comptroller 1015 (qcfg 6 65 0)) (queued q0) ∧ Next (.qcfgWrite .comptroller 1015 (qcfg 6 64 63)) (queued q0) ∧
    Next (.qcfgWrite .comptroller 1015 (qcfg 6 64 0 + 12)) (queued (qon 1)) ∧ Next (.qcfgWrite .comptroller 1015 (qcfg 6 64 0 + 12)) (queued (qon 2)) ∧
    Next (.qcfgWrite .comptroller 1015 (qcfg 6 64 0 + 12)) (queued (qon 3)) ∧ Next (.qcfgWrite .comptroller 1015 (qcfg 6 64 0 + 12)) (queued (qon 5)) ∧
    Next (.suspend .comptroller 1015) (queued (qon 2)) ∧ Next (.suspend .comptroller 1015) (queued (qon 1)) ∧ Next (.resume .comptroller 1015) (queued (qon 3)) ∧
    Next (.skip .comptroller 1015) (queued { qon 4 with err := 3 }) ∧ Next (.skip .comptroller 1015) (queued { qon 3 with wasBlocked := true }) ∧ Next (.destroy .comptroller 1015 true) (queued (qon 4)) ∧
    Next (.queueDestruction 1015) (queued (qon 5)) ∧ Next (.wsat .comptroller 1015 8) (queued (qon 1)) ∧ Next (.tevheadWrite .comptroller 0) (queued q0) := fun h => by
  have g (v : Word) (x : Queue) := h 1015 v true (queued x) (by decide) (by rfl)
  have a1 := (g 64 (qon 1)).1.1 kd
  have a2 := (g 65 (qon 1)).1.2 kd
  have a3 := (g 0 (qon 5)).1.2 kd
  have b (v : Word) := (g v q0).2.1
  have b1 := b (qcfg 6 64 0) kd kd
  have b2 := (g (qcfg 20 0 0) { q0 with state := 6 }).2.1 kd kd
  have b3 := b (qcfg 5 64 0) kd kd
  have b4 := b (qcfg 21 64 0) kd kd
  have b5 := b (qcfg 6 65 0) kd kd
  have b6 := b (qcfg 6 64 63) kd kd
  have c0 (n : Nat) := (g (qcfg 6 64 0 + 12) (qon n)).2.2.1
  have c01 := c0 1 kd
  have c02 := c0 2 kd
  have c03 := c0 3 kd
  have c05 := c0 5 kd
  have c1 := (g 0 (qon 2)).2.2.2.1 kd
  have c2 := (g 0 (qon 1)).2.2.2.2.1 kd kd
  have c3 := (g 0 (qon 3)).2.2.2.2.2.1 kd kd
  have c4 := (g 0 { qon 4 with err := 3 }).2.2.2.2.2.2.1 kd kd kd
  have c40 := (g 0 { qon 3 with wasBlocked := true }).2.2.2.2.2.2.2.1 kd kd
  have c5 := (g 0 (qon 4)).2.2.2.2.2.2.2.2.1
  have c6 := (g 0 (qon 5)).2.2.2.2.2.2.2.2.2.1 kd kd kd
  have c7 := (g 8 (qon 1)).2.2.2.2.2.2.2.2.2.2.1 kd
  have c8 := (g 0 q0).2.2.2.2.2.2.2.2.2.2.2
  exact ⟨first_of a1, first_of a2, first_of a3, first_of b1, first_of b2, first_of b3, first_of b4, first_of b5, first_of b6, first_of c01, first_of c02, first_of c03, first_of c05, first_of c1, first_of c2, first_of c3, first_of c4, first_of c40, first_of c5,
    first_of c6, first_of c7, first_of c8⟩

/-- The words of bank Y0 from an offset. -/
def yw (o : Nat) (l : List Word) (s : State) : State := l.zipIdx.foldl (fun s p => s.setW64 (winKey 0 (0x24000 + o + 8 * p.2)) p.1) s
/-- Queue 1015, enabled, its ring of 64 slots at Y0, one slot rung; with a packet read and checked. -/
def ring0 : Queue := { qon 1 with ring := y0, tail := 1 }
def ofPkt (l : List Word) (s : State) : State := { s with tr := { s.tr with queues := [(1015, { ring0 with pkt := l })] } }
def sigAt : Word := y0 + 0x2000
def sigK : Nat := winKey 0 0x26000
def pk (ty : Nat) (l : List Word) : State := ofPkt (BitVec.ofNat 64 ty :: l ++ List.replicate (7 - l.length) 0) (yw 0x2000 [3] st)
/-- A launch record at Y0 + 0x1000 (R322). -/
def launchable : State := yw 0x1000 [0x400208, 128, 0x886, 0x886, 0x886, 0x886, 0x886, 0x886, 0x886, 0x886, 0x886, 0x886, 0x886, 0x886] st

theorem zeros_of {l : List Word} (h : (l.drop 2).all (fun v => v == 0) = true := by decide +kernel) : ∀ j, 2 ≤ j → l.getD j 0 = 0 := by
  intro j hj
  have e : l.getD j 0 = ((l.drop 2)[j - 2]?).getD 0 := by
    rw [List.getElem?_drop, show 2 + (j - 2) = j by omega]
    simp [List.getD]
  rw [e]
  cases c : (l.drop 2)[j - 2]? with
  | none => rfl
  | some v => simpa using List.all_eq_true.mp h v (List.mem_of_getElem? c)

theorem witness_PacketEvents : Obligations.PacketEvents → Next (.packetFetch 1015) (queued ring0) ∧ Next (.packetFetch 1015) (yw 0 [9] (queued ring0)) ∧ Next (.nop 1015) (pk 0 []) ∧
    Next (.config 1015) (pk 8 [1]) ∧ Next (.signal 1015) (pk 4 [sigAt, 5, 0]) ∧ Next (.signal 1015) (pk 4 [sigAt, 5, 1]) ∧ Next (.signal 1015) (pk 4 [sigAt, 5, 2]) ∧
    Next (.timestamp 1015) (pk 7 [sigAt]) ∧ Next (.wait 1015) (pk 5 [sigAt, 3, 0]) ∧ Next (.wait 1015) (pk 5 [sigAt, 4, 0]) ∧ Next (.andbar 1015) (pk 6 [sigAt]) ∧
    Next (.andbar 1015) (pk 6 [sigAt + 8]) := fun h => by
  have g (s : State) (w : Tidy s) := h 1015 s w (by decide)
  have a := (g (queued ring0) tidy_of).1 _ kd kd kd kd (hitsE (d := []))
  have b := (g (yw 0 [9] (queued ring0)) tidy_of).2.1 2 0 _ kd kd kd kd (errs (v := (2, 0, [9, 0, 0, 0, 0, 0, 0, 0])))
  have c := (g (pk 0 []) tidy_of).2.2.1 kd
  have d := (g (pk 8 [1]) tidy_of).2.2.2.1 kd
  have e (o : Word) (w : Tidy (pk 4 [sigAt, 5, o])) := (g (pk 4 [sigAt, 5, o]) w).2.2.2.2.1 sigK
  have e0 := e 0 tidy_of kd kd ⟨is_of, by decide +kernel⟩
  have e1 := e 1 tidy_of kd kd ⟨is_of, by decide +kernel⟩
  have e2 := e 2 tidy_of kd kd ⟨is_of, by decide +kernel⟩
  have f := (g (pk 7 [sigAt]) tidy_of).2.2.2.2.2.1 sigK kd kd ⟨is_of, by decide +kernel⟩
  have i (v : Word) (w : Tidy (pk 5 [sigAt, v, 0])) := (g (pk 5 [sigAt, v, 0]) w).2.2.2.2.2.2.1 sigK
  have i1 := i 3 tidy_of kd kd ⟨is_of, by decide +kernel⟩
  have i2 := i 4 tidy_of kd kd ⟨is_of, by decide +kernel⟩
  have j := (g (pk 6 [sigAt]) tidy_of).2.2.2.2.2.2.2.1 sigK kd kd ⟨is_of, by decide +kernel⟩ kd zeros_of
  have k := (g (pk 6 [sigAt + 8]) tidy_of).2.2.2.2.2.2.2.1 (sigK + 8) kd kd ⟨is_of, by decide +kernel⟩ kd zeros_of
  exact ⟨first_of a, first_of b, first_of c, first_of2 d, first_of e0, first_of e1, first_of e2, first_of f, first_of i1, first_of i2, first_of j, first_of k⟩

def withPkts (l : List Word) (p : List Pkt) (s : State) : State := let u := ofPkt l s; { u with tr := { u.tr with pkts := p } }
def onePkt : Pkt := ⟨8, 1015, 5, sigAt, false, true, []⟩
def ranPkt : Pkt := ⟨8, 1015, 3, sigAt, false, true, [(0, st.tid 0 0)]⟩
def copyPkt : List Word := [259, y0, y0 + 0x1000, BitVec.ofNat 64 (2 ^ 32 + 64)] ++ List.replicate 12 0
def ageing : State := { st with tr := { st.tr with queues := [(1015, { ring0 with readyAt := BitVec.ofNat 64 (2 ^ 64 - 64 * 65536000) })] } }
def slot (q : Nat) (k : Nat) (held : Word) : WaitSlot := ⟨q, k, k, 4, 0, held, false, false, true, none⟩
/-- A slot whose signal only queue `b` can write, since the slot was taken. -/
def stuck (q b : Nat) (k : Nat) (held : Word) : WaitSlot := { slot q k held with needs := some (b, held) }
def crowding : State := { st with tr := { st.tr with slots := List.replicate 256 (slot 1015 sigK 0), fullAt := BitVec.ofNat 64 (2 ^ 64 - 50 * 65536000) } }
/-- Queues 1014 and 1015 of tenant 1, which has no thread, each blocked on a signal that only the other's SIGNAL packet names, for 1 ms. -/
def deadlocked : State :=
  let x (o : Nat) : Queue := { qon 2 with ring := y0 + BitVec.ofNat 64 o, tail := 1, wasBlocked := true }
  let old : Word := 0 - wordOf (us 1000)
  { yw 0 [4, sigAt] (yw 0x1000 [4, sigAt + 8] st) with
    slots := [], tr := { st.tr with queues := [(1014, x 0x1000), (1015, x 0)], slots := [stuck 1015 1014 (sigK + 8) old, stuck 1014 1015 sigK old] } }

theorem witness_PacketEvents_2 : Obligations.PacketEvents → Next (.launchPacket 1015) (ofPkt [1, y0 + 0x1000, 4, 9, 0, 0, 0, 0] launchable) ∧
    Next (.applyPacket 1015) (ofPkt [2, sigAt, 0, 0, 0, 0, 0, 0] (yw 0x2000 [kh] kst)) ∧ Next (.copyPacket 1015) (ofPkt copyPkt st) ∧
    Next (.packetCompletion 8) (withPkts [] [onePkt] st) ∧ Next (.packetCompletion 8) (withPkts [] [ranPkt] st) ∧ Next (.queueAgeing 1015) ageing ∧ Next .waitSlotSpill crowding ∧ Next (.deadlockReport [1015, 1014]) deadlocked := fun h => by
  have g (s : State) (w : Tidy s) := (h 1015 s w (by decide)).2.2.2.2.2.2.2.2
  have a := (g (ofPkt [1, y0 + 0x1000, 4, 9, 0, 0, 0, 0] launchable) tidy_of).1 _ kd (hitsE (d := []))
  have b := (g (ofPkt [2, sigAt, 0, 0, 0, 0, 0, 0] (yw 0x2000 [kh] kst)) tidy_of).2.1 sigK 0 kd ⟨is_of, by decide +kernel⟩ is_of
  have c := (g (ofPkt copyPkt st) tidy_of).2.2.1 _ kd (hitsE (d := sidesOf st 1 cset1))
  have d := (g (withPkts [] [onePkt] st) tidy_of).2.2.2.1 onePkt sigK kd rfl rfl kd rfl kd kd kd is_of
  have d2 := (g (withPkts [] [ranPkt] st) tidy_of).2.2.2.1 ranPkt sigK kd rfl rfl kd rfl kd kd kd is_of
  have e := (g ageing tidy_of).2.2.2.2.1 kd kd kd
  have f := (g crowding tidy_of).2.2.2.2.2.1 kd kd
  have j := (g deadlocked tidy_of).2.2.2.2.2.2 1014 (stuck 1015 1014 (sigK + 8) (0 - wordOf (us 1000))) (stuck 1014 1015 sigK (0 - wordOf (us 1000))) (by decide) kd kd
    kd kd empty_of kd kd kd rfl rfl
  exact ⟨first_of3 a, first_of3 b, first_of3 c, first_of d, first_of d2, first_of e, first_of f, first_of j⟩

/-- Requests of module 3 for tenant 1, whose slot lets modules 0 to 1023 in; the module's first link. -/
def linked (l : List LinkReq) : State :=
  { st with xl := { st.xl with tentab := tins st.xl.tentab 6 (BitVec.ofNat 64 (1023 * 2 ^ 16)) }, fab := { st.fab with inbound := l } }
def asks (k : LinkKind) (pa r : Nat) : LinkReq := ⟨0, 3, st.modid, 0, 1, pa, k, [7, 8], r⟩
def stranger : LinkReq := ⟨0, 3, st.modid, 0, 9, 0, .write, [7, 8], 32⟩
/-- A migration flit of module 3 for core 1, whose cluster's router admits the tenant. -/
def crossing : Creation := { oneCreation with flit := some flown }
def admitting (s : State) : State := { s with clus := tins s.clus 0 { s.clu 0 with rmemb := 1 } }
def passing : LinkReq := ⟨0, 3, st.modid + 1, 0, 9, 0, .write, [7, 8], 0⟩
def carried (l : List LinkReq) : State := { linked l with fab := { (linked l).fab with seqIn := [(0, 1)] } }
/-- The compressed store enabled, with room for one chunk of the eight. -/
def packing (total : Nat) : State := { st with fab := { st.fab with ccsctl := BitVec.ofNat 64 (2 ^ 63 + total) } }

theorem witness_FabricEvents : Obligations.FabricEvents → Next (.patrolScrub 0) st ∧ Next (.repair .comptroller 11) st ∧ Next (.rtrn .teller 16) st ∧ Next (.retrainHoldEnd 70) st ∧
    Next (.eyeMarginLow 63 0 0 0) st ∧ Next (.ccsctlWrite .comptroller 0) st ∧ Next (.ccsctlWrite (.func 0) 0x8000000000000000) st ∧
    Next (.ccsWindowWrite .comptroller 262143 (List.replicate 4096 0) 8) (packing 1) ∧ Next (.ccsWindowWrite .comptroller 0 (List.replicate 4096 0) 8) (packing 0) ∧
    Next (.ccsWindowWrite .comptroller 0 [] 1) st ∧ Next (.flitReceive 0 true) (carried [stranger]) ∧ Next (.flitReceive 0 true) (linked [{ stranger with seq := 1 }]) ∧
    Next (.flitReceive 0 true) (linked [passing]) ∧ Next (.flitReceive 0 false) (linked [asks .write 0 31]) ∧ Next (.flitReceive 0 true) (linked [stranger]) ∧
    Next (.flitReceive 0 true) (admitting (linked [asks (.migrate crossing) 0 0])) ∧ Next (.flitReceive 0 true) (linked [asks .write hbmKey 0]) ∧ Next (.flitReceive 0 true) (linked [asks (.read 2) hbmKey 0]) ∧
    Next (.linkFailure 3 true) st ∧ Next (.linkFailure 3 false) st ∧ Next (.timeMessageSend 47) st ∧ Next (.cxlLinkDown 3) st := fun h => by
  have g (s : State) (w : Tidy s) (x : twf Eye.reset s.fab.eyes = true) (y : twf false s.fab.cxlDown = true) := h s w x y
  have b := (g st tidy_of kd kd)
  have c := b.2.1
  have d := b.2.2.1
  have e (n : Nat) (w : Tidy (packing n)) := (g (packing n) w (by rfl) (by rfl)).2.2.2.1
  have e1 := e 1 tidy_of 262143 (List.replicate 4096 0) 8 (by decide) (by decide) |>.1 kd kd (by decide) kd
  have e2 := e 0 tidy_of 0 (List.replicate 4096 0) 8 (by decide) (by decide) |>.2 (.inr kd)
  have e3 := (g st tidy_of kd kd).2.2.2.1 0 [] 1 (by decide) (by decide) |>.2 (.inl kd)
  have k1 := (g (carried [stranger]) tidy_of kd kd).2.2.2.2.1 0 stranger true rfl kd
  have k2 := (g (linked [{ stranger with seq := 1 }]) tidy_of kd kd).2.2.2.2.2.1 0 _ true rfl kd
  have f (r : LinkReq) (w : Tidy (linked [r])) := (g (linked [r]) w (by rfl) (by rfl)).2.2.2.2.2.2.1 0 r rfl
  have f0 := (f passing tidy_of kd).1 kd
  have f1 := (f (asks .write 0 31) tidy_of kd).2.1 (by decide)
  have f2 := (f stranger tidy_of kd).2.2.1 8 rfl is_of
  have fm := ((g (admitting (linked [asks (.migrate crossing) 0 0])) tidy_of kd kd).2.2.2.2.2.2.1 0 _ rfl kd).2.2.2.1 (directOf 0) crossing kd is_of kd
  have f3 := (f (asks .write hbmKey 0) tidy_of kd).2.2.2.2.1 hbmKey 0 rfl is_of kd rfl
  have f4 := (f (asks (.read 2) hbmKey 0) tidy_of kd).2.2.2.2.2 hbmKey 0 2 rfl is_of kd rfl kd
  have i := b.2.2.2.2.2.2.2.1 3
  exact ⟨first_of (b.1 0), first_of (c .comptroller 11 ⟨.inl rfl, kd⟩ (by decide) (by decide)).1, first_of (c .teller 16 ⟨.inr (.inl rfl), kd⟩ (by decide) (by decide)).2.1,
    first_of (c .comptroller 70 ⟨.inl rfl, kd⟩ (by decide) (by decide)).2.2.1, first_of ((c .comptroller 63 ⟨.inl rfl, kd⟩ (by decide) (by decide)).2.2.2 0 0 0),
    first_of (d .comptroller 0 ⟨.inl rfl, kd⟩), first_of (d (.func 0) 0x8000000000000000 ⟨.inr (.inr rfl), kd⟩), first_of e1, next_of e2, next_of e3, first_of k1, next_of k2, first_of f0, first_of f1, first_of f2, first_of fm, first_of f3, first_of f4,
    first_of i.1, first_of i.2, first_of (b.2.2.2.2.2.2.2.2.1 47 (by decide)), first_of (b.2.2.2.2.2.2.2.2.2 3 (by decide))⟩

def timed (f : TimeSt → TimeSt) (s : State) : State := { s with tm := f s.tm }
/-- The high word of a time-of-day message whose low word is 0 and whose other bits are `n`, with its CRC (R353). -/
def sealed (n : Nat) : Word := BitVec.ofNat 64 (Config.todCrc (2 ^ 64 * n) % 2 ^ 16 * 2 ^ 48 + n)

theorem sealed_crc (n : Nat) (h : n < 2 ^ 48) : Config.todCrc ((0 : Word).toNat + 2 ^ 64 * ((sealed n).toNat % 2 ^ 48)) % 2 ^ 16 = (sealed n).toNat / 2 ^ 48 := by
  have c : Config.todCrc (2 ^ 64 * n) % 2 ^ 16 < 2 ^ 16 := Nat.mod_lt _ (by decide)
  have e : (sealed n).toNat = Config.todCrc (2 ^ 64 * n) % 2 ^ 16 * 2 ^ 48 + n := by
    rw [sealed, BitVec.toNat_ofNat]
    omega
  have f : (sealed n).toNat % 2 ^ 48 = n := by omega
  rw [f, show (0 : Word).toNat + 2 ^ 64 * n = 2 ^ 64 * n by simp]
  omega

/-- Whether port 47 leads to the nearest grandmaster no rule says: one of the two clauses of a message holds of it, and both are used here. -/
theorem witness_TimeEvents : Obligations.TimeEvents → Next .ppsEdge st ∧ Next (.todMessage 0 (sealed 0)) st ∧ Next (.todMessage 0 (sealed 0)) (timed (fun x => { x with edgeAt := some 0 }) st) ∧ Next (.todMessage 0 (sealed 5)) (timed (fun x => { x with edgeAt := some 0, tlatch := 0x4000000000000000 }) st) ∧
    Next (.todMessage 0 (sealed 5)) (timed (fun x => { x with edgeAt := some 0, tlatch := 0xC000000000000000 }) st) ∧ Next (.timeMessageReceive 47 9 3) st ∧
    Next .timeSourceLoss (timed (fun x => { x with src := 1 }) st) ∧
    Next .timeSourceLoss { timed (fun x => { x with src := 1, edgeAt := some 0 }) st with real := 3 * (1000000000 * 65536) } ∧ Next .timeSourceLoss (timed (fun x => { x with src := 2, lastAt := BitVec.ofNat 64 (2 ^ 64 - 3 * (1000000000 * 65536)) }) st) ∧
    Next .holdoverLockExpiry (timed (fun x => { x with hold := true, holdAt := BitVec.ofNat 64 (2 ^ 64 - 10 * (1000000000 * 65536)) }) st) ∧ Next .timeWrap st ∧
    Next (.tstep .comptroller 5) st ∧ Next (.tstep .comptroller 5) (timed (fun x => { x with everLock := true }) st) ∧ Next (.tstep .teller 5) st := fun h => by
  let edged := timed (fun x => { x with edgeAt := some 0 }) st
  let big := timed (fun x => { x with edgeAt := some 0, tlatch := 0x4000000000000000 }) st
  let low := timed (fun x => { x with edgeAt := some 0, tlatch := 0xC000000000000000 }) st
  let quiet := timed (fun x => { x with src := 2, lastAt := BitVec.ofNat 64 (2 ^ 64 - 3 * (1000000000 * 65536)) }) st
  let held := timed (fun x => { x with hold := true, holdAt := BitVec.ofNat 64 (2 ^ 64 - 10 * (1000000000 * 65536)) }) st
  have a := h st 9 3 47 tidy_of
  have b0 := (h st 0 (sealed 0) 0 tidy_of).2.1 (sealed_crc 0 (by decide)) kd
  have b (n : Nat) (m : n < 2 ^ 48) (s : State) (w : Tidy s) := (h s 0 (sealed n) 0 w).2.2.1 0 (sealed_crc n m)
  let edge : State := { timed (fun x => { x with src := 1, edgeAt := some 0 }) st with real := 3 * (1000000000 * 65536) }
  have c1 := (h (timed (fun x => { x with src := 1 }) st) 0 0 0 tidy_of).2.2.2.2.2.1 rfl kd (.inl rfl)
  have c2 := (h edge 0 0 0 tidy_of).2.2.2.2.2.1 rfl kd (.inr ⟨0, rfl, by decide⟩)
  have c := (h quiet 0 0 0 tidy_of).2.2.2.2.2.2.1 kd kd kd
  have d := (h held 0 0 0 tidy_of).2.2.2.2.2.2.2.1 kd kd
  have e (s : State) (w : Tidy s) := (h s 5 0 0 w).2.2.2.2.2.2.2.2.2.2
  have r : Next (.timeMessageReceive 47 9 3) st := by
    cases q : nearestPort 47 with
    | false => exact next_of (a.2.2.2.1 (by decide) q)
    | true => exact first_of (a.2.2.2.2.1 kd (by decide) q)
  exact ⟨first_of a.1, first_of b0, first_of (b 0 (by decide) edged tidy_of rfl kd), first_of (b 5 (by decide) big tidy_of rfl kd), first_of (b 5 (by decide) low tidy_of rfl kd), r,
    first_of c1, first_of c2,
    first_of c, first_of d, first_of a.2.2.2.2.2.2.2.2.1, first_of (e st tidy_of).1, first_of (e (timed (fun x => { x with everLock := true }) st) tidy_of).1,
    next_of ((e st tidy_of).2 .teller (by decide))⟩

/-- Cluster 3's trace ring with a record staged; a snapshot that has latched. -/
def staged (head tail : Nat) : State :=
  st.setClu 3 { st.clu 3 with staging := [⟨1, 2, 3, 4⟩], arbase := BitVec.ofNat 64 (Config.directBase + 12), arhead := head, artail := tail }
def frozen (m : Nat) : State := { st with snap := { st.snap with frozen := true, miss := m } }

theorem witness_AssayEvents : Obligations.AssayEvents → Next (.actlWrite 95 1) st ∧ Next (.arheadWrite 0 4) (st.setClu 0 { st.clu 0 with artail := 4 }) ∧ Next (.arheadWrite 0 5) (st.setClu 0 { st.clu 0 with artail := 4 }) ∧
    Next (.traceRecordWrite 3) (staged 0 4095) ∧ Next (.snapshotTrigger 2 5 0) st ∧ Next (.snapshotTrigger 2 5 0) (frozen 65535) ∧ Next .snapin (frozen 65534) ∧ Next (.fire (.func 0)) st ∧
    Next (.arm .teller) (frozen 3) := fun h => by
  have g (s : State) (c : Nat) (v : Word) (w : Tidy s) (i : c < Config.nClusters) := h s c v w i
  have x : Tidy (st.setClu 0 { st.clu 0 with artail := 4 }) := tidy_of
  have a := (g (staged 0 4095) 3 0 tidy_of (by decide)).2.2.1 ⟨1, 2, 3, 4⟩ [] kd kd
  have b (s : State) (w : Tidy s) := (g s 0 0 w (by decide)).2.2.2
  exact ⟨first_of (g st 95 1 tidy_of (by decide)).1, first_of (g _ 0 4 x (by decide)).2.1, first_of (g _ 0 5 x (by decide)).2.1, first_of a, first_of ((b st tidy_of).1 2 5 0),
    first_of ((b (frozen 65535) tidy_of).1 2 5 0), first_of (b (frozen 65534) tidy_of).2.1, first_of ((b st tidy_of).2.2 (.func 0) ⟨.inr (.inr rfl), kd⟩).1,
    first_of ((b (frozen 3) tidy_of).2.2 .teller ⟨.inr (.inl rfl), kd⟩).2⟩

/-- The security block's registers set. -/
def secured (f : SecSt → SecSt) (s : State) : State := { s with sec := f s.sec }
def spdm (v c a : Bool) (n : Nat) : State := secured (fun x => { x with spdm := ⟨v, c, a, n, none⟩ }) st
/-- A handover structure of 64 bytes at the start of HBM: its LEN and the digest of no bytes (R364, R370). -/
def handed : State :=
  let k := Config.directBase
  let s := secured (fun x => { x with state := 2, goodA := true, swAddr := k }) st
  { s with mem := setBytes (setBytes s.mem (k + 8) [64]) (k + 16) (Sm3.digest []) }
def started (v : Word) : State := secured (fun x => { x with state := 3, startTime := v - BitVec.ofNat 64 (20000 * 65536000) }) st

theorem witness_SecurityBlock : Obligations.SecurityBlock → Next .getVersion st ∧ Next .getCapabilities (spdm true false false 0) ∧ Next (.negotiateAlgorithms 1 1 1) (spdm true true false 0) ∧
    Next (.negotiateAlgorithms 1 2 1) st ∧ Next .getDigests (spdm true true true 0) ∧ Next (.keyExchange 5) (spdm true true true 0) ∧ Next .getDigests st ∧ Next (.finish 5) (spdm true true true 1) ∧
    Next .endSession (spdm true true true 2) := fun h => by
  have g (s : State) (w : Tidy s) := h s 0 w
  have a := g st tidy_of
  have b := (g (spdm true true true 0) tidy_of).2.2.2.2.1 rfl
  have c := a.2.2.2.2.2.1 rfl
  exact ⟨next_of a.1, next_of ((g (spdm true false false 0) tidy_of).2.1 rfl), next_of ((g (spdm true true false 0) tidy_of).2.2.1 rfl), next_of (a.2.2.2.1 1 2 1 (by decide)),
    next_of b.1, next_of (b.2.2.2.2.2 5 rfl), next_of (c 0 0).1, next_of ((g (spdm true true true 1) tidy_of).2.2.2.2.2.2.1 5 rfl), next_of ((g (spdm true true true 2) tidy_of).2.2.2.2.2.2.2.1 rfl)⟩

theorem witness_SecurityBlock_2 : Obligations.SecurityBlock → Next (.fwverify .comptroller 3) st ∧ Next (.fwswitch .comptroller 3) (secured (fun x => { x with state := 4 }) st) ∧ Next (.fwhb .teller 3) st ∧
    Next .fwverifyDone (secured (fun x => { x with state := 1, vslot := 1 }) st) ∧ Next (.fwdig .comptroller 64) (secured (fun x => { x with fwdigl := 65536 }) st) ∧
    Next (.fwdig .comptroller 64) (secured (fun x => { x with fwdigl := 65600 }) st) ∧ Next .fwdigDone (secured (fun x => { x with digBusy := true }) st) ∧
    Next .fwswitchDone (secured (fun x => { x with state := 2 }) st) ∧ Next .fwswitchDone handed ∧ Next (.fwhb .comptroller 0) (started 1) ∧ Next (.fwhb .comptroller 0) (started 0) ∧ Next .fwRollback (started 0) := fun h => by
  have g (s : State) (v : Word) (w : Tidy s) := (h s v w).2.2.2.2.2.2.2.2
  let s4 := secured (fun x => { x with state := 4 }) st
  let s1 := secured (fun x => { x with state := 1, vslot := 1 }) st
  let d1 := secured (fun x => { x with fwdigl := 65536 }) st
  let d2 := secured (fun x => { x with fwdigl := 65600 }) st
  let d3 := secured (fun x => { x with digBusy := true }) st
  let s2 := secured (fun x => { x with state := 2 }) st
  have a := (g st 3 tidy_of).1 (.inl rfl)
  have b := (g s4 3 tidy_of).1 (.inr rfl)
  have c := (g st 3 tidy_of).2.1 .teller (by decide)
  have d := (g s1 0 tidy_of).2.2.1 rfl
  have e := (g d1 64 tidy_of).2.2.2.1 rfl
  have e2 := (g d2 64 tidy_of).2.2.2.1 rfl
  have f := (g d3 64 tidy_of).2.2.2.2.1 rfl kd kd
  have i := (g s2 64 tidy_of).2.2.2.2.2.1 rfl kd
  have j := (g handed 64 tidy_of).2.2.2.2.2.2.1 rfl kd kd
  have k (v : Word) (w : Tidy (started v)) := (g (started v) 0 w).2.2.2.2.2.2.2.1 rfl
  exact ⟨next_of a.1, next_of b.2, next_of c.2.2.1, first_of d, next_of (e.1 kd), next_of (e2.2 kd), next_of f, next_of i, first_of j,
    first_of ((k 1 tidy_of).1 kd), next_of ((k 0 tidy_of).2.1 kd), first_of ((k 0 tidy_of).2.2 kd)⟩

/-- Boot flash with the header of an image of no body at some offsets, each with a digest (R361). -/
def flashed (d : List Byte) (l : List Nat) : State :=
  secured (fun x => { x with bootFlash := l.flatMap (fun o => [(o, 0x46), (o + 1, 0x58), (o + 2, 0x39), (o + 3, 0x4D), (o + 4, 1)] ++ d.zipIdx.map (fun p => (o + 0x80 + p.2, p.1))) }) st
/-- The digest of a header whose other bytes are 0. -/
def digest0 : List Byte := [254, 1, 125, 49, 174, 202, 143, 207, 123, 127, 151, 19, 109, 121, 154, 157, 92, 32, 201, 248, 123, 29, 146, 113, 151, 193, 71, 234, 90, 97, 40, 151]
def head0 : List Byte := [0x46, 0x58, 0x39, 0x4D, 1] ++ List.replicate 123 0

theorem digest0_is : sm3Nat (head0 ++ List.replicate 32 0 ++ List.replicate 32 0 ++ []) = leNat digest0 := by decide +kernel

/-- What the fused values must be for the image of no body to be good. -/
def Lets : Prop := Config.fusedKeyDigest 0 = sm3Nat (List.replicate 64 0) ∧ Config.sm2Verify 0 (leNat digest0) 0 = true ∧ Config.fusedSvn () = 0

theorem good_of {s : State} {o size : Nat} (k : Lets) (a : headerOk s o size = true := by decide +kernel) (b : flashNat s (o + 0x28) 4 = 0 := by decide +kernel)
    (c : flashBytes s (o + 0x40) 64 = List.replicate 64 0 := by decide +kernel) (d : flashBytes s o 0x80 = head0 := by decide +kernel)
    (e : flashBytes s (o + 0xA0) 32 = List.replicate 32 0 := by decide +kernel) (l : imgLen s o = 0 := by decide +kernel) (f : flashNat s (o + 0x80) 32 = leNat digest0 := by decide +kernel)
    (i : flashNat s (o + 0xC0) 64 = 0 := by decide +kernel) : verifyImg s o size = 1 := by
  have g : imgDigest s o = leNat digest0 := by
    rw [imgDigest, d, e, l]
    exact digest0_is
  have z : leNat (List.replicate 64 0#8) = 0 := by decide +kernel
  simp [-List.reduceReplicate, verifyImg, a, b, c, z, f, g, i, k.1, k.2.1, k.2.2]

theorem bad_of {s : State} {o size : Nat} (x : headerOk s o size = false := by decide +kernel) : verifyImg s o size ≠ 1 := by simp [verifyImg, x]

def Boots (s : State) : Prop := verifyImg s 0 0x400000 = 1 → (verifySlot s 0 = 1 → Next (.powerOn none) s) ∧ (verifySlot s 0 ≠ 1 → verifySlot s 1 = 1 → Next (.powerOn none) s) ∧
  (verifySlot s 0 ≠ 1 → verifySlot s 1 ≠ 1 → Next (.powerOn none) s) ∧ Next (.powerOn (some 11)) s

theorem boots (h : Obligations.SecurityBlock) (s : State) (w : Tidy s) (e : s.sec.fwsel = 0) : Boots s := fun v => by
  have g := (h s 0 w).2.2.2.2.2.2.2.2.2.2.2.2.2.2.2.2 v
  simp only [e] at g
  exact ⟨fun a => first_of (g.1 a), fun a b => first_of (g.2.1 a b), fun a b => first_of (g.2.2.1 a b), first_of (g.2.2.2 11 (by decide))⟩

theorem good0 (k : Lets) : verifyImg (flashed digest0 [0]) 0 0x400000 = 1 := good_of k
theorem goodA (k : Lets) : verifyImg (flashed digest0 [0, slotAt 0]) 0 0x400000 = 1 := good_of k
theorem goodB (k : Lets) : verifyImg (flashed digest0 [0, slotAt 1]) 0 0x400000 = 1 := good_of k
theorem goodA2 (k : Lets) : verifyImg (flashed digest0 [0, slotAt 0]) (slotAt 0) 0x1000000 = 1 := good_of k
theorem goodB2 (k : Lets) : verifyImg (flashed digest0 [0, slotAt 1]) (slotAt 1) 0x1000000 = 1 := good_of k

/-- Where the fused values let the image of no body in, a start takes the slot of FWSEL, or the other, or none. -/
theorem witness_SecurityBlock_3 : Obligations.SecurityBlock → Lets → Next (.powerOn none) (flashed digest0 [0, slotAt 0]) ∧ Next (.powerOn none) (flashed digest0 [0, slotAt 1]) ∧
    Next (.powerOn none) (flashed digest0 [0]) ∧ Next (.powerOn (some 11)) (flashed digest0 [0]) := fun h k =>
  ⟨(boots h _ tidy_of kd (goodA k)).1 (goodA2 k), (boots h _ tidy_of kd (goodB k)).2.1 bad_of (goodB2 k),
    (boots h _ tidy_of kd (good0 k)).2.2.1 bad_of bad_of, (boots h _ tidy_of kd (good0 k)).2.2.2⟩

def powered (f : PwrSt → PwrSt) (s : State) : State := { s with pwr := f s.pwr }
/-- An island with a throttle, 10 ms after the start. -/
def island (n thr : Nat) : State := { powered (fun x => { x with isl := tins x.isl n { Isl.reset n with thr := thr } }) st with real := 10000000 * 65536 }

/-- A held write of the function. -/
def bar2Full : State := { st with fab := { st.fab with bar2Held := [(64, 0, [5])] } }

theorem fails_of {ε α : Type} {r : Except ε α} (h : fineE r = false := by decide +kernel) : ∃ e, r = .error e := by
  cases r with
  | ok _ => cases h
  | error e => exact ⟨e, rfl⟩

theorem witness_IslandsAndHost : Obligations.IslandsAndHost → Next (.islWrite .comptroller 23 0x1F40230) st ∧ Next (.islWrite .comptroller 0 0x1F402FD) st ∧ Next (.islandChangeHoldEnd 23) st ∧
    (∀ tj ∈ [115, 114, 110, 109, 100, 99, 98, 97], Next (.thermalThrottle 0 tj) (island 0 1)) ∧ Next (.throttleStep 0) (island 0 1) ∧ Next (.throttleStep 0) st ∧ Next (.powerLimitWindow 2401) st ∧
    Next (.powerLimitWindow 2401) (island 0 3) ∧ Next (.powerLimitWindow 2400) (island 0 2) ∧ Next (.registerWrite .teller 0x018000170000 8 5000) st ∧
    Next (.registerWrite (.func 1) 0x018000100000 8 1) st ∧ Next (.registerWrite (.func 1) 0x018000140200 8 1) st ∧ Next (.hostBar2Write 64 8 [1]) (paged st) ∧ Next (.hostBar2Write 64 0 [1, 2]) st ∧
    Next (.hostBar2Write 64 8 [1]) bar2Full ∧ Next (.hostBar2Write 64 0x1000000000 [1]) st := fun h => by
  have g (s : State) (n : Nat) (v : Word) (w : Tidy s) (x : decide ((s.pwr.isl.map Prod.fst).Pairwise (· < ·)) = true) := h s n v w (of_decide_eq_true x)
  have a (n : Nat) (m : n < 24) := (g st n 0 tidy_of kd).1 m
  have a1 := (g st 23 0x1F40230 tidy_of kd).1 (by decide)
  have a2 := (g st 0 0x1F402FD tidy_of kd).1 (by decide)
  have b := (g (island 0 1) 0 0 tidy_of kd).1 (by decide)
  have c (s : State) (v : Word) (w : Tidy s) (x : decide ((s.pwr.isl.map Prod.fst).Pairwise (· < ·)) = true) := (g s 0 v w x).2
  have d := c st 5000 tidy_of kd
  have e := (c (paged st) 0 tidy_of kd).2.2.2.2.2 64 (by simp [show (paged st).fab.bar2Held = [] from kd])
  have e1 := (c bar2Full 0 tidy_of kd).2.2.2.2.1 64 8 [1] ⟨_, .head _, rfl⟩
  have e2 := d.2.2.2.2.2 64 (by simp [show st.fab.bar2Held = [] from kd])
  have ⟨z, f⟩ := fails_of (r := resolvePieces (resolveOut st (tget 0 st.tr.fnten 64) .write) (pieceFuel 2) 0 2)
  exact ⟨first_of2 (a1.1 .comptroller ⟨.inl rfl, kd⟩), first_of2 (a2.1 .comptroller ⟨.inl rfl, kd⟩), first_of a1.2.1, fun tj _ => first_of2 (b.2.2.1 tj), first_of (b.2.2.2.1 kd kd), next_of (a2.2.2.2.2 kd),
    next_of (d.1 2401 kd), first_of ((c (island 0 3) 0 tidy_of kd).2.1 2401 kd), first_of ((c (island 0 2) 0 tidy_of kd).2.1 2400 kd), first_of (d.2.2.1 .teller ⟨.inr (.inl rfl), kd⟩),
    next_of ((c st 1 tidy_of kd).2.2.2.1 (.func 1) 0x018000100000 8 0x100000 (by decide) kd (by decide) (by decide) (.inl (by decide))),
    next_of ((c st 1 tidy_of kd).2.2.2.1 (.func 1) 0x018000140200 8 0x140200 (by decide) kd (by decide) (by decide) (.inr (by decide))),
    first_of (e.1 8 (hbmKey + 8) 0 1 (by decide) kd (by decide) is_of kd), next_of (e2.2.1 0 [1, 2] z f), next_of e1, next_of (e2.2.2 0x1000000000 [1] (by decide))⟩

theorem witness_DecodeEncode : Obligations.DecodeEncode → decode ⟨true, false, true⟩ 0xFFFFF00000630005 = .ok (.addi 3 3 (.i23 (-8))) 8 := fun h =>
  (h (.addi 3 3 (.i23 (-8))) 0xFFFFF00000630005 kd kd).1

/-- The issuing thread at a word of ADD W8, W4, W12, by the surroundings' order and by the machine's own. -/
def loaded : State := st.withFetchWord 64 0x30880001
def ownOrder : State := { loaded with agenda := [], now := 1 }
def lead (s : State) : State := beginStep { s with agenda := [] } (if s.agenda = [] then Config.issueTime else 0)
def at0 (s : State) : State := (fetchPlace (enterIssue (lead s) 0 0) 0 0 false 0xFF00000000008000).2

/-- The issuing thread of a turn. -/
def issuing (s : State) : Thread := { thr st with wait := .none, nextCk := s.ckOf 0 + 8, evCk := s.ckOf 0, evPlace := 1 }

theorem turn_of {o : Own} {c sl : Nat} (h : (match o with | .issue a b => a == c && b == sl | _ => false) = true := by decide +kernel) : o = .issue c sl := by
  cases o <;> simp_all

theorem witness_StepRunsDecoded : Obligations.StepRunsDecoded → (∃ s : State, s.cur = ⟨0, 0, none⟩ ∧ Issues s (issuing (lead loaded))) ∧
    ∃ s : State, s.cur = ⟨0, 0, none⟩ ∧ Issues s (issuing (lead ownOrder)) := fun h => by
  have a := h loaded (lead loaded) (at0 loaded) (thr st) 0 0 (winKey 0 0x8000) 8 (.add 8 4 12) kd (.inl ⟨0, [], by decide +kernel, by decide +kernel⟩) kd
    kd kd kd read_of kd kd kd kd kd
  have b := h ownOrder (lead ownOrder) (at0 ownOrder) (thr st) 0 0 (winKey 0 0x8000) 8 (.add 8 4 12) kd (.inr ⟨by decide +kernel, by decide +kernel, turn_of⟩) kd
    kd kd kd read_of kd kd kd kd kd
  exact ⟨⟨_, a.2.1, a.2.2.1⟩, _, b.2.1, b.2.2.1⟩

theorem witness_TidyKept : Obligations.TidyKept → ∃ s, step loaded = .next s ∧ Tidy s := fun h => by
  have e : (match step loaded with | .next _ => true | _ => false) = true := by decide +kernel
  cases f : step loaded with
  | next s => exact ⟨s, rfl, h loaded s tidy_of f⟩
  | fault _ => simp [f] at e
  | refused _ => simp [f] at e

def atPc (v : Word) (s : State) : State := thread (fun t => { t with pc := v }) s
def turn (s : State) : State := { s with agenda := [⟨0, .issue 0 0⟩] }
def misplaced : State := turn (atPc 0xFF00000000008002 st)
def blank : State := turn (atPc 0xFF00000000008100 st)
def straddling : State := turn (atPc 0xFF0000000000801C (st.setW64 (winKey 0 0x8018) 0x3088000130880001))
/-- The issuing thread at a page of module 5, which rejects tenant 1. -/
def turnedAway : State :=
  let s := turn (atPc 0x20000 (phys 0x4010 (BitVec.ofNat 64 (2 ^ 55 + 5 * 2 ^ 45 + 0x100000 + 0x3F)) (paged st)))
  { s with xl := { s.xl with tentab := tins s.xl.tentab 6 (BitVec.ofNat 64 (1023 * 2 ^ 16)) }, fab := { s.fab with refusing := [⟨5, 1, 0, 2 ^ 45, 8⟩] } }
def privilegedWord : State := turn (st.setW64 (winKey 0 0x8000) 0x00000600000403FD)

theorem fails_at {ε α : Type} [DecidableEq ε] {p : Except ε α × State} {v : ε}
    (h : (match p.1 with | .error b => decide (b = v) | .ok _ => false) = true := by decide +kernel) : p = (.error v, p.2) := by
  obtain ⟨x, y⟩ := p
  cases x with
  | ok _ => cases h
  | error e => simp at h; rw [h]

theorem witness_StepStopsBadWords : Obligations.StepStopsBadWords → ((∃ u, step misplaced = .next u) ∧ (∃ u, step turnedAway = .next u) ∧ (∃ u, step blank = .next u) ∧ (∃ u, step straddling = .next u) ∧
    ∃ u, step privilegedWord = .next u) ∧ ∀ w ∈ [0x2FD, 0x4FD, 0x8FD, 0xBFD, 0x03FD + 15 * 2 ^ 41, 0x03FD + 28 * 2 ^ 41], decode ⟨false, true, false⟩ w = .bad 5 0 := fun h => by
  have a := (h.1 misplaced _ _ (thr misplaced) 0 0 0 [] kd kd rfl kd kd kd kd).1 0x05 0xFF00000000008002 fails_at
  have b := (h.1 blank _ _ (thr blank) 0 0 0 [] kd kd rfl kd kd kd kd).2.2 (winKey 0 0x8100) read_of kd
  have a2 := (h.1 turnedAway _ _ (thr turnedAway) 0 0 0 [] kd kd rfl kd kd kd kd).2.1 (2 ^ 55 + 5 * 2 ^ 45 + directOf 0x100000) read_of kd
  have c := (h.1 straddling _ _ (thr straddling) 0 0 0 [] kd kd rfl kd kd kd kd).2.2 (winKey 0 0x801C) read_of kd
  have d := (h.1 privilegedWord _ _ (thr privilegedWord) 0 0 0 [] kd kd rfl kd kd kd kd).2.2 (winKey 0 0x8000) read_of kd
  refine ⟨⟨⟨_, a⟩, ⟨_, a2⟩, ⟨_, b.1 kd⟩, ⟨_, c.2.1 kd kd⟩, ⟨_, d.2.2 5 0 kd kd kd⟩⟩, fun w hw => ?_⟩
  have e (w : Nat) (q : w ∈ [0x2FD, 0x4FD, 0x8FD, 0xBFD, 0x03FD + 15 * 2 ^ 41, 0x03FD + 28 * 2 ^ 41]) : w % 4 = 1 ∧ w / 4 % 64 = 0x3F := by
    revert w; decide +kernel
  exact h.2 w true false (e w hw).1 (e w hw).2 (by revert w; decide +kernel)

/-- The first part of an existence over two values. -/
theorem next_of_two {α : Type} {i : Instr} {s : State} {P : State → α → Prop} (e : ∃ s' x, exec i s = .next s' ∧ P s' x) : Next i s := by
  obtain ⟨s', _, x, _⟩ := e
  exact ⟨s', x⟩

/-- An entry of a list by its place. -/
theorem nth_of {α : Type} {l : List α} {x : α} (n : Nat) (h : l[n]? = some x) : x ∈ l := List.mem_of_getElem? h

theorem witness_FormsComplete : Obligations.FormsComplete → (∀ i ∈ ([.hintAlign 31 65535, .phaseRel .dom, .phaseAcq .dom, .phase .dom, .fenceRel .dom, .fenceAcq .dom, .fenceAcqRel .dom] : List Instr),
      Next i st) ∧ Next (.send 3 4 5 65535) (st2 0xA000000000000000 0) ∧ (∀ i ∈ ([.swcancel 4, .kdup 1 1] : List Instr), Next i st) ∧ Next (.migrto 4) (st2 0 0) ∧ Next (.tlbinv 2 4 5) st ∧
    Next (.sleep 4) (st2 0 0) ∧ (∀ i ∈ ([.evmark 4 5 65535, .assaytrig 65535, .mytid 3, .mstat 3 3, .mprog 3, .swstat 3 4, .ftest 3 4, .cstat 3 4, .exit, .eretEnd] : List Instr), Next i st) := fun h => by
  have g (s : State) (w : Tidy s) (r : Ready s (thr s) [4, 5]) (q : Dst s (thr s) 3) (z : Drained s (thr s)) := h s (thr s) 3 4 5 1 3 .dom 31 65535 2 w r q z
  have a := g st tidy_of ready_of dst_of drained_of
  have b := g (st2 0xA000000000000000 0) tidy_of ready_of dst_of drained_of
  have c := g (st2 0 0) tidy_of ready_of dst_of drained_of
  have b7 := b.1 _ (nth_of 7 rfl)
  have c10 := c.1 _ (nth_of 10 rfl)
  have a11 := a.1 _ (nth_of 11 rfl)
  have c12 := c.1 _ (nth_of 12 rfl)
  refine ⟨?_, next_of_two (b7 ⟨kd, kd, kd, kd, kd⟩), ?_, next_of_two (c10 ⟨kd, kd, kd, kd, kd, kd, kd, kd, kd⟩),
    next_of_two (a11 ⟨kd, .inl kd, .inl rfl⟩), next_of_two (c12 (of_decide_eq_true (p := (_ : Nat) < _) (by decide +kernel))), ?_⟩
  all_goals simp only [List.forall_mem_cons]
  · exact ⟨next_of_two (a.1 _ (nth_of 0 rfl) trivial), next_of_two (a.1 _ (nth_of 1 rfl) trivial),
      next_of_two (a.1 _ (nth_of 2 rfl) trivial), next_of_two (a.1 _ (nth_of 3 rfl) trivial),
      next_of_two (a.1 _ (nth_of 4 rfl) trivial), next_of_two (a.1 _ (nth_of 5 rfl) trivial),
      next_of_two (a.1 _ (nth_of 6 rfl) trivial), fun _ m => absurd m List.not_mem_nil⟩
  · exact ⟨next_of_two (a.1 _ (nth_of 8 rfl) trivial), next_of_two (a.1 _ (nth_of 9 rfl) trivial), fun _ m => absurd m List.not_mem_nil⟩
  · exact ⟨next_of_two (a.1 _ (nth_of 13 rfl) trivial), next_of_two (a.1 _ (nth_of 14 rfl) trivial),
      next_of_two (a.2.1 _ (nth_of 0 rfl) kd), next_of_two (a.2.1 _ (nth_of 1 rfl) kd),
      next_of_two (a.2.1 _ (nth_of 2 rfl) kd), next_of_two (a.2.1 _ (nth_of 3 rfl) kd),
      next_of_two (a.2.1 _ (nth_of 4 rfl) kd), next_of_two (a.2.1 _ (nth_of 5 rfl) kd),
      first_of a.2.2.1, first_of (a.2.2.2 kd), fun _ m => absurd m List.not_mem_nil⟩

end Sys2Proof.Tests
end

section
/-! What a fetch leaves of the state, and what a turn of a thread comes to. -/
namespace Sys2Proof.Machine

/-! What translation leaves: the TLBs, the slices and the walk caches alone can have changed. -/

theorem noteWalk_frame (s : State) (die id slot va : Nat) :
    noteWalk s die id slot va = { s with xl := { s.xl with wcache := (noteWalk s die id slot va).xl.wcache } } := by
  unfold noteWalk
  dsimp only
  split <;> rfl

theorem leafOf_frame (s : State) (c slot va : Nat) :
    let q := (leafOf s c slot va).2
    q = { s with cores := q.cores, clus := q.clus, xl := { s.xl with wcache := q.xl.wcache } } := by
  unfold leafOf
  dsimp only
  split
  · rfl
  · split
    · rfl
    · split
      · rfl
      · dsimp only [State.setClu, State.setCore]
        rw [noteWalk_frame]

/-- A translation ends in the state that finding the leaf left. -/
theorem translate_state (s : State) (c slot va : Nat) (user esc : Bool) (acc : Acc) :
    (translate s c slot va user esc acc).2 = (leafOf s c slot va).2 := by
  unfold translate
  split <;> simp_all

/-- Resolving an address leaves the state as it was, or as its translation leaves it. -/
theorem resolve_state (s : State) (c sl : Nat) (kernel esc : Bool) (acc : Acc) (ea : Word) (n : Nat) :
    (resolve s c sl kernel esc acc ea n).2 = s ∨ ∃ slot, (resolve s c sl kernel esc acc ea n).2 = (leafOf s c slot ea.toNat).2 := by
  unfold resolve
  split
  · exact .inl rfl
  · split
    · exact .inl rfl
    · rename_i slot _
      split
      · exact .inl rfl
      · refine .inr ⟨slot, ?_⟩
        rw [← translate_state s c slot ea.toNat (!kernel) esc acc]
        split <;> simp_all

theorem resolve_frame (s : State) (c sl : Nat) (kernel esc : Bool) (acc : Acc) (ea : Word) (n : Nat) :
    let q := (resolve s c sl kernel esc acc ea n).2
    q = { s with cores := q.cores, clus := q.clus, xl := { s.xl with wcache := q.xl.wcache } } := by
  dsimp only
  rcases resolve_state s c sl kernel esc acc ea n with h | ⟨slot, h⟩ <;> rw [h]
  exact leafOf_frame ..

/-- Finding where a fetch leads leaves the state as it was, or as resolving its address leaves it. -/
theorem fetchPlace_state (s : State) (c sl : Nat) (kernel : Bool) (pc : Word) :
    (fetchPlace s c sl kernel pc).2 = s ∨ (fetchPlace s c sl kernel pc).2 = (resolve s c sl kernel false .fetch pc 4).2 := by
  unfold fetchPlace
  split
  · exact .inl rfl
  · split
    · exact .inl rfl
    · refine .inr ?_
      split
      · simp_all
      · rename_i e
        rw [e]
        split
        · rfl
        · split
          · rfl
          · split <;> rfl

theorem fetchPlace_frame (s : State) (c sl : Nat) (kernel : Bool) (pc : Word) :
    let q := (fetchPlace s c sl kernel pc).2
    q = { s with cores := q.cores, clus := q.clus, xl := { s.xl with wcache := q.xl.wcache } } := by
  dsimp only
  rcases fetchPlace_state s c sl kernel pc with h | h <;> rw [h]
  exact resolve_frame ..

/-! The bytes of a fetch. -/

theorem sliceLine_frame (s : State) (n line floor : Nat) : (sliceLine s n line floor).2 = { s with clus := (sliceLine s n line floor).2.clus } := by
  unfold sliceLine
  split <;> rfl

/-- A line that the slice does not hold comes from memory. -/
theorem sliceLine_miss {s : State} {n line floor : Nat} (h : sliceHas s n line floor = false) : (sliceLine s n line floor).1.1 = lineData s line := by
  unfold sliceHas at h
  unfold sliceLine
  split
  · simp_all
  · rfl

theorem fetchBytes_frame (s : State) (c : Nat) (t : Thread) (k n : Nat) : (fetchBytes s c t k n).2 = { s with clus := (fetchBytes s c t k n).2.clus } := by
  unfold fetchBytes
  split
  · exact sliceLine_frame ..
  · rfl

/-! Bytes of memory as numbers. -/

theorem bytesAt_add (m : List Host.Cell) : ∀ (a b k : Nat), bytesAt m k (a + b) = bytesAt m k a ++ bytesAt m (k + a) b
  | 0, b, k => by simp [bytesAt]
  | a + 1, b, k => by
    rw [show a + 1 + b = (a + b) + 1 by omega, bytesAt, bytesAt, bytesAt_add m a b (k + 1), show k + (a + 1) = k + 1 + a by omega]
    rfl

theorem leNat_lt : ∀ l : List Byte, leNat l < 256 ^ l.length
  | [] => by simp [leNat]
  | b :: l => by
    have h := leNat_lt l
    have hb := b.isLt
    rw [List.length_cons, Nat.pow_succ, leNat]
    omega

theorem leNat_append : ∀ l r : List Byte, leNat (l ++ r) = leNat l + 256 ^ l.length * leNat r
  | [], r => by simp [leNat]
  | b :: l, r => by
    rw [List.cons_append, leNat, leNat, leNat_append l r, List.length_cons, Nat.pow_succ,
      Nat.mul_comm _ 256, Nat.mul_assoc, Nat.mul_add, Nat.add_assoc]

theorem natAt_lt (m : List Host.Cell) (k n : Nat) : natAt m k n < 256 ^ n := by
  have h := leNat_lt (bytesAt m k n)
  rwa [length_bytesAt] at h

theorem natAt_add (m : List Host.Cell) (k a b : Nat) : natAt m k (a + b) = natAt m k a + 256 ^ a * natAt m (k + a) b := by
  rw [natAt, bytesAt_add, leNat_append, length_bytesAt]
  rfl

/-- Bytes within a number of bytes from memory are those of memory. -/
theorem natAt_part (m : List Host.Cell) (k o n l : Nat) : natAt m k (o + (n + l)) / 256 ^ o % 256 ^ n = natAt m (k + o) n := by
  rw [natAt_add, Nat.add_mul_div_left _ _ (Nat.pow_pos (by omega)), Nat.div_eq_of_lt (natAt_lt ..), Nat.zero_add, natAt_add, Nat.add_mul_mod_self_left,
    Nat.mod_eq_of_lt (natAt_lt ..)]

/-- Bytes of memory fill a bit vector of their length. -/
theorem toNat_ofNat_natAt (m : List Host.Cell) (k n : Nat) : (BitVec.ofNat (8 * n) (natAt m k n)).toNat = natAt m k n := by
  rw [BitVec.toNat_ofNat, Nat.pow_mul]
  exact Nat.mod_eq_of_lt (natAt_lt ..)

/-- A line's number is that of its 64 bytes. -/
theorem toNat_lineData (s : State) (line : Nat) : (lineData s line).toNat = natAt s.mem (64 * line) 64 := toNat_ofNat_natAt s.mem (64 * line) 64

/-- Bytes of a line as memory holds it. -/
theorem lineNat_lineData (s : State) (k n : Nat) (h : k % 64 + n ≤ 64) : lineNat (lineData s (k / 64)) (k % 64) n = natAt s.mem k n := by
  have hp := natAt_part s.mem (64 * (k / 64)) (k % 64) n (64 - (k % 64 + n))
  have e : k % 64 + (n + (64 - (k % 64 + n))) = 64 := by omega
  rw [e, show 64 * (k / 64) + k % 64 = k by omega] at hp
  rw [lineNat, toNat_lineData, Nat.pow_mul, Nat.pow_mul]
  exact hp

/-- A fetch that the slice does not serve gives memory's bytes. -/
theorem fetchBytes_miss {s : State} {c : Nat} {t : Thread} {k n : Nat} (p : pinned c k = true)
    (h : sliceHas s (cluOf c) (k / 64) (viewFloor s.now t c k) = false) (b : k % 64 + n ≤ 64) : (fetchBytes s c t k n).1 = natAt s.mem k n := by
  have e : lineOf k = k / 64 := rfl
  simp only [fetchBytes, p, if_true, e, sliceLine_miss h, lineNat_lineData s k n b]

/-- A fetch at the core's own port, or its cluster's, gives memory's bytes. -/
theorem fetchBytes_port {s : State} {c : Nat} {t : Thread} {k n : Nat} (p : pinned c k = false) : (fetchBytes s c t k n).1 = natAt s.mem k n := by
  simp [fetchBytes, p]

/-! What a fetch comes to. -/

/-- A word that decodes has a length (R107). -/
theorem len_of_decode {c : DecCtx} {w n : Nat} {i : Instr} (h : decode c w = .ok i n) : w % 4 ≠ 0 := by
  intro e
  have hl : (Head.ofNat w).len = 0 := e
  simp [decode, decodeHead, hl] at h

/-- A fetch whose bytes decode and stay in their 32-byte block gives their instruction (R117). -/
theorem fetchAt_ok {s s2 : State} {c sl k n : Nat} {t : Thread} {pc : Word} {i : Instr}
    (place : fetchPlace s c sl t.kernel pc = (.ok k, s2)) (served : fetchRefused s2 c t k = 0) {f : Nat × State}
    (bytes : fetchBytes s2 c t k (min 16 (32 - pc.toNat % 32)) = f)
    (dec : decode (decCtx f.2 c t) (f.1 % 2 ^ (8 * n)) = .ok i n) (len : n = 4 + 4 * (f.1 % 4)) (fits : pc.toNat % 32 + n ≤ 32) :
    fetchAt s c sl t pc = (.ok (i, n), f.2) := by
  have h4 : f.1 % 2 ^ (8 * n) % 4 = f.1 % 4 := by
    apply Nat.mod_mod_of_dvd
    exact Nat.pow_dvd_pow 2 (show 2 ≤ 8 * n by omega)
  have hl : lenBytes f.1 = n := by
    have nz := len_of_decode dec
    rw [h4] at nz
    unfold lenBytes
    split
    · contradiction
    · exact len.symm
  obtain ⟨w, q⟩ := f
  have n0 : n ≠ 0 := by omega
  have nf : ¬ 32 < pc.toNat % 32 + n := by omega
  simp only [fetchAt, place, served, bytes] at *
  simp [hl, n0, nf, dec]

/-- The thread of a slot that comes to issue (R17, R35). -/
theorem enterIssue_thread {s : State} {c sl : Nat} {t : Thread} (h : s.thread c sl = some t) :
    (enterIssue s c sl).thread c sl = some { t with wait := .none, nextCk := s.ckOf c + 8, evCk := s.ckOf c, evPlace := 1 } := by
  have e : (s.setCore c { s.core c with lastSlot := sl, nextCk := s.ckOf c + 1 }).thread c sl = some t := h
  unfold enterIssue State.modThread
  dsimp only
  rw [e]
  exact congrArg SlotSt.thread (slot_setSlot_live c sl (x := { s.slot c sl with thread := some _ }) (by simp))

/-- A thread that issues is past its wait. -/
theorem mayIssue_of_issuable {s : State} {c sl : Nat} {t : Thread} (h : issuable s c sl t = true) : mayIssue s c sl t = true := by
  simp only [issuable, ready, Bool.and_eq_true] at h
  exact h.1.1.2.1.2

/-- A thread with nothing at its boundary that may issue comes to fetch. -/
theorem prepare_fetches {s : State} {c sl : Nat} {t : Thread} (live : s.thread c sl = some t) (may : issuable s c sl t = true)
    (calm : boundaryAct s c sl t = none) (mask : overrunDue s c sl t = false) : prepare s c sl = fetchNext (enterIssue s c sl) c sl := by
  simp [prepare, live, mayIssue_of_issuable may, calm, may, mask]

/-- The next instruction of a thread whose fetch and REPCNT are good. -/
theorem fetchNext_ok {s s1 : State} {c sl n : Nat} {t : Thread} {i : Instr} (live : s.thread c sl = some t)
    (fetched : fetchAt s c sl t t.pc = (.ok (i, n), s1)) (rep : repcntFits i t.repcnt = true) : fetchNext s c sl = .instr i s1 := by
  simp [fetchNext, live, fetched, rep]

/-- A turn of a thread, ordered or the machine's own, performs its issue and ends the step (log 1). -/
theorem step_issue {s s0 : State} {c sl : Nat} (on : s.pwr.on = true)
    (turn : (∃ dt l, s.agenda = ⟨dt, .issue c sl⟩ :: l ∧ s0 = beginStep { s with agenda := l } dt) ∨
      (s.agenda = [] ∧ s0 = beginStep s Config.issueTime ∧ ownTurn s0 = .issue c sl)) : step s = endStep (issue c sl s0) := by
  rcases turn with ⟨dt, l, ha, rfl⟩ | ⟨ha, rfl, ho⟩
  · simp [step, on, ha, perform]
  · simp [step, on, ha, performOwn, ho]

/-- Settles O54: the turn comes to the thread's fetch, whose bytes give the instruction, in the state with the cores' caches and slices as the fetch
left them. -/
theorem stepRunsDecoded : Obligations.StepRunsDecoded := by
  intro s s0 s2 t c sl k n i on turn live may calm mask u room place served f dec len fits rep
  have born : (enterIssue s0 c sl).thread c sl = some u := enterIssue_thread live
  have fetched : fetchAt (enterIssue s0 c sl) c sl u u.pc = (.ok (i, n), f.2) := fetchAt_ok place served rfl dec len fits
  have runs : issue c sl s0 = exec i f.2 := by
    rw [issue, prepare_fetches live may calm mask, fetchNext_ok born fetched rep]
  have placed := fetchPlace_frame (enterIssue s0 c sl) c sl t.kernel t.pc
  simp only [place] at placed
  have s2_slots : s2.slots = (enterIssue s0 c sl).slots := (congrArg State.slots placed :)
  have s2_cur : s2.cur = ⟨c, sl, none⟩ := (congrArg State.cur placed :)
  have hs : f.2.slots = (enterIssue s0 c sl).slots := (congrArg State.slots (fetchBytes_frame s2 c u k room)).trans s2_slots
  have hc : f.2.cur = ⟨c, sl, none⟩ := (congrArg State.cur (fetchBytes_frame s2 c u k room)).trans s2_cur
  refine ⟨?_, hc, ?_, ?_, fetchBytes_port⟩
  · rw [step_issue on turn, runs]
    rfl
  · rw [Issues, hc, State.thread, State.slot, hs]
    exact born
  · intro aligned p miss
    exact fetchBytes_miss p miss (by omega)

end Sys2Proof.Machine
end

section
/-! What performed writes, replies, buffered stores, page walks and answers to the engine-fault ring leave. -/
namespace Sys2Proof.Machine

/-! Performed writes: the wait slots that see them change the Treasury alone. -/

theorem settleQueue_frame (s : State) (q : Nat) : settleQueue s q = { s with tr := (settleQueue s q).tr } := by
  unfold settleQueue
  dsimp only
  split <;> rfl

theorem settleQueues_frame (l : List WaitSlot) : ∀ s : State,
    l.foldl (fun s w => settleQueue s w.q) s = { s with tr := (l.foldl (fun s w => settleQueue s w.q) s).tr } := by
  induction l with
  | nil => intro s; rfl
  | cons w l ih =>
    intro s
    rw [List.foldl_cons, ih, settleQueue_frame]

theorem seen_frame (s : State) (k n : Nat) : seen s k n = { s with tr := (seen s k n).tr } := by
  unfold seen
  dsimp only
  split
  · rfl
  · rw [settleQueues_frame]

/-- A performed write changes its bytes, and the Treasury where a wait slot sees it (R89, R327). -/
theorem put_frame (s : State) (k : Nat) (bs : List Byte) : s.put k bs = { s with mem := setBytes s.mem k bs, tr := (s.put k bs).tr } :=
  seen_frame ..

/-- An engine's performed write changes its bytes, the poison of the lines it writes whole, and the Treasury where a wait slot sees it. -/
theorem putClear_frame (s : State) (k : Nat) (bs : List Byte) :
    s.putClear k bs = { s with mem := setBytes s.mem k bs, poison := (s.writeClear k bs).poison, tr := (s.putClear k bs).tr } := seen_frame ..

theorem Tidy.put {s : State} (w : Tidy s) (k : Nat) (bs : List Byte) : Tidy (s.put k bs) := by
  rw [put_frame]
  exact ⟨wf_setBytes w.mem _ _, w.slots, w.cores, w.clus⟩

theorem dropLine_mem (s : State) (n line : Nat) : (dropLine s n line).mem = s.mem := by
  unfold dropLine
  split <;> rfl

theorem dropLine_cores (s : State) (n line : Nat) : (dropLine s n line).cores = s.cores := by
  unfold dropLine
  split <;> rfl

theorem Tidy.dropLine {s : State} (w : Tidy s) (n line : Nat) : Tidy (dropLine s n line) := by
  unfold Machine.dropLine
  split
  · exact w
  · exact w.setClu _ _

/-! Threads. -/

/-- A live thread changed is read back as it was changed. -/
theorem modThread_live {s : State} {c sl : Nat} {t : Thread} (h : s.thread c sl = some t) (f : Thread → Thread) :
    (s.modThread c sl f).thread c sl = some (f t) := by
  rw [State.modThread, h]
  exact congrArg SlotSt.thread (slot_setSlot_live c sl (x := { s.slot c sl with thread := some (f t) }) (by simp))

theorem modThread_cores (s : State) (c sl : Nat) (f : Thread → Thread) : (s.modThread c sl f).cores = s.cores := by
  unfold State.modThread
  split <;> rfl

/-- The reply of an access that writes no register lets its thread re-enter (R35). -/
theorem takeReply_plain {s : State} {c sl : Nat} {t : Thread} (h : s.thread c sl = some t) (late : t.late = []) :
    takeReply s c sl = s.modThread c sl (fun t => { t with late := [], wait := .none }) := by
  simp [takeReply, h, late]

/-- A reply lets its thread re-enter (R35). -/
theorem exec_memoryReply {s : State} {c sl : Nat} {t : Thread} (h : s.thread c sl = some t) (wait : t.wait = .reply) (late : t.late = []) :
    ∃ s', exec (.memoryReply c sl) s = .next s' ∧ s'.thread c sl = some { t with wait := .none } ∧ s'.mem = s.mem ∧ s'.cores = s.cores := by
  refine ⟨takeReply s c sl, ?_, ?_⟩
  · show execMemoryReply c sl s = _
    simp [execMemoryReply, h, wait]
  · rw [takeReply_plain h late]
    refine ⟨?_, modThread_mem .., modThread_cores ..⟩
    rw [modThread_live h, ← late]

/-- A pin that has room lets its thread re-enter (R24). -/
theorem exec_pinFreeResume {s : State} {c sl : Nat} {t : Thread} (h : s.thread c sl = some t) (wait : t.wait = .pin) (room : pinRoom s c = true) :
    ∃ s', exec (.pinFreeResume c sl) s = .next s' ∧ s'.thread c sl = some { t with wait := .none } ∧ s'.mem = s.mem ∧ s'.cores = s.cores := by
  refine ⟨setWait s c sl .none, ?_, modThread_live h _, modThread_mem .., modThread_cores ..⟩
  show execPinFreeResume c sl s = _
  simp [execPinFreeResume, h, wait, room]

/-! The oldest entry of a write buffer. -/

/-- Of the oldest entry alone as root, nothing else is required (R91, R95). -/
theorem required_oldest (tid : Word) (k pa : Nat) (d : List Byte) (held : Bool) : ∀ r : List WEntry,
    required (fun _ i => i == 0) (r ++ [.store tid k pa d held]) (r.length + 1) [] [] [] =
      r.map (fun e => (e, false)) ++ [(.store tid k pa d held, true)]
  | [] => by simp [required]
  | e :: r => by
    have ih := required_oldest tid k pa d held r
    cases e <;> simp [required, hitsKeys, ih]

/-- Entries that nothing requires stay. -/
theorem performList_idle (c : Nat) : ∀ (l : List WEntry) (s : State) (held : List (Word × Nat × Nat)) (shut : List Word),
    performList c (l.map (fun e => (e, false))) s held shut = (s, l, false)
  | [], _, _, _ => rfl
  | e :: l, s, held, shut => by cases e <;> simp [performList, performList_idle c l]

/-- No register word lies in HBM, so no store there waits for one (R34). -/
theorem portWaits_hbm {s : State} {k p : Nat} (h : placeOf k = .hbm p) (n : Nat) : portWaits s k n = false := by
  simp [portWaits, storeWaits, tooLateFor, h]

/-- A store to HBM is performed, and the core's cluster fetches its line anew (R89). -/
theorem performStore_hbm {s : State} {k p : Nat} (h : placeOf k = .hbm p) (c : Nat) (tid : Word) (pa : Nat) (d : List Byte) :
    performStore s c tid k pa d = dropLine (s.put k d) (cluOf c) (lineOf k) := by
  simp [performStore, h, State.reach, State.remoteCause, backed]

/-- What flushing the oldest entry of a buffer, a store to HBM, leaves. -/
theorem flush_oldest {s : State} {c k p pa : Nat} {tid : Word} {d : List Byte} {held : Bool} {l : List WEntry}
    (buf : (s.core c).wbuf = .store tid k pa d held :: l) (h : placeOf k = .hbm p) :
    let s1 := dropLine (s.put k d) (cluOf c) (lineOf k)
    (flush s c (fun _ i => i == 0) [] []).1 = s1.setCore c { s1.core c with wbuf := trimMarks l } := by
  have hr := required_oldest tid k pa d held l.reverse
  rw [List.length_reverse] at hr
  simp [flush, buf, hr, performList, portWaits_hbm h, hitsKeys, performList_idle, performStore_hbm h]

/-- The oldest buffered store of a core, to HBM, is performed, and leaves the buffer (R91). -/
theorem exec_bufferedWritePerformed_hbm {s : State} (w : Tidy s) {c k p pa : Nat} {tid : Word} {d : List Byte} {held : Bool} {l : List WEntry}
    (buf : (s.core c).wbuf = .store tid k pa d held :: l) (h : placeOf k = .hbm p) :
    ∃ s', exec (.bufferedWritePerformed c 0) s = .next s' ∧ (s'.core c).wbuf = trimMarks l ∧ s'.mem = setBytes s.mem k d := by
  have hr := required_oldest tid k pa d held l.reverse
  rw [List.length_reverse] at hr
  refine ⟨(flush s c (fun _ i => i == 0) [] []).1, ?_, ?_, ?_⟩
  · show execBufferedWritePerformed c 0 s = _
    simp [execBufferedWritePerformed, buf, hr, List.filter_map, Function.comp_def]
  · rw [flush_oldest buf h, core_setCore_self ((w.put k d).dropLine ..)]
  · rw [flush_oldest buf h, setCore_mem, dropLine_mem, put_frame]

end Sys2Proof.Machine
end

section
/-! Page walks for engines, and the answers to the engine-fault ring. -/
namespace Sys2Proof.Machine

/-! Page walks: what a walk reads. -/

/-- A walk reads memory, its poison and the module's number alone. -/
theorem walkFrom_congr {s s' : State} (mem : s'.mem = s.mem) (poison : s'.poison = s.poison) (modid : s'.modid = s.modid) (va : Nat) :
    ∀ n t lv, walkFrom s' va n t lv = walkFrom s va n t lv
  | 0, _, _ => rfl
  | n + 1, t, lv => by
    have hw (k : Nat) : s'.w64 k = s.w64 k := by rw [State.w64, mem]; rfl
    rw [walkFrom, walkFrom]
    simp only [hw, poison, modid, walkFrom_congr mem poison modid va n]

/-- Where an address leads for an engine does not depend on the walks that are queued (R306). -/
theorem resolveFrom_queued (s : State) (a b : List Walk) (x : EngCtx) (acc : Acc) (ea : Word) :
    resolveFrom { s with xl := { s.xl with walks := a, merged := b } } x acc ea = resolveFrom s x acc ea := by
  have hw (va n t lv : Nat) : walkFrom { s with xl := { s.xl with walks := a, merged := b } } va n t lv = walkFrom s va n t lv := by
    apply walkFrom_congr <;> rfl
  have hl (n id slot va : Nat) : cluLeaf { s with xl := { s.xl with walks := a, merged := b } } n id slot va = cluLeaf s n id slot va := by
    unfold cluLeaf dieWalk
    rw [hw]
    rfl
  have hf (n id slot : Nat) : cluLeaf { s with xl := { s.xl with walks := a, merged := b } } n id slot = cluLeaf s n id slot := funext (hl n id slot)
  unfold resolveFrom
  simp only [hf]
  rfl

/-! What noting translations leaves: the TLBs of the clusters and the walk caches alone can have changed (R306). -/

theorem noteLeaf_frame (s : State) (n id slot va : Nat) :
    noteLeaf s n id slot va = { s with clus := (noteLeaf s n id slot va).clus, xl := { s.xl with wcache := (noteLeaf s n id slot va).xl.wcache } } := by
  unfold noteLeaf
  split
  · rfl
  · split
    · rfl
    · rename_i e lv _
      dsimp only [State.setClu]
      rw [noteWalk_frame]

theorem noteLeaves_frame (x : EngCtx) (slot : Nat) (eas : List Word) : ∀ s : State,
    let s' := eas.foldl (fun s ea => if canonical ea && ea.toNat / 2 ^ 56 % 2 = 0 then noteLeaf s x.clu x.tenant slot ea.toNat else s) s
    s' = { s with clus := s'.clus, xl := { s.xl with wcache := s'.xl.wcache } } := by
  induction eas with
  | nil => intro s; rfl
  | cons ea l ih =>
    intro s
    rw [List.foldl_cons]
    dsimp only
    rw [ih]
    split
    · rw [noteLeaf_frame]
    · rfl

theorem noteUsed_frame (s : State) (x : EngCtx) (eas : List Word) :
    noteUsed s x eas = { s with clus := (noteUsed s x eas).clus, xl := { s.xl with wcache := (noteUsed s x eas).xl.wcache } } := by
  unfold noteUsed
  split
  · rfl
  · exact noteLeaves_frame ..

/-! Copies found by their number. -/

/-- A copy changed is found as it was changed. -/
theorem find_modCopy {s : State} {id : Nat} {y : Copy} (h : s.eng.copies.find? (fun x => x.id == id) = some y) (f : Copy → Copy)
    (keeps : ∀ x, (f x).id = x.id) : (modCopy s id f).eng.copies.find? (fun x => x.id == id) = some (f y) := by
  have hy : y.id = id := by simpa using List.find?_some h
  have e : (fun x : Copy => x.id == id) ∘ (fun c => if c.id == id then f c else c) = fun x => x.id == id := by
    funext x
    by_cases hx : x.id = id <;> simp [hx, keeps]
  simp only [modCopy]
  rw [List.find?_map, e, h]
  simp [hy]

/-- With nothing stalled, no walk takes a place that has become free. -/
theorem unstall_nil {s : State} (h : s.xl.stalled = []) : unstall s = s := by
  unfold unstall
  rw [h, List.foldl_nil, ← h]

/-- A miss of a copy whose walk succeeds lets the copy go on (R306). -/
theorem serveMiss_copy {s : State} {w : Walk} {id k : Nat} (ref : w.ref = .copy id)
    (found : resolveFrom s ⟨w.tenant, w.kernel, w.core, w.slot, false⟩ (Acc.ofCode w.acc) w.va = .ok k) :
    serveMiss s w = modCopy (noteUsed s ⟨w.tenant, w.kernel, w.core, w.slot, false⟩ [w.va]) id (fun c => { c with paused := false }) := by
  simp [serveMiss, ref, State.waits, found, resumeEng]

/-- A walk that succeeds, and that no other miss waits for, lets its copy go on (R303, R306). -/
theorem exec_pageWalk_copy {s : State} {n id k : Nat} {w : Walk} {y : Copy} (queued : s.xl.walks[n]? = some w) (first : n < 64) (ref : w.ref = .copy id)
    (found : resolveFrom s ⟨w.tenant, w.kernel, w.core, w.slot, false⟩ (Acc.ofCode w.acc) w.va = .ok k) (alone : ∀ x ∈ s.xl.merged, w.same x = false)
    (stalled : s.xl.stalled = []) (copy : s.eng.copies.find? (fun x => x.id == id) = some y) :
    ∃ s', exec (.pageWalk n) s = .next s' ∧ s'.xl.walks = delAt s.xl.walks n ∧
      s'.eng.copies.find? (fun x => x.id == id) = some { y with paused := false } := by
  have early : ¬ 64 ≤ ((s.xl.walks.take n).filter (fun x => cluOf x.core / 24 == cluOf w.core / 24)).length := by
    have h1 := List.length_filter_le (fun x : Walk => cluOf x.core / 24 == cluOf w.core / 24) (s.xl.walks.take n)
    have h2 := List.length_take_le n s.xl.walks
    omega
  have nobody : s.xl.merged.filter w.same = [] := List.filter_eq_nil_iff.mpr (fun x hx => by simp [alone x hx])
  let s1 : State := { s with xl := { s.xl with walks := delAt s.xl.walks n, merged := s.xl.merged.filter (fun x => !w.same x) } }
  let s2 := noteUsed s1 ⟨w.tenant, w.kernel, w.core, w.slot, false⟩ [w.va]
  have frame : s2 = { s1 with clus := s2.clus, xl := { s1.xl with wcache := s2.xl.wcache } } := noteUsed_frame ..
  have served : serveMiss s1 w = modCopy s2 id (fun c => { c with paused := false }) :=
    serveMiss_copy ref ((resolveFrom_queued ..).trans found)
  have calm : (modCopy s2 id (fun c => { c with paused := false })).xl.stalled = [] := by
    show s2.xl.stalled = []
    rw [frame]
    exact stalled
  refine ⟨modCopy s2 id (fun c => { c with paused := false }), ?_, ?_, find_modCopy ?_ _ (fun _ => rfl)⟩
  · show execPageWalk n s = _
    simp only [execPageWalk, queued, early, nobody, if_false, List.foldl_cons, List.foldl_nil]
    rw [served, unstall_nil calm]
  · show s2.xl.walks = _
    rw [frame]
  · rw [frame]
    exact copy

/-! Answers to the engine-fault ring (R307). -/

/-- A policy party whose BAR2 writes are not outstanding may store to a register of the ring (R346, R375; log 16). -/
theorem devStore_ef {s : State} {p : Party} (policy : p = .comptroller ∨ p = .teller ∨ p = .func 0) (turn : behindBar2 s p = false) (v : Word) :
    devStore s p 0x120008 8 v = writeEfresp s v ∧ devStore s p 0x120010 8 v = writeEfhead s v := by
  rcases policy with rfl | rfl | rfl <;> constructor <;>
    simp [devStore, turn, devWriteOk, devReg, inReg, isPolicy, bar0Reaches, devStoreN, devWrite]

/-- A walk queued stands among the walks, with a walk of its page, or at its engine (R306). -/
theorem queueWalk_mem (s : State) (w : Walk) :
    w ∈ (queueWalk s w).xl.walks ∨ w ∈ (queueWalk s w).xl.merged ∨ w ∈ (queueWalk s w).xl.stalled := by
  unfold queueWalk
  split
  · simp
  · split <;> simp

theorem queueWalk_recs (s : State) (w : Walk) : (queueWalk s w).xl.recs = s.xl.recs := by
  unfold queueWalk
  split
  · rfl
  · split <;> rfl

/-- A walk queued where none is stands alone. -/
theorem queueWalk_empty {s : State} (h : s.xl.walks = []) (w : Walk) : (queueWalk s w).xl.walks = [w] := by
  simp [queueWalk, h, dieWalks]

/-- What an answer that resolves a record of one copy does (R307). -/
theorem efResolve_copy {s : State} {tok id acc : Nat} {r : EfRec} (rec : s.xl.recs.find? (fun x => x.token == tok) = some r)
    (one : r.waiters = [(.copy id, acc)]) : ∃ w : Walk, w.va = r.va ∧ w.tenant = r.tenant ∧ w.acc = acc ∧ w.ref = .copy id ∧
      efResolve s tok = queueWalk { s with xl := { s.xl with recs := s.xl.recs.filter (fun x => x.token != tok) } } w := by
  simp only [efResolve, efRec, rec, rewalk, one, State.waits, List.filter_cons_of_pos, List.filter_nil, List.map_cons, List.map_nil, List.foldl_cons, List.foldl_nil]
  exact ⟨_, rfl, rfl, rfl, rfl, rfl⟩

/-- What an answer that ends the work of a record of one copy does (R307). -/
theorem efUnresolvable_copy {s : State} {tok id acc : Nat} {r : EfRec} (rec : s.xl.recs.find? (fun x => x.token == tok) = some r)
    (one : r.waiters = [(.copy id, acc)]) : efUnresolvable s tok =
      modCopy { s with xl := { s.xl with recs := s.xl.recs.filter (fun x => x.token != tok) } } id
        (fun c => { c with paused := false, fault := some (0x06, r.va) }) := by
  simp [efUnresolvable, efRec, rec, one, endEng]

/-- The action and token of a store to EFRESP (R307). -/
theorem writeEfresp_token {tok : Nat} (small : tok < 2 ^ 32) (s : State) :
    writeEfresp s (wordOf (2 ^ 32 + tok % 2 ^ 32)) = efResolve s tok ∧ writeEfresp s (wordOf (2 * 2 ^ 32 + tok % 2 ^ 32)) = efUnresolvable s tok := by
  have n1 : (wordOf (2 ^ 32 + tok % 2 ^ 32)).toNat = 2 ^ 32 + tok := by simp only [wordOf, BitVec.toNat_ofNat]; omega
  have n2 : (wordOf (2 * 2 ^ 32 + tok % 2 ^ 32)).toNat = 2 * 2 ^ 32 + tok := by simp only [wordOf, BitVec.toNat_ofNat]; omega
  have a1 : fld (wordOf (2 ^ 32 + tok % 2 ^ 32)) 32 2 = 1 := by simp only [fld, n1]; omega
  have a2 : fld (wordOf (2 * 2 ^ 32 + tok % 2 ^ 32)) 32 2 = 2 := by simp only [fld, n2]; omega
  have t1 : (2 ^ 32 + tok) % 2 ^ 32 = tok := by omega
  have t2 : (2 * 2 ^ 32 + tok) % 2 ^ 32 = tok := by omega
  simp only [writeEfresp, a1, a2, n1, n2, t1, t2, and_self]

/-- With no fault held at its engine, a move of EFHEAD posts none (R307). -/
theorem postHeld_nil {s : State} (h : s.xl.heldFaults = []) : postHeld s = s := by
  unfold postHeld
  rw [h, List.foldl_nil, ← h]

/-- EFHEAD moves up to the tail (R307). -/
theorem writeEfhead_moves {s : State} (h : s.xl.heldFaults = []) (v : Word) :
    ∃ e, writeEfhead s v = { s with xl := { s.xl with efhead := e } } ∧
      e = if (v.toNat % 2 ^ 32 + 2 ^ 32 - s.xl.efhead) % 2 ^ 32 ≤ (s.xl.eftail + 2 ^ 32 - s.xl.efhead) % 2 ^ 32 then v.toNat % 2 ^ 32
        else s.xl.efhead := by
  refine ⟨_, ?_, rfl⟩
  unfold writeEfhead
  dsimp only
  split
  · exact postHeld_nil h
  · rfl

/-- An answer that resolves a record of one copy queues its walk again (R307). -/
theorem exec_efrespResolve_copy {s : State} {p : Party} {tok id acc : Nat} {r : EfRec} (policy : p = .comptroller ∨ p = .teller ∨ p = .func 0)
    (turn : behindBar2 s p = false) (small : tok < 2 ^ 32) (rec : s.xl.recs.find? (fun x => x.token == tok) = some r)
    (one : r.waiters = [(.copy id, acc)]) :
    ∃ s' w, exec (.efrespResolve p tok) s = .next s' ∧ s'.xl.recs = s.xl.recs.filter (fun x => x.token != tok) ∧
      (s.xl.walks = [] → s'.xl.walks = [w]) ∧ (w ∈ s'.xl.walks ∨ w ∈ s'.xl.merged ∨ w ∈ s'.xl.stalled) ∧
      w.va = r.va ∧ w.tenant = r.tenant ∧ w.acc = acc ∧ w.ref = .copy id := by
  obtain ⟨w, va, tenant, ac, ref, run⟩ := efResolve_copy rec one
  refine ⟨efResolve s tok, w, ?_, ?_, ?_, ?_, va, tenant, ac, ref⟩
  · rw [← (writeEfresp_token small s).1, ← (devStore_ef policy turn _).1]
    rfl
  · rw [run, queueWalk_recs]
  · intro empty
    rw [run]
    exact queueWalk_empty (s := { s with xl := { s.xl with recs := s.xl.recs.filter (fun x => x.token != tok) } }) empty w
  · rw [run]
    exact queueWalk_mem ..

/-- An answer that ends the work of a record of one copy ends it with cause 0x06 (R307). -/
theorem exec_efrespUnresolvable_copy {s : State} {p : Party} {tok id acc : Nat} {r : EfRec} {y : Copy} (policy : p = .comptroller ∨ p = .teller ∨ p = .func 0)
    (turn : behindBar2 s p = false) (small : tok < 2 ^ 32) (rec : s.xl.recs.find? (fun x => x.token == tok) = some r)
    (one : r.waiters = [(.copy id, acc)]) (copy : s.eng.copies.find? (fun x => x.id == id) = some y) :
    ∃ s', exec (.efrespUnresolvable p tok) s = .next s' ∧ s'.xl.recs = s.xl.recs.filter (fun x => x.token != tok) ∧
      s'.eng.copies.find? (fun x => x.id == id) = some { y with paused := false, fault := some (0x06, r.va) } := by
  refine ⟨efUnresolvable s tok, ?_, ?_, ?_⟩
  · rw [← (writeEfresp_token small s).2, ← (devStore_ef policy turn _).1]
    rfl
  · rw [efUnresolvable_copy rec one]
    rfl
  · rw [efUnresolvable_copy rec one]
    exact find_modCopy copy _ (fun _ => rfl)

/-- A write of EFHEAD moves it up to the tail (R307). -/
theorem exec_efheadWrite {s : State} {p : Party} (policy : p = .comptroller ∨ p = .teller ∨ p = .func 0)
    (turn : behindBar2 s p = false) (held : s.xl.heldFaults = []) (v : Word) :
    ∃ e, exec (.efheadWrite p v) s = .next { s with xl := { s.xl with efhead := e } } ∧
      e = if (v.toNat % 2 ^ 32 + 2 ^ 32 - s.xl.efhead) % 2 ^ 32 ≤ (s.xl.eftail + 2 ^ 32 - s.xl.efhead) % 2 ^ 32 then v.toNat % 2 ^ 32
        else s.xl.efhead := by
  obtain ⟨e, run, he⟩ := writeEfhead_moves held v
  refine ⟨e, ?_, he⟩
  rw [← run, ← (devStore_ef policy turn v).2]
  rfl

/-- Settles O45: each event by what it leaves. -/
theorem memoryEvents : Obligations.MemoryEvents := by
  intro c sl s t w live back policy reply
  refine ⟨exec_memoryReply live, exec_pinFreeResume live, ?_, ?_, ?_, ?_⟩
  · intro tid k p d l buf hbm
    obtain ⟨s', run, rest, mem⟩ := exec_bufferedWritePerformed_hbm w buf hbm
    refine ⟨s', run, rest, ?_, ?_⟩ <;> rw [mem]
    · exact fun i hi => byteAt_setBytes_in w.mem k d hi
    · exact fun j hj => byteAt_setBytes_out w.mem k d hj
  · intro n id k x y queued first ref found alone stalled copy
    exact exec_pageWalk_copy queued first ref found alone stalled copy
  · intro tok id acc r y i small rec one copy
    refine ⟨?_, ?_⟩
    · rintro ⟨p, ⟨hp, turn⟩, rfl⟩
      exact exec_efrespResolve_copy hp turn small rec one
    · rintro ⟨p, ⟨hp, turn⟩, rfl⟩
      exact exec_efrespUnresolvable_copy hp turn small rec one copy
  · rintro p v ⟨hp, turn⟩ held h
    obtain ⟨e, run, he⟩ := exec_efheadWrite hp turn held v
    exact ⟨_, run, rfl, rfl, he⟩

end Sys2Proof.Machine
end

section
/-! The rows of a tile in memory: writing rows and reading them back. -/
namespace Sys2Proof.Machine

/-! Runs of bytes. -/

/-- Two runs, each a key and a length, have no byte in common. -/
def Apart (r q : Nat × Nat) : Prop := r.1 + r.2 ≤ q.1 ∨ q.1 + q.2 ≤ r.1

/-- Memory with bytes stored over runs in turn; `putRows_frame` says that this is what writing rows does. -/
def storeRuns : List Host.Cell → List (Nat × Nat) → List Byte → List Host.Cell
  | m, [], _ => m
  | m, r :: l, bs => storeRuns (setBytes m r.1 (bs.take r.2)) l (bs.drop r.2)

theorem wf_storeRuns : ∀ {m : List Host.Cell}, Memory.wf m = true → ∀ (l : List (Nat × Nat)) (bs : List Byte), Memory.wf (storeRuns m l bs) = true
  | _, w, [], _ => w
  | _, w, _ :: l, _ => wf_storeRuns (wf_setBytes w _ _) l _

/-- Bytes outside the runs read as before. -/
theorem byteAt_storeRuns_out {k : Nat} : ∀ {m : List Host.Cell}, Memory.wf m = true → ∀ (l : List (Nat × Nat)) (bs : List Byte),
    (∀ r ∈ l, k < r.1 ∨ r.1 + r.2 ≤ k) → byteAt (storeRuns m l bs) k = byteAt m k
  | _, _, [], _, _ => rfl
  | _, w, r :: l, bs, h => by
    have hr := h r (by simp)
    have hl := List.length_take_le r.2 bs
    rw [storeRuns, byteAt_storeRuns_out (wf_setBytes w _ _) l _ (fun q hq => h q (by simp [hq])), byteAt_setBytes_out w _ _ (by omega)]

/-- Bytes stored over runs apart, as many as the runs have, are read back from them. -/
theorem bytesAt_storeRuns : ∀ {m : List Host.Cell}, Memory.wf m = true → ∀ (l : List (Nat × Nat)) (bs : List Byte), l.Pairwise Apart →
    (l.map Prod.snd).sum = bs.length → l.flatMap (fun r => bytesAt (storeRuns m l bs) r.1 r.2) = bs
  | _, _, [], _, _, len => (List.length_eq_zero_iff.mp len.symm).symm
  | m, w, r :: l, bs, apart, len => by
    obtain ⟨first, rest⟩ := List.pairwise_cons.mp apart
    rw [List.map_cons, List.sum_cons] at len
    have w1 := wf_setBytes w r.1 (bs.take r.2)
    have take : (bs.take r.2).length = r.2 := List.length_take_of_le (by omega)
    have head : bytesAt (storeRuns m (r :: l) bs) r.1 r.2 = bs.take r.2 := by
      have read := bytesAt_setBytes w r.1 (bs.take r.2)
      rw [take] at read
      refine (bytesAt_congr r.2 r.1 fun i hi => byteAt_storeRuns_out w1 l (bs.drop r.2) fun q hq => ?_).trans read
      have := first q hq
      simp only [Apart] at this
      omega
    have tail := bytesAt_storeRuns w1 l (bs.drop r.2) rest (by rw [List.length_drop]; omega)
    rw [List.flatMap_cons, head]
    exact (congrArg _ tail).trans (List.take_append_drop ..)

/-- A byte outside each of some steps of equal length is outside their run. -/
theorem outside_steps {k key sz : Nat} : ∀ n, (∀ j < n, k < key + j * sz ∨ key + j * sz + sz ≤ k) → k < key ∨ key + n * sz ≤ k
  | 0, _ => by omega
  | n + 1, h => by
    have ih := outside_steps n (fun j hj => h j (by omega))
    have last := h n (by omega)
    rw [Nat.succ_mul]
    omega

/-! The rows of a tile as runs (R213, R214). -/

/-- Rows of a tile as runs of bytes. -/
def byteRuns (n : Nat) (d : Word) (lo hi : Nat) : List (Nat × Nat) := (rowRuns n d lo hi).map (fun r => (r.1, r.2 * (dN d * dSz d)))

theorem tileBytes_eq (s : State) (n : Nat) (d : Word) (lo hi : Nat) :
    tileBytes s n d lo hi = (byteRuns n d lo hi).flatMap (fun r => bytesAt s.mem r.1 r.2) := by
  simp [tileBytes, byteRuns, List.flatMap_map]

/-- Runs written in turn: memory, its poison, and the Treasury where a wait slot sees a write. -/
theorem putRuns_frame (f : Nat → Nat) : ∀ (l : List (Nat × Nat)) (s : State) (bs : List Byte),
    let q := (l.foldl (fun (t : State × List Byte) r => (t.1.putClear r.1 (t.2.take (f r.2)), t.2.drop (f r.2))) (s, bs)).1
    q = { s with mem := storeRuns s.mem (l.map (fun r => (r.1, f r.2))) bs, poison := q.poison, tr := q.tr }
  | [], _, _ => rfl
  | r :: l, s, bs => by
    have ih := putRuns_frame f l (s.putClear r.1 (bs.take (f r.2))) (bs.drop (f r.2))
    dsimp only at ih ⊢
    rw [List.foldl_cons, ih, putClear_frame]
    rfl

/-- Writing rows stores their bytes over their runs. -/
theorem putRows_frame (s : State) (n : Nat) (d : Word) (lo hi : Nat) (bs : List Byte) :
    let q := putRows s n d lo hi bs
    q = { s with mem := storeRuns s.mem (byteRuns n d lo hi) bs, poison := q.poison, tr := q.tr } :=
  putRuns_frame (fun m => m * (dN d * dSz d)) (rowRuns n d lo hi) s bs

theorem mem_rowRuns {n : Nat} {d : Word} {lo hi : Nat} {r : Nat × Nat} (h : r ∈ rowRuns n d lo hi) :
    ∃ c, max lo (8 * c) < min hi (8 * c + 8) ∧ r = (rowKey n d (max lo (8 * c)), min hi (8 * c + 8) - max lo (8 * c)) := by
  obtain ⟨c, _, h⟩ := List.mem_filterMap.mp h
  dsimp only at h
  split at h
  · rename_i lt
    exact ⟨c, lt, by simpa [eq_comm] using h⟩
  · simp at h

/-- A row of the core that holds another stands by it. -/
theorem rowKey_add {n : Nat} {d : Word} {a c j : Nat} (lo : 8 * c ≤ a) (hi : a + j < 8 * c + 8) :
    rowKey n d (a + j) = rowKey n d a + j * (dN d * dSz d) := by
  have q1 : (a + j) / 8 = a / 8 := by omega
  have q2 : (a + j) % 8 = a % 8 + j := by omega
  simp only [rowKey, winKey, q1, q2, Nat.add_mul]
  omega

/-- Rows of one core lie in its window, at the tile's share. -/
theorem rowKey_eq {n : Nat} {d : Word} {a c : Nat} (lo : 8 * c ≤ a) (hi : a < 8 * c + 8) :
    rowKey n d a = Config.sramBase + (16 * n + c) * Config.windowBytes + dBase d + (a - 8 * c) * (dN d * dSz d) := by
  have q1 : a / 8 = c := by omega
  have q2 : a % 8 = a - 8 * c := by omega
  simp only [rowKey, winKey, q1, q2]
  omega

/-- A share within one data bank ends within its window. -/
theorem share_le {d : Word} (h : shareInBank d = true) : dBase d + 8 * (dN d * dSz d) ≤ Config.windowBytes := by
  simp only [shareInBank, dShare, Bool.and_eq_true, decide_eq_true_eq, Nat.mul_assoc] at h
  have : (0x5C000 : Nat) ≤ Config.windowBytes := by decide
  omega

/-- The runs of a tile whose share lies within one data bank are apart: each lies in a core's window of its own. -/
theorem byteRuns_apart {n : Nat} {d : Word} (share : shareInBank d = true) (lo hi : Nat) : (byteRuns n d lo hi).Pairwise Apart := by
  refine List.pairwise_map.mpr (List.pairwise_filterMap.mpr ((List.pairwise_lt_range (n := 16)).imp ?_))
  intro c e lt r hr q hq
  dsimp only at hr hq
  obtain ⟨rc, hr⟩ := Option.ite_none_right_eq_some.mp hr
  obtain ⟨re, hq⟩ := Option.ite_none_right_eq_some.mp hq
  simp only [Option.some.injEq] at hr hq
  have size := share_le share
  have wide : (max lo (8 * c) - 8 * c) * (dN d * dSz d) + (min hi (8 * c + 8) - max lo (8 * c)) * (dN d * dSz d) ≤ 8 * (dN d * dSz d) := by
    rw [← Nat.add_mul]
    exact Nat.mul_le_mul_right _ (by omega)
  have window : (16 * n + c) * Config.windowBytes + Config.windowBytes ≤ (16 * n + e) * Config.windowBytes := by
    rw [← Nat.succ_mul]
    exact Nat.mul_le_mul_right _ (by omega)
  left
  rw [← hr, ← hq]
  dsimp only
  rw [rowKey_eq (c := c) (by omega) (by omega), rowKey_eq (c := e) (by omega) (by omega)]
  omega

/-- Rows in the runs of the first cores. -/
theorem sum_rows (n : Nat) (d : Word) (lo hi : Nat) : ∀ m,
    (((List.range m).filterMap (fun c =>
      if max lo (8 * c) < min hi (8 * c + 8) then some (rowKey n d (max lo (8 * c)), min hi (8 * c + 8) - max lo (8 * c)) else none)).map Prod.snd).sum
      = min hi (8 * m) - lo
  | 0 => by simp
  | m + 1 => by
    have ih := sum_rows n d lo hi m
    rw [List.range_succ, List.filterMap_append, List.map_append, List.sum_append, ih]
    simp only [List.filterMap_cons, List.filterMap_nil]
    split
    · rename_i h
      split at h
      · cases h
      · simp
        omega
    · rename_i h
      split at h
      · simp only [Option.some.injEq] at h
        rw [← h]
        simp
        omega
      · cases h

theorem sum_scaled (k : Nat) : ∀ l : List (Nat × Nat), (l.map fun r => r.2 * k).sum = (l.map Prod.snd).sum * k
  | [] => (Nat.zero_mul k).symm
  | r :: l => by rw [List.map_cons, List.sum_cons, sum_scaled k l, List.map_cons, List.sum_cons, Nat.add_mul]

/-- Bytes of rows in all. -/
theorem sum_byteRuns {n : Nat} {d : Word} {lo hi : Nat} (h : hi ≤ 128) : ((byteRuns n d lo hi).map Prod.snd).sum = (hi - lo) * (dN d * dSz d) := by
  have rows : ((rowRuns n d lo hi).map Prod.snd).sum = hi - lo := by
    rw [show hi - lo = min hi (8 * 16) - lo by omega]
    exact sum_rows n d lo hi 16
  rw [← rows, ← sum_scaled, byteRuns, List.map_map]
  rfl

/-- Rows written are read back (R214). -/
theorem tileBytes_putRows {s : State} (w : Memory.wf s.mem = true) {n : Nat} {d : Word} (share : shareInBank d = true) {lo hi : Nat} (h : hi ≤ 128)
    {bs : List Byte} (len : bs.length = (hi - lo) * (dN d * dSz d)) : tileBytes (putRows s n d lo hi bs) n d lo hi = bs := by
  rw [tileBytes_eq, putRows_frame]
  exact bytesAt_storeRuns w _ bs (byteRuns_apart share lo hi) (by rw [sum_byteRuns h, len])

/-- Writing rows leaves every byte outside them (R214). -/
theorem byteAt_putRows_out {s : State} (w : Memory.wf s.mem = true) {n : Nat} {d : Word} {lo hi : Nat} (bs : List Byte) {k : Nat}
    (h : ∀ i, lo ≤ i → i < hi → k < rowKey n d i ∨ rowKey n d i + dN d * dSz d ≤ k) : byteAt (putRows s n d lo hi bs).mem k = byteAt s.mem k := by
  rw [putRows_frame]
  refine byteAt_storeRuns_out w _ bs fun r hr => ?_
  obtain ⟨q, hq, rfl⟩ := List.mem_map.mp hr
  obtain ⟨c, lt, rfl⟩ := mem_rowRuns hq
  refine outside_steps _ fun j hj => ?_
  rw [← rowKey_add (c := c) (by omega) (by omega)]
  exact h _ (by omega) (by omega)

theorem Tidy.putRows {s : State} (w : Tidy s) (n : Nat) (d : Word) (lo hi : Nat) (bs : List Byte) : Tidy (putRows s n d lo hi bs) := by
  rw [putRows_frame]
  exact ⟨wf_storeRuns w.mem _ _, w.slots, w.cores, w.clus⟩

end Sys2Proof.Machine
end

section
/-! The array: what each of its events leaves (R216, R218, R221). -/
namespace Sys2Proof.Machine

/-! What the places of threads and tenants depend on. -/

theorem thread_of_slots {s s' : State} (h : s'.slots = s.slots) (c sl : Nat) : s'.thread c sl = s.thread c sl := by
  rw [State.thread, State.slot, h]
  rfl

theorem find_of_slots {s s' : State} (h : s'.slots = s.slots) (tid : Word) : s'.find tid = s.find tid := by
  unfold State.find
  dsimp only
  rw [thread_of_slots h]

/-- Where an operand stands does not depend on a cluster's registers and units. -/
theorem bankAt_setClu (s : State) (n : Nat) (x : CluSt) (tenant : Nat) (va : Word) : bankAt (s.setClu n x) tenant va = bankAt s tenant va := by
  have hw (slot v : Nat) : walk (s.setClu n x) slot v = walk s slot v := walkFrom_congr (s := s) (s' := s.setClu n x) rfl rfl rfl v 5 _ 0
  unfold bankAt
  simp only [hw]
  rfl

theorem mmaRow_setClu (s : State) (n : Nat) (x : CluSt) (tenant : Nat) (m : MmaOp) (f : Word × Word) (av bv d : Word) :
    mmaRow (s.setClu n x) tenant m f av bv d = mmaRow s tenant m f av bv d := by
  simp only [mmaRow, bankAt_setClu]

/-- A multiply-accumulate command is that of MMA or of MMAS. -/
theorem mmaOf_some {i : Instr} {m : MmaOp} (h : mmaOf i = some m) : (∃ sc pp o r, i = .mma sc pp o r) ∨ ∃ pat8 o r, i = .mmas pat8 o r := by
  unfold mmaOf at h
  split at h
  · exact .inl ⟨_, _, _, _, rfl⟩
  · exact .inr ⟨_, _, _, rfl⟩
  · cases h

/-! A command starts (R216). -/

/-- Nothing of a thread whose buffers are empty has to be performed first (R95). -/
theorem forceFences_idle {s : State} {c : Nat} {tid : Word} (buf : (s.core c).wbuf = []) (left : leftBy s tid = []) :
    forceFences s c tid = (s, false) := by
  simp [forceFences, forceIn, flushEach, flush, buf, left]

/-- The state in which the array takes the head of its queue. -/
def takenArr (s : State) (n : Nat) (l : List ArrCmd) : State := s.setClu n { s.clu n with arrQ := l }

theorem takenArr_clu {s : State} (w : Tidy s) (n : Nat) (l : List ArrCmd) : (takenArr s n l).clu n = { s.clu n with arrQ := l } := clu_setClu_self w ..

theorem Tidy.takenArr {s : State} (w : Tidy s) (n : Nat) (l : List ArrCmd) : Tidy (takenArr s n l) := w.setClu ..

theorem tile_setClu {s : State} (w : Tidy s) {n : Nat} {x : CluSt} (h : x.tiles = (s.clu n).tiles) (t : Nat) : (s.setClu n x).tile n t = s.tile n t := by
  rw [State.tile, clu_setClu_self w, h]
  rfl

/-- What begins with a command: it runs with no row written, with the descriptor in force. -/
theorem setArr_begins {s : State} (w : Tidy s) (n : Nat) (q : ArrCmd) (l : List ArrCmd) (img : List Byte) :
    ∃ y, (setArr (takenArr s n l) n (beginArr q (s.tile n q.tileNo) img none)).mem = s.mem ∧
      ((setArr (takenArr s n l) n (beginArr q (s.tile n q.tileNo) img none)).clu n).arr = some y ∧
      ((setArr (takenArr s n l) n (beginArr q (s.tile n q.tileNo) img none)).clu n).arrQ = l ∧
      y.cmd = q ∧ y.desc = s.tile n q.tileNo ∧ y.rows = 0 ∧ y.paused = false ∧ y.ended = none ∧ y.cancel = false := by
  refine ⟨beginArr q (s.tile n q.tileNo) img none, rfl, ?_, ?_, rfl, rfl, rfl, rfl, rfl, rfl⟩ <;>
    rw [setArr, clu_setClu_self (w.takenArr n l), takenArr_clu w]

/-- The array takes the head of its queue: MCFG without KEEP and MZERO at once, a multiply-accumulate after its checks (R216-R218). -/
theorem exec_arrayCommandStart {s : State} (w : Tidy s) {n : Nat} {q : ArrCmd} {l : List ArrCmd} (idle : (s.clu n).arr = none)
    (queue : (s.clu n).arrQ = q :: l) (buf : (s.core q.core).wbuf = []) (left : leftBy s q.tid = [])
    (good : (∃ t a r, q.i = .mcfg false t a r) ∨ (∃ t r, q.i = .mzero t r) ∨
      ∃ m row, mmaOf q.i = some m ∧ mmaRow s (s.tenantOf q.core) m (q.fa, q.fb) q.av q.bv (s.tile n q.tileNo) = .ok row ∧
        shareInBank (s.tile n q.tileNo) = true) :
    ∃ img, exec (.arrayCommandStart n) s = .next (setArr (takenArr s n l) n (beginArr q (s.tile n q.tileNo) img none)) := by
  show ∃ img, execArrayCommandStart n s = _
  rcases good with ⟨t, a, r, hi⟩ | ⟨t, r, hi⟩ | ⟨m, row, mma, ok, share⟩
  · exact ⟨[], by simp [execArrayCommandStart, idle, queue, forceFences_idle buf left, hi, tile_setClu w, takenArr]⟩
  · exact ⟨[], by simp [execArrayCommandStart, idle, queue, forceFences_idle buf left, hi, tile_setClu w, takenArr]⟩
  · have tenant (x : CluSt) : (s.setClu n x).tenantOf q.core = s.tenantOf q.core := rfl
    rcases mmaOf_some mma with ⟨sc, pp, o, r, hi⟩ | ⟨pat8, o, r, hi⟩ <;> rw [hi] at mma <;>
      (apply Exists.intro
       simp only [execArrayCommandStart, idle, queue, forceFences_idle buf left, hi, mma, tile_setClu w, tenant, mmaRow_setClu, ok, share, takenArr]
       rfl)

/-! A block of rows is written (R221). -/

theorem treeRaise1_mem (s : State) (n core slot f : Nat) : (treeRaise1 s n core slot f).mem = s.mem := by
  unfold treeRaise1
  extract_lets x
  split
  · rfl
  · exact trace_mem ..

theorem treeRaises_mem (n core slot : Nat) (m : IFl) (l : List Nat) : ∀ s : State,
    (l.foldl (fun s f => if m.getLsbD f then treeRaise1 s n core slot f else s) s).mem = s.mem := by
  induction l with
  | nil => intro s; rfl
  | cons f l ih =>
    intro s
    rw [List.foldl_cons, ih]
    split
    · exact treeRaise1_mem ..
    · rfl

theorem treeRaise_mem (s : State) (n core slot : Nat) (m : IFl) : (treeRaise s n core slot m).mem = s.mem := by
  unfold treeRaise
  split
  · rfl
  · exact treeRaises_mem ..

/-- Flags raised in a thread that stands in a slot change no byte of memory (R76). -/
theorem raiseTid_mem {s : State} {tid : Word} (h : (s.find tid).isSome = true) (m : IFl) : (raiseTid s tid m).mem = s.mem := by
  obtain ⟨⟨c, sl⟩, found⟩ := Option.isSome_iff_exists.mp h
  unfold raiseTid
  split
  · rfl
  · rw [found]
    dsimp only
    unfold raiseAt
    split
    · rfl
    · rw [treeRaise_mem, modThread_mem]

theorem noteRuns_frame (s : State) (x : EngCtx) (l : List (Word × Nat)) :
    noteRuns s x l = { s with clus := (noteRuns s x l).clus, xl := { s.xl with wcache := (noteRuns s x l).xl.wcache } } := noteUsed_frame ..

/-- The array's command is read back as it was set. -/
theorem setArr_arr (s : State) (n : Nat) (r : ArrRun) : ((setArr s n r).clu n).arr = some r := by
  have h : ({ s.clu n with arr := some r, mprog := r.cmd.progress r.rows true } : CluSt) ≠ CluSt.reset :=
    fun e => by simpa [CluSt.reset] using congrArg CluSt.arr e
  exact congrArg CluSt.arr (tget_tset_listed h s.clus n)

/-- A command that does not accumulate has no old element in any row. -/
theorem accs_of_none (r n : Nat) :
    (List.range r).map (fun i => ((List.replicate (r * n) (none : Option Nat)).drop (i * n)).take n) = List.replicate r (List.replicate n none) := by
  refine List.eq_replicate_iff.mpr ⟨by simp, fun l hl => ?_⟩
  obtain ⟨i, hi, rfl⟩ := List.mem_map.mp hl
  have room : n ≤ r * n - i * n := by
    rw [← Nat.sub_mul]
    exact Nat.le_mul_of_pos_left _ (by have := List.mem_range.mp hi; omega)
  rw [List.drop_replicate, List.take_replicate, Nat.min_eq_left room]

/-- The state with the rows of a block written, of `o` as results. -/
def blockWritten (s : State) (n : Nat) (y : ArrRun) (m : MmaOp) (hi : Nat) (o : List Nat) : State :=
  putRows (noteRuns s (y.cmd.ctx s) (blockRuns y m y.rows hi)) n y.desc y.rows hi (o.flatMap (leBytes (dSz y.desc)))

/-- The state that a block leaves: its rows are written, its flags `o.2` are raised in the command's thread, and its rows are counted. -/
def blockDone (s : State) (n : Nat) (y : ArrRun) (m : MmaOp) (hi : Nat) (o : List Nat × IFl) : State :=
  setArr (raiseTid (blockWritten s n y m hi o.1) y.cmd.tid o.2) n { y with rows := hi }

/-- The next block of a command that does not accumulate, whose reads succeed (R221). -/
theorem rowBlock_ok {s s1 : State} {n : Nat} {y : ArrRun} {m : MmaOp} {row : MRow} {b : BlockIn}
    (types : rowOf m.sc m.pp m.sparse (fTy y.cmd.fa) (fTy y.cmd.fb) = .ok row)
    (reads : readBlock s n y m y.rows (min (y.rows + 16) (dM y.desc)) = (.ok b, s1)) (plain : m.o.acc = false) :
    let hi := min (y.rows + 16) (dM y.desc)
    let o := blockOut row y.cmd.rmode b y.rows (dM y.desc) (dN y.desc) (List.replicate (hi - y.rows) (List.replicate (dN y.desc) none))
    rowBlock s n y m = blockDone s1 n y m hi o := by
  simp only [rowBlock, types, reads, plain, Bool.false_eq_true, if_false, accs_of_none, blockWritten, blockDone]

theorem blockWritten_slots (s : State) (n : Nat) (y : ArrRun) (m : MmaOp) (hi : Nat) (o : List Nat) : (blockWritten s n y m hi o).slots = s.slots := by
  rw [blockWritten, putRows_frame, noteRuns_frame]

/-- Flags and the count of rows are not in memory. -/
theorem blockDone_mem {s : State} {y : ArrRun} (live : (s.find y.cmd.tid).isSome = true) (n : Nat) (m : MmaOp) (hi : Nat) (o : List Nat × IFl) :
    (blockDone s n y m hi o).mem = (blockWritten s n y m hi o.1).mem := by
  have stands : ((blockWritten s n y m hi o.1).find y.cmd.tid).isSome = true := by rw [find_of_slots (blockWritten_slots ..), live]
  exact raiseTid_mem stands o.2

theorem blockDone_arr (s : State) (n : Nat) (y : ArrRun) (m : MmaOp) (hi : Nat) (o : List Nat × IFl) :
    ((blockDone s n y m hi o).clu n).arr = some { y with rows := hi } := setArr_arr ..

theorem length_leCodes (sz : Nat) : ∀ l : List Nat, (l.flatMap (leBytes sz)).length = l.length * sz
  | [] => (Nat.zero_mul sz).symm
  | v :: l => by rw [List.flatMap_cons, List.length_append, length_leBytes, length_leCodes sz l, List.length_cons, Nat.succ_mul, Nat.add_comm]

/-- ROW_BLOCK_WRITE runs the next block of a command that is not stopped (R221). -/
theorem exec_rowBlockWrite {s : State} {n : Nat} {y : ArrRun} {m : MmaOp} (runs : (s.clu n).arr = some y) (mma : mmaOf y.cmd.i = some m)
    (paused : y.paused = false) (cancel : y.cancel = false) (again : y.again = false) (ended : y.ended = none) (more : y.rows < dM y.desc) :
    exec (.rowBlockWrite n) s = .next (rowBlock s n y m) := by
  show execRowBlockWrite n s = _
  have rest : ¬ dM y.desc ≤ y.rows := by omega
  simp [execRowBlockWrite, runs, mma, paused, cancel, again, ended, rest]

end Sys2Proof.Machine
end

section
/-! The end of the array's commands (R216, R218, R221), and the statement about the array. -/
namespace Sys2Proof.Machine

/-! What follow-ons that take a free place leave of the array: its command, its tiles, every thread and memory. -/

/-- Memory, every slot, and the command and tiles of cluster `n` are as they were. -/
structure ArrayKept (n : Nat) (s s' : State) : Prop where
  tidy : Tidy s'
  mem : s'.mem = s.mem
  slots : s'.slots = s.slots
  arr : (s'.clu n).arr = (s.clu n).arr
  tiles : (s'.clu n).tiles = (s.clu n).tiles

theorem ArrayKept.refl {n : Nat} {s : State} (w : Tidy s) : ArrayKept n s s := ⟨w, rfl, rfl, rfl, rfl⟩

theorem ArrayKept.trans {n : Nat} {s s' q : State} (h : ArrayKept n s s') (k : ArrayKept n s' q) : ArrayKept n s q :=
  ⟨k.tidy, k.mem.trans h.mem, k.slots.trans h.slots, k.arr.trans h.arr, k.tiles.trans h.tiles⟩

theorem ArrayKept.of_same {n : Nat} {s s' : State} (w : Tidy s') (mem : s'.mem = s.mem) (slots : s'.slots = s.slots) (clus : s'.clus = s.clus) :
    ArrayKept n s s' := by
  have h : s'.clu n = s.clu n := by rw [State.clu, clus]; rfl
  exact ⟨w, mem, slots, by rw [h], by rw [h]⟩

/-- An update of what is neither memory, a slot, a core nor a cluster. -/
theorem ArrayKept.of_other {n : Nat} {s s' : State} (w : Tidy s) (mem : s'.mem = s.mem) (slots : s'.slots = s.slots) (cores : s'.cores = s.cores)
    (clus : s'.clus = s.clus) : ArrayKept n s s' :=
  .of_same ⟨by rw [mem]; exact w.mem, by rw [slots]; exact w.slots, by rw [cores]; exact w.cores, by rw [clus]; exact w.clus⟩ mem slots clus

/-- An update of a cluster that keeps its command and tiles. -/
theorem ArrayKept.setClu {n m : Nat} {s : State} (w : Tidy s) {x : CluSt} (arr : x.arr = (s.clu m).arr) (tiles : x.tiles = (s.clu m).tiles) :
    ArrayKept n s (s.setClu m x) := by
  have h : ((s.setClu m x).clu n).arr = (s.clu n).arr ∧ ((s.setClu m x).clu n).tiles = (s.clu n).tiles := by
    by_cases e : n = m
    · subst e
      rw [clu_setClu_self w, arr, tiles]
      exact ⟨rfl, rfl⟩
    · rw [clu_setClu_ne w e]
      exact ⟨rfl, rfl⟩
  exact ⟨w.setClu m x, rfl, rfl, h.1, h.2⟩

theorem stage_kept (x : CluSt) (r : TraceRec) : (stage x r).arr = x.arr ∧ (stage x r).tiles = x.tiles := by
  unfold stage
  split
  · exact ⟨rfl, rfl⟩
  · split
    · exact ⟨rfl, rfl⟩
    · exact ⟨rfl, rfl⟩

theorem arrayKept_trace {n : Nat} {s : State} (w : Tidy s) (clu ty core slot code aux : Nat) (a b : Word) :
    ArrayKept n s (s.trace clu ty core slot code aux a b) := by
  unfold State.trace
  dsimp only
  split
  · exact .setClu w (stage_kept ..).1 (stage_kept ..).2
  · exact .refl w

theorem arrayKept_snapTrigger {n : Nat} {s : State} (w : Tidy s) (src tag : Nat) (tid : Word) (clu core slot : Nat) :
    ArrayKept n s (snapTrigger s src tag tid clu core slot) := by
  have traced := arrayKept_trace (n := n) w (if clu < Config.nClusters then clu else 0) 0x0C core slot src 0 (wordOf tag) (wordOf (s.snap.trigCnt + 1))
  unfold snapTrigger
  dsimp only
  split
  · exact traced.trans (.of_other traced.tidy rfl rfl rfl rfl)
  · split <;> exact traced.trans (.of_other traced.tidy rfl rfl rfl rfl)

theorem arrayKept_report {n : Nat} {s : State} (w : Tidy s) (core : Nat) (src pay : Word) (code : Nat) : ArrayKept n s (report s core src pay code) := by
  unfold report
  split
  · exact .refl w
  · dsimp only
    split
    · exact .setClu w rfl rfl
    · exact .of_other w rfl rfl rfl rfl

/-- An engine fault is recorded and reported (R286). -/
theorem arrayKept_engFault {n : Nat} {s : State} (w : Tidy s) (core slot : Nat) (tid : Word) (cause eng : Nat) (pay addr : Word) :
    ArrayKept n s (engFault s core slot tid cause eng pay addr) := by
  have traced : ArrayKept n s (snapCause (s.trace (cluOf core) 0x03 core slot cause eng pay addr) cause tid core slot) := by
    have h := arrayKept_trace (n := n) w (cluOf core) 0x03 core slot cause eng pay addr
    unfold snapCause
    split
    · exact h.trans (arrayKept_snapTrigger h.tidy ..)
    · exact h
  unfold engFault
  dsimp only
  split
  · exact traced.trans (arrayKept_report traced.tidy ..)
  · exact traced

theorem arrayKept_markAt {n : Nat} {s : State} (w : Tidy s) (b c : Nat) (tid : Word) (sc : Scope) : ArrayKept n s (markAt s b c tid sc) := by
  unfold markAt
  split
  · exact .refl w
  · exact .of_same (w.setCore ..) rfl rfl rfl

theorem arrayKept_marks {n : Nat} (c : Nat) (sc : Scope) : ∀ (l : List (Nat × Word)) {s : State}, Tidy s →
    ArrayKept n s (l.foldl (fun s e => markAt s e.1 c e.2 sc) s)
  | [], _, w => .refl w
  | e :: l, _, w => by
    have h := arrayKept_markAt (n := n) w e.1 c e.2 sc
    exact h.trans (arrayKept_marks c sc l h.tidy)

/-- A fence of a thread marks write buffers alone (R95). -/
theorem arrayKept_markBy {n : Nat} {s : State} (w : Tidy s) (c : Nat) (tid : Word) (sc : Scope) : ArrayKept n s (markBy s c tid sc) := by
  have h := arrayKept_markAt (n := n) w c c tid sc
  exact h.trans (arrayKept_marks c sc _ h.tidy)

theorem arrayKept_pushDone {n : Nat} {s : State} (w : Tidy s) (h v : Word) : ArrayKept n s (pushDone s h v) := by
  unfold pushDone
  split
  · exact .refl w
  · exact .of_other w rfl rfl rfl rfl

theorem arrayKept_pushArr {n : Nat} {s : State} (w : Tidy s) (a : ArrCmd) : ArrayKept n s (pushArr s a) := .setClu w rfl rfl

/-- A follow-on that the engine issues enters a queue, or completes its future (R25, R202). -/
theorem arrayKept_admitFollow {n : Nat} {s : State} (w : Tidy s) (a : ArrCmd) : ArrayKept n s (admitFollow s a) := by
  unfold admitFollow
  split
  · exact .refl w
  · rename_i m _
    dsimp only
    split
    · rename_i cause reason _ _
      have h := arrayKept_engFault (n := n) w a.core a.slot a.tid cause 2 a.h 0
      exact h.trans (arrayKept_pushDone h.tidy ..)
    · split
      · have h := arrayKept_markBy (n := n) w a.core a.tid m.r.scope
        exact h.trans (arrayKept_pushArr h.tidy _)
      · exact arrayKept_pushArr w _

theorem arrayKept_admitWaiting {n : Nat} (m : Nat) : ∀ (l : List ArrCmd) {s : State}, Tidy s → ArrayKept n s (admitWaiting m l s)
  | [], _, w => .refl w
  | a :: l, s, w => by
    unfold admitWaiting
    split
    · exact .setClu w rfl rfl
    · have h := arrayKept_admitFollow (n := n) w a
      exact h.trans (arrayKept_admitWaiting m l h.tidy)

/-- Follow-ons that take the free places of a queue (R25). -/
theorem arrayKept_admitFollows {n : Nat} {s : State} (w : Tidy s) (m : Nat) : ArrayKept n s (admitFollows s m) := by
  have h : ArrayKept n s (s.setClu m { s.clu m with arrWait := [] }) := .setClu w rfl rfl
  exact h.trans (arrayKept_admitWaiting m _ h.tidy)

/-- With no follow-on waiting, none is issued (R25). -/
theorem admitFollows_none {s : State} {n : Nat} (h : (s.clu n).arrWait = []) : admitFollows s n = s.setClu n { s.clu n with arrWait := [] } := by
  rw [admitFollows, h, admitWaiting]

/-! A synchronous command ends (R216, R218). -/

/-- The command leaves the array, its thread goes on, and follow-ons take the place that is free. -/
def endsSync (s : State) (n : Nat) (r : ArrRun) : State := admitFollows (arrReturn (closeArr s n r) r.cmd) n

theorem closeArr_clu {s : State} (w : Tidy s) (n : Nat) (r : ArrRun) :
    (closeArr s n r).clu n = { s.clu n with arr := none, mprog := r.cmd.progress r.rows false } := clu_setClu_self w ..

theorem Tidy.closeArr {s : State} (w : Tidy s) (n : Nat) (r : ArrRun) : Tidy (closeArr s n r) := w.setClu ..

/-- The thread of a synchronous command goes on past it, if it waits for it (R216). -/
theorem arrReturn_found {s : State} {a : ArrCmd} {c sl : Nat} (found : s.find a.tid = some (c, sl)) :
    arrReturn s a = s.modThread c sl (fun t => if t.wait = .array then { t with pc := t.pc + 8, wait := .none } else t) := by
  simp [arrReturn, found]

theorem modThread_clus (s : State) (c sl : Nat) (f : Thread → Thread) : (s.modThread c sl f).clus = s.clus := by
  unfold State.modThread
  split <;> rfl

/-- What the end of a synchronous command leaves: the array is free, the thread is past the command, and memory and tiles stand. -/
theorem endsSync_spec {s s0 : State} (w : Tidy s) (slots : s.slots = s0.slots) {n c sl : Nat} {r : ArrRun} {t : Thread} (found : s0.find r.cmd.tid = some (c, sl))
    (live : s0.thread c sl = some t) (wait : t.wait = .array) :
    ((endsSync s n r).clu n).arr = none ∧ (endsSync s n r).thread c sl = some { t with pc := t.pc + 8, wait := .none } ∧
      (endsSync s n r).mem = s.mem ∧ ((endsSync s n r).clu n).tiles = (s.clu n).tiles := by
  have live1 : (closeArr s n r).thread c sl = some t := (thread_of_slots (s := s0) slots c sl).trans live
  let f (t : Thread) : Thread := if t.wait = .array then { t with pc := t.pc + 8, wait := .none } else t
  have past : f t = { t with pc := t.pc + 8, wait := .none } := if_pos wait
  have run : arrReturn (closeArr s n r) r.cmd = (closeArr s n r).modThread c sl f := arrReturn_found ((find_of_slots (s := s0) slots _).trans found)
  have kept : ArrayKept n ((closeArr s n r).modThread c sl f) (endsSync s n r) := by
    rw [endsSync, run]
    exact arrayKept_admitFollows ((w.closeArr n r).modThread ..) n
  have clu : ((closeArr s n r).modThread c sl f).clu n = (closeArr s n r).clu n := by
    rw [State.clu, modThread_clus]
    rfl
  rw [closeArr_clu w] at clu
  refine ⟨?_, ?_, ?_, ?_⟩
  · rw [kept.arr, clu]
  · rw [thread_of_slots kept.slots, modThread_live live1, past]
  · rw [kept.mem, modThread_mem]
    rfl
  · rw [kept.tiles, clu]

theorem dM_le (d : Word) : dM d ≤ 128 := by
  have : fld d 0 7 < 2 ^ 7 := Nat.mod_lt _ (by decide)
  simp only [dM]
  omega

theorem tileBytes_of_mem {s s' : State} (h : s'.mem = s.mem) (n : Nat) (d : Word) (lo hi : Nat) : tileBytes s' n d lo hi = tileBytes s n d lo hi := by
  simp only [tileBytes, h]

/-- A whole tile written is read back. -/
theorem tileBytes_putTile {s : State} (w : Tidy s) {n : Nat} {d : Word} (share : shareInBank d = true) {bs : List Byte}
    (len : bs.length = dM d * (dN d * dSz d)) : tileBytes (putRows s n d 0 (dM d) bs) n d 0 (dM d) = bs :=
  tileBytes_putRows w.mem share (dM_le d) len

/-- MCFG's end sets the descriptor and writes the tile: the image's first bytes, then zeros (R218). -/
theorem configTile_spec {s : State} (w : Tidy s) {n : Nat} {a : ArrCmd} {D : Word} (desc : a.av ||| wordOf (2 ^ 63) = D)
    (share : shareInBank D = true) (img : List Byte) :
    let k := dM D * (dN D * dSz D)
    Tidy (configTile s n a img) ∧ (configTile s n a img).slots = s.slots ∧
      ((configTile s n a img).clu n).tiles = tset 0 (s.clu n).tiles a.tileNo D ∧
      tileBytes (configTile s n a img) n D 0 (dM D) = img.take k ++ List.replicate (k - img.length) 0 := by
  have w1 : Tidy (s.setClu n { s.clu n with tiles := tset 0 (s.clu n).tiles a.tileNo D }) := w.setClu ..
  simp only [configTile, desc]
  refine ⟨w1.putRows .., ?_, ?_, tileBytes_putTile w1 share ?_⟩
  · rw [putRows_frame]
    rfl
  · have clu := clu_setClu_self w n { s.clu n with tiles := tset 0 (s.clu n).tiles a.tileNo D }
    rw [putRows_frame]
    exact congrArg CluSt.tiles clu
  · rw [List.length_append, List.length_take, List.length_replicate]
    omega

/-- A descriptor with VALID set is not that of an unconfigured tile. -/
theorem valid_ne_zero (v : Word) : v ||| wordOf (2 ^ 63) ≠ 0 := by
  intro h
  have : (v ||| wordOf (2 ^ 63)).getLsbD 63 = false := by rw [h]; rfl
  simp [wordOf] at this

/-- MCFG ends (R216, R218). -/
theorem exec_arrayCommandEnd_mcfg {s : State} (w : Tidy s) {n c sl : Nat} {y : ArrRun} {t : Thread} {keep : Bool} {tl : Fin 4} {r : WReg} {o : OrdScope}
    (runs : (s.clu n).arr = some y) (found : s.find y.cmd.tid = some (c, sl)) (live : s.thread c sl = some t) (wait : t.wait = .array)
    (cmd : y.cmd.i = .mcfg keep tl r o) {D : Word} (desc : y.cmd.av ||| wordOf (2 ^ 63) = D) (share : shareInBank D = true) :
    let k := dM D * (dN D * dSz D)
    ∃ s', exec (.arrayCommandEnd n) s = .next s' ∧ ((s'.clu n).arr = none ∧ s'.thread c sl = some { t with pc := t.pc + 8, wait := .none }) ∧
      s'.tile n tl.val = D ∧ tileBytes s' n D 0 (dM D) = y.img.take k ++ List.replicate (k - y.img.length) 0 := by
  intro k
  obtain ⟨w1, slots, tiles, bytes⟩ := configTile_spec w desc share y.img (n := n)
  obtain ⟨arr, thread, mem, same⟩ := endsSync_spec w1 slots (r := { y with rows := dM y.cmd.av }) found live wait
  refine ⟨endsSync (configTile s n y.cmd y.img) n { y with rows := dM y.cmd.av }, ?_, ⟨arr, thread⟩, ?_, ?_⟩
  · show execArrayCommandEnd n s = _
    simp [execArrayCommandEnd, runs, cmd, endsSync]
  · have no : y.cmd.tileNo = tl.val := by simp [ArrCmd.tileNo, cmd]
    rw [State.tile, same, tiles, no]
    exact tget_tset_listed (desc ▸ valid_ne_zero _) ..
  · rw [tileBytes_of_mem mem, bytes]

/-- MZERO of a tile that is configured ends (R216, R218). -/
theorem exec_arrayCommandEnd_mzero {s : State} (w : Tidy s) {n c sl : Nat} {y : ArrRun} {t : Thread} {tl : Fin 4} {o : OrdScope}
    (runs : (s.clu n).arr = some y) (found : s.find y.cmd.tid = some (c, sl)) (live : s.thread c sl = some t) (wait : t.wait = .array)
    (cmd : y.cmd.i = .mzero tl o) (share : shareInBank y.desc = true) (valid : dValid y.desc = true) :
    ∃ s', exec (.arrayCommandEnd n) s = .next s' ∧ ((s'.clu n).arr = none ∧ s'.thread c sl = some { t with pc := t.pc + 8, wait := .none }) ∧
      tileBytes s' n y.desc 0 (dM y.desc) = List.replicate (dM y.desc * (dN y.desc * dSz y.desc)) 0 := by
  let s1 := putRows s n y.desc 0 (dM y.desc) (List.replicate (dM y.desc * (dN y.desc * dSz y.desc)) 0)
  have slots : s1.slots = s.slots := by
    show (putRows ..).slots = _
    rw [putRows_frame]
  obtain ⟨arr, thread, mem, _⟩ := endsSync_spec (w.putRows n y.desc 0 (dM y.desc) _) slots (n := n) (r := { y with rows := dM y.desc }) found live wait
  refine ⟨endsSync s1 n { y with rows := dM y.desc }, ?_, ⟨arr, thread⟩, ?_⟩
  · show execArrayCommandEnd n s = _
    simp [execArrayCommandEnd, runs, cmd, valid, endsSync, s1]
  · rw [tileBytes_of_mem mem]
    exact tileBytes_putTile w share List.length_replicate

/-- A multiply-accumulate that has written its rows completes its future (R216, R221). -/
theorem exec_arrayCommandEnd_mma {s : State} (w : Tidy s) {n : Nat} {y : ArrRun} {m : MmaOp} (runs : (s.clu n).arr = some y)
    (mma : mmaOf y.cmd.i = some m) (ended : y.ended = none) (cancel : y.cancel = false) (all : dM y.desc ≤ y.rows) (h : y.cmd.h ≠ 0)
    (calm : (s.clu n).arrWait = []) :
    ∃ s', exec (.arrayCommandEnd n) s = .next s' ∧ s'.mem = s.mem ∧ (s'.clu n).arr = none ∧
      s'.eng.dones = s.eng.dones ++ [⟨y.cmd.h, mmaValue 1 0 0 y.rows, false⟩] := by
  let s1 := pushDone (closeArr s n y) y.cmd.h (mmaValue 1 0 0 y.rows)
  have pushed : s1 = { closeArr s n y with eng := { s.eng with dones := s.eng.dones ++ [⟨y.cmd.h, mmaValue 1 0 0 y.rows, false⟩] } } := if_neg h
  have clu : s1.clu n = { s.clu n with arr := none, mprog := y.cmd.progress y.rows false } := by
    rw [pushed]
    exact closeArr_clu w n y
  have w1 : Tidy s1 := (arrayKept_pushDone (n := n) (w.closeArr n y) ..).tidy
  refine ⟨s1.setClu n { s1.clu n with arrWait := [] }, ?_, ?_, ?_, ?_⟩
  · rw [← admitFollows_none (by rw [clu]; exact calm)]
    show execArrayCommandEnd n s = _
    rcases mmaOf_some mma with ⟨sc, pp, o, r, hi⟩ | ⟨pat8, o, r, hi⟩ <;> simp [execArrayCommandEnd, runs, hi, ended, cancel, all, s1]
  · rw [pushed]
    rfl
  · rw [clu_setClu_self w1, clu]
  · rw [pushed]
    rfl

/-- A block of rows is written, and nothing outside it (R221). -/
theorem blockWritten_spec {s s1 : State} (w : Tidy s) (mem : s1.mem = s.mem) {n : Nat} {y : ArrRun} (m : MmaOp) {hi : Nat} (share : shareInBank y.desc = true)
    (last : hi ≤ 128) {o : List Nat} (len : o.length = (hi - y.rows) * dN y.desc) :
    tileBytes (blockWritten s1 n y m hi o) n y.desc y.rows hi = o.flatMap (leBytes (dSz y.desc)) ∧
      ∀ k, (∀ i, y.rows ≤ i → i < hi → k < rowKey n y.desc i ∨ rowKey n y.desc i + dN y.desc * dSz y.desc ≤ k) →
        byteAt (blockWritten s1 n y m hi o).mem k = byteAt s.mem k := by
  have noted : (noteRuns s1 (y.cmd.ctx s1) (blockRuns y m y.rows hi)).mem = s.mem := by rw [noteRuns_frame, mem]
  have wf : Memory.wf (noteRuns s1 (y.cmd.ctx s1) (blockRuns y m y.rows hi)).mem = true := by rw [noted]; exact w.mem
  refine ⟨tileBytes_putRows wf share last ?_, fun k out => ?_⟩
  · rw [length_leCodes, len, Nat.mul_assoc]
  · rw [blockWritten, byteAt_putRows_out wf _ out, noted]

/-- Settles O34: each event of the array by what it leaves. -/
theorem arrayRuns : Obligations.ArrayRuns := by
  intro n s s1 w x
  refine ⟨?_, ?_, ?_, ?_⟩
  · intro q l idle queue buf left good
    have kinds : (∃ t a r, q.i = .mcfg false t a r) ∨ (∃ t r, q.i = .mzero t r) ∨
        ∃ m row, mmaOf q.i = some m ∧ mmaRow s (s.tenantOf q.core) m (q.fa, q.fb) q.av q.bv (s.tile n q.tileNo) = .ok row ∧
          shareInBank (s.tile n q.tileNo) = true := by
      split at good
      · subst good
        exact .inl ⟨_, _, _, ‹_›⟩
      · exact .inr (.inl ⟨_, _, ‹_›⟩)
      · exact .inr (.inr good)
    obtain ⟨img, run⟩ := exec_arrayCommandStart w idle queue buf left kinds
    obtain ⟨y, state⟩ := setArr_begins w n q l img
    exact ⟨_, y, run, state⟩
  · intro y m row b runs mma paused cancel again ended M N hi out more types reads mem slots clus plain share small len live
    obtain ⟨bytes, out_same⟩ := blockWritten_spec (n := n) w mem m share (show hi ≤ 128 by omega) len
    have kept : (blockDone s1 n y m hi out).mem = (blockWritten s1 n y m hi out.1).mem :=
      blockDone_mem (by rw [find_of_slots slots]; exact live) ..
    refine ⟨blockDone s1 n y m hi out, { y with rows := hi }, ?_, blockDone_arr .., rfl, ?_, ?_⟩
    · rw [exec_rowBlockWrite runs mma paused cancel again ended more, rowBlock_ok types reads plain]
    · exact (tileBytes_of_mem kept ..).trans bytes
    · intro k outside
      rw [kept, out_same k outside]
  · intro y c sl t runs found live wait goes
    refine ⟨?_, ?_⟩
    · intro keep tl a r cmd D k share
      exact exec_arrayCommandEnd_mcfg w runs found live wait cmd rfl share
    · intro tl r cmd share valid
      exact exec_arrayCommandEnd_mzero w runs found live wait cmd share valid
  · intro y m runs mma ended cancel all h calm
    obtain ⟨s', run, mem, arr, dones⟩ := exec_arrayCommandEnd_mma w runs mma ended cancel all h calm
    refine ⟨s', run, mem, arr, dones.trans ?_⟩
    simp [mmaValue, wordOf]

end Sys2Proof.Machine
end

section
/-! The state after reset: each table is empty, so each entry reads as its reset value (R365), and the statement about it. -/
namespace Sys2Proof.Machine

/-! What the tables read as after reset. -/

/-- Memory and the tables stand in their one form at reset (log 3). -/
theorem tidy_reset : Tidy State.reset := ⟨reset_mem_wf, rfl, rfl, rfl⟩

@[simp] theorem reset_slot (c sl : Nat) : State.reset.slot c sl = SlotSt.reset := tget_nil _ _
@[simp] theorem reset_core (c : Nat) : State.reset.core c = CoreSt.reset := tget_nil _ _
@[simp] theorem reset_clu (n : Nat) : State.reset.clu n = CluSt.reset := tget_nil _ _
@[simp] theorem reset_queue (q : Nat) : State.reset.queue q = Queue.reset q := tget_nil _ _
@[simp] theorem reset_eye (n : Nat) : State.reset.eye n = Eye.reset := tget_nil _ _
@[simp] theorem reset_isl (n : Nat) : State.reset.isl n = Isl.reset n := tget_nil _ _
@[simp] theorem reset_ten (a b : Nat) : State.reset.ten a b = 0 := tget_nil _ _

@[simp] theorem reset_thread (c sl : Nat) : State.reset.thread c sl = none := by
  rw [State.thread, reset_slot]
  rfl

/-- A tenant slot without V holds no tenant (R299). -/
theorem tenId_of_invalid {s : State} {a : Nat} (h : bit (s.ten a 0) 0 = false) : s.tenId a = 0 := by
  simp [State.tenId, h]

/-- No tenant slot is valid after reset (R299). -/
@[simp] theorem reset_tenId (a : Nat) : State.reset.tenId a = 0 :=
  tenId_of_invalid (by rw [reset_ten]; rfl)

/-! The reset values of a core's FMT registers, of a queue by its number, and of an island by its number. -/

/-- Every FMT register resets to TYPE RAW, WIDTH 8, DEPTH 8 (R62). -/
theorem fmt_coreReset (x : Nat) : tget fmtReset CoreSt.reset.fmt x = 0x888 := tget_nil _ _

/-- A host queue resets to STATE 0 with QCFG 0 (R313, R315, R316). -/
theorem queueReset_host {q : Nat} (h : q < 1016) : (Queue.reset q).state = 0 ∧ (Queue.reset q).cfg = 0 := by
  have low : ¬ 1016 ≤ q := Nat.not_le.mpr h
  simp [Queue.reset, low]

/-- Device-launch queue 1,016 + j resets to STATE 1 at priority j (R313, R316). -/
theorem queueReset_deviceLaunch (j : Nat) : (Queue.reset (1016 + j)).state = 1 ∧ (Queue.reset (1016 + j)).epri = j := by
  simp [Queue.reset]

/-- Every island resets to 650 mV (R368). -/
theorem vset_islReset (n : Nat) : (Isl.reset n).vset = 650 := rfl

/-- The quadrant islands, the first four of each die's five, reset to 2,700 MHz (R368). -/
theorem fset_islReset {n : Nat} (die : n < 20) (island : n % 5 < 4) : (Isl.reset n).fset = 2700 :=
  if_pos (.inr ⟨die, island⟩)

/-- Settles O58: every table is empty, so each clause is about an entry's reset value or a register of the state itself. -/
theorem resetState : Obligations.ResetState := by
  unfold Obligations.ResetState
  intro s
  have cores (c : Nat) : (s.core c).wide = false ∧ (s.core c).tags = [] ∧ (s.core c).tenant = 0 := by
    rw [reset_core]
    exact ⟨rfl, rfl, rfl⟩
  have fmts (c x : Nat) : tget fmtReset (s.core c).fmt x = 0x888 := by
    rw [reset_core]
    exact fmt_coreReset x
  have clusters (n : Nat) : (s.clu n).actl = 0 ∧ (s.clu n).u = 0 := by
    rw [reset_clu]
    exact ⟨rfl, rfl⟩
  have hostQueues (q : Nat) (h : q < 1016) : (s.queue q).state = 0 ∧ (s.queue q).cfg = 0 := by
    rw [reset_queue]
    exact queueReset_host h
  have deviceQueues (j : Nat) (_ : j < 8) : (s.queue (1016 + j)).state = 1 ∧ (s.queue (1016 + j)).epri = j := by
    rw [reset_queue]
    exact queueReset_deviceLaunch j
  have eyes (n : Nat) : (s.eye n).low = false := by
    rw [reset_eye]
    rfl
  have islands (n : Nat) : (s.isl n).vset = 650 ∧ (n < 20 → n % 5 < 4 → (s.isl n).fset = 2700) := by
    rw [reset_isl]
    exact ⟨vset_islReset n, fset_islReset⟩
  have tenants (a b : Nat) : s.tenId a = 0 ∧ s.ten a b = 0 := ⟨reset_tenId a, reset_ten a b⟩
  have registers : s.pwr.plim = 2400 ∧ s.tm.hops = 255 ∧ s.tm.lock = false ∧ s.tm.hold = false ∧ s.sec.fwhbt = 20000 ∧ s.sec.state = 0 ∧
      s.snap.frozen = false := ⟨rfl, rfl, rfl, rfl, rfl, rfl, rfl⟩
  exact ⟨tidy_reset, rfl, reset_thread, cores, fmts, clusters, tenants, hostQueues, deviceQueues, eyes, islands, registers⟩

end Sys2Proof.Machine
end

section
/-! Rounding and conversion to an integer (R72, R73): a mode chooses one count, the model's rounding computes it, and ToInt follows it. -/
namespace Sys2Proof.Machine

/-! What a mode chooses (R72). -/

/-- A multiple of the unit is its own rounding in every mode. -/
theorem roundsTo_mul_self (md : RMode) (neg : Bool) {w : Nat} (pos : 0 < w) (k : Nat) : roundsTo md neg (k * w) w k := by
  have next : k * w < (k + 1) * w := Nat.mul_lt_mul_of_pos_right (Nat.lt_succ_self k) pos
  cases md <;> cases neg <;> simp only [roundsTo, Bool.false_eq_true, reduceIte] <;> omega

/-- A rounded count is less than one unit from the magnitude, in every mode. -/
theorem roundsTo_near {md : RMode} {neg : Bool} {m w k : Nat} (pos : 0 < w) (h : roundsTo md neg m w k) :
    m < (k + 1) * w ∧ k * w < m + w := by
  rw [Nat.succ_mul]
  cases md <;> cases neg <;> simp only [roundsTo, Nat.succ_mul, Bool.false_eq_true, reduceIte] at h <;> omega

/-- Of two roundings of one magnitude the second is no greater: a greater one is a whole unit away, and of the two neighbours of a tie RNE takes
the even one. -/
theorem roundsTo_le {md : RMode} {neg : Bool} {m w k l : Nat} (pos : 0 < w) (hk : roundsTo md neg m w k) (hl : roundsTo md neg m w l) : l ≤ k := by
  refine Nat.le_of_not_lt fun lt => ?_
  have apart : k * w + w ≤ l * w := Nat.succ_mul k w ▸ Nat.mul_le_mul_right w lt
  cases md with
  | rne =>
    obtain ⟨-, above, tieK⟩ := hk
    obtain ⟨below, -, tieL⟩ := hl
    have next : l = k + 1 := Nat.eq_of_mul_eq_mul_right pos (by rw [Nat.succ_mul]; omega)
    have evenK := tieK (.inr (by omega))
    have evenL := tieL (.inl (by omega))
    omega
  | _ => cases neg <;> simp only [roundsTo, Nat.succ_mul, Bool.false_eq_true, reduceIte] at hk hl <;> omega

/-- A mode chooses at most one count. -/
theorem roundsTo_unique {md : RMode} {neg : Bool} {m w k l : Nat} (pos : 0 < w) (hk : roundsTo md neg m w k) (hl : roundsTo md neg m w l) : k = l :=
  Nat.le_antisymm (roundsTo_le pos hl hk) (roundsTo_le pos hk hl)

/-- What a mode chooses does not depend on the scale in which the magnitude and the unit are counted. -/
theorem roundsTo_scale {md : RMode} {neg : Bool} {m w k c : Nat} (pos : 0 < c) : roundsTo md neg (m * c) (w * c) k ↔ roundsTo md neg m w k := by
  have le (x y : Nat) : x * c ≤ y * c ↔ x ≤ y := Nat.mul_le_mul_right_iff pos
  have lt (x y : Nat) : x * c < y * c ↔ x < y := Nat.mul_lt_mul_right pos
  have eq (x y : Nat) : x * c = y * c ↔ x = y := Nat.mul_left_inj (Nat.ne_of_gt pos)
  cases md <;> cases neg <;> simp only [roundsTo, ← Nat.mul_assoc, ← Nat.add_mul, le, lt, eq, Bool.false_eq_true, reduceIte]

/-! What the model's rounding computes (R72). -/

/-- Whether a mode moves a quotient `k` with a remainder 0 < `r` < `w` up to the next count. -/
def roundsUp (md : RMode) (neg : Bool) (w k r : Nat) : Bool :=
  match md with
  | .rne => w < 2 * r || (2 * r == w && k % 2 == 1)
  | .rna => w ≤ 2 * r
  | .rtz => false
  | .rup => !neg
  | .rdn => neg

theorem roundQ_of_le (md : RMode) (neg : Bool) (m : Nat) {e q : Int} (h : q ≤ e) : roundQ md neg m e q = (m * 2 ^ (e - q).toNat, false) :=
  if_pos h

theorem roundQ_of_lt (md : RMode) (neg : Bool) (m : Nat) {e q : Int} (h : e < q) {w : Nat} (unit : 2 ^ (q - e).toNat = w) :
    roundQ md neg m e q =
      if m % w = 0 then (m / w, false) else (if roundsUp md neg w (m / w) (m % w) then m / w + 1 else m / w, true) := by
  subst unit
  rw [roundQ, if_neg (Int.not_le.mpr h)]
  cases md <;> rfl

/-- The neighbour that `roundsUp` takes is the one the mode chooses. -/
theorem roundsTo_roundsUp (md : RMode) (neg : Bool) {w k r : Nat} (pos : 0 < r) (lt : r < w) :
    roundsTo md neg (k * w + r) w (if roundsUp md neg w k r then k + 1 else k) := by
  cases md with
  | rtz =>
    simp only [roundsUp, roundsTo, Nat.succ_mul, Bool.false_eq_true, reduceIte]
    omega
  | rup | rdn => cases neg <;> simp only [roundsUp, roundsTo, Nat.succ_mul, Bool.not_true, Bool.not_false, Bool.false_eq_true, reduceIte] <;> omega
  | rne | rna =>
    split
    all_goals
      rename_i up
      simp only [roundsUp, Bool.or_eq_true, Bool.and_eq_true, decide_eq_true_eq, beq_iff_eq] at up
      simp only [roundsTo, Nat.succ_mul]
      omega

/-- Neither neighbour is the magnitude that lies between them. -/
theorem neighbour_ne {w k r : Nat} (pos : 0 < r) (lt : r < w) (up : Bool) : (if up then k + 1 else k) * w ≠ k * w + r := by
  cases up <;> simp only [Nat.succ_mul, Bool.false_eq_true, reduceIte] <;> omega

/-- Rounding to a coarser unit chooses by the mode, and says whether the result differs. -/
theorem roundQ_spec (md : RMode) (neg : Bool) (m : Nat) {e q : Int} (h : e < q) :
    let r := roundQ md neg m e q
    roundsTo md neg m (2 ^ (q - e).toNat) r.1 ∧ (r.2 = true ↔ r.1 * 2 ^ (q - e).toNat ≠ m) := by
  generalize unit : 2 ^ (q - e).toNat = w
  have wpos : 0 < w := unit ▸ Nat.two_pow_pos _
  have parts : m / w * w + m % w = m := Nat.div_add_mod' m w
  rw [roundQ_of_lt md neg m h unit]
  by_cases whole : m % w = 0
  · have hits : m / w * w = m := by omega
    have self := roundsTo_mul_self md neg wpos (m / w)
    rw [hits] at self
    rw [if_pos whole]
    exact ⟨self, iff_of_false Bool.false_ne_true fun differs => differs hits⟩
  · have pos : 0 < m % w := Nat.pos_of_ne_zero whole
    have lt : m % w < w := Nat.mod_lt m wpos
    have chosen := roundsTo_roundsUp md neg (k := m / w) pos lt
    have differs := neighbour_ne (k := m / w) pos lt (roundsUp md neg w (m / w) (m % w))
    rw [parts] at chosen differs
    rw [if_neg whole]
    exact ⟨chosen, iff_of_true rfl differs⟩

/-- Rounding to a whole number, with the magnitude counted in units of 2^-`j`. -/
theorem roundQ_whole (md : RMode) (neg : Bool) (m : Nat) {e : Int} {j : Nat} (scale : 0 ≤ e + j) :
    roundsTo md neg (m * 2 ^ (e + j).toNat) (2 ^ j) (roundQ md neg m e 0).1 ∧
      ((roundQ md neg m e 0).2 = true ↔ (roundQ md neg m e 0).1 * 2 ^ j ≠ m * 2 ^ (e + j).toNat) := by
  by_cases part : e < 0
  · have cpos : 0 < 2 ^ (e + j).toNat := Nat.two_pow_pos _
    have unit : 2 ^ j = 2 ^ (0 - e).toNat * 2 ^ (e + j).toNat := by
      rw [← Nat.pow_add]
      congr 1
      omega
    obtain ⟨chosen, differs⟩ := roundQ_spec md neg m part
    rw [unit, roundsTo_scale cpos, differs, ← Nat.mul_assoc, Ne, Ne, Nat.mul_left_inj (Nat.ne_of_gt cpos)]
    exact ⟨chosen, Iff.rfl⟩
  · have whole : 0 ≤ e := Int.not_lt.mp part
    have mag : m * 2 ^ (e + j).toNat = m * 2 ^ (e - 0).toNat * 2 ^ j := by
      rw [Nat.mul_assoc, ← Nat.pow_add]
      congr 2
      omega
    rw [roundQ_of_le md neg m whole, mag]
    exact ⟨roundsTo_mul_self md neg (Nat.two_pow_pos j) _, iff_of_false Bool.false_ne_true fun differs => differs rfl⟩

/-! ToInt (R73). -/

theorem two_pow_bitLen_le {m : Nat} (h : m ≠ 0) : 2 ^ (bitLen m - 1) ≤ m := by
  rw [bitLen, if_neg h]
  exact Nat.log2_self_le h

/-- A magnitude with more than 256 bits before its point rounds to a count past the bounds of every width of R73. -/
theorem two_pow_le_of_roundsTo {md : RMode} {neg : Bool} {m k j : Nat} {e : Int} (scale : 0 ≤ e + j) (long : m ≠ 0 ∧ 256 < (bitLen m : Int) + e)
    (h : roundsTo md neg (m * 2 ^ (e + j).toNat) (2 ^ j) k) : 2 ^ 256 ≤ k := by
  have unit : 0 < 2 ^ j := Nat.two_pow_pos j
  obtain ⟨nonzero, long⟩ := long
  obtain ⟨near, -⟩ := roundsTo_near unit h
  have large : 2 ^ 256 * 2 ^ j ≤ m * 2 ^ (e + j).toNat := calc
    2 ^ 256 * 2 ^ j = 2 ^ (256 + j) := (Nat.pow_add ..).symm
    _ ≤ 2 ^ (bitLen m - 1 + (e + j).toNat) := Nat.pow_le_pow_right (by decide) (by omega)
    _ = 2 ^ (bitLen m - 1) * 2 ^ (e + j).toNat := Nat.pow_add ..
    _ ≤ _ := Nat.mul_le_mul_right _ (two_pow_bitLen_le nonzero)
  exact Nat.le_of_lt_succ (Nat.lt_of_mul_lt_mul_right (Nat.lt_of_le_of_lt large near))

/-- The result and the flags of ToInt for a value that rounds to `n` (R73): the bound past it, or `n` itself. -/
def saturated (w : Nat) (n : Int) (inexact : Prop) [Decidable inexact] : Int × IFl :=
  if 2 ^ (w - 1) - 1 < n then (2 ^ (w - 1) - 1, 1) else if n < -2 ^ (w - 1) then (-2 ^ (w - 1), 1) else (n, if inexact then 16 else 0)

theorem saturated_of_huge {w k : Nat} (neg : Bool) (small : w ≤ 64) (huge : 2 ^ 256 ≤ k) (inexact : Prop) [Decidable inexact] :
    saturated w (if neg then -(k : Int) else k) inexact = (if neg then -2 ^ (w - 1) else 2 ^ (w - 1) - 1, 1) := by
  have past : (2 : Int) ^ (w - 1) < k := mod_cast Nat.lt_of_lt_of_le (Nat.pow_lt_pow_right (by decide) (by omega)) huge
  have pos : (0 : Int) < 2 ^ (w - 1) := Int.pow_pos (by decide)
  cases neg with
  | false => exact if_pos (show (2 : Int) ^ (w - 1) - 1 < k by omega)
  | true =>
    have above : ¬ (2 : Int) ^ (w - 1) - 1 < -k := by omega
    have below : -(k : Int) < -2 ^ (w - 1) := by omega
    exact (if_neg above).trans (if_pos below)

theorem toIntN_of_long (w : Nat) (md : RMode) (neg : Bool) {m : Nat} {e : Int} (long : m ≠ 0 ∧ 256 < (bitLen m : Int) + e) :
    toIntN w md (.fin neg m e) = (if neg then -2 ^ (w - 1) else 2 ^ (w - 1) - 1, 1) :=
  if_pos long

theorem toIntN_of_short (w : Nat) (md : RMode) (neg : Bool) {m : Nat} {e : Int} (short : ¬ (m ≠ 0 ∧ 256 < (bitLen m : Int) + e)) :
    toIntN w md (.fin neg m e) =
      saturated w (if neg then -((roundQ md neg m e 0).1 : Int) else (roundQ md neg m e 0).1) ((roundQ md neg m e 0).2 = true) :=
  if_neg short

/-- ToInt of a finite value is the whole count its mode chooses, saturated (R73). -/
theorem toIntN_fin {w : Nat} {md : RMode} {neg : Bool} {m k j : Nat} {e : Int} (small : w ≤ 64) (scale : 0 ≤ e + j)
    (h : roundsTo md neg (m * 2 ^ (e + j).toNat) (2 ^ j) k) :
    toIntN w md (.fin neg m e) = saturated w (if neg then -(k : Int) else k) (k * 2 ^ j ≠ m * 2 ^ (e + j).toNat) := by
  by_cases long : m ≠ 0 ∧ 256 < (bitLen m : Int) + e
  · rw [toIntN_of_long w md neg long, saturated_of_huge neg small (two_pow_le_of_roundsTo scale long h)]
  · obtain ⟨chosen, differs⟩ := roundQ_whole md neg m scale
    obtain rfl := roundsTo_unique (Nat.two_pow_pos j) chosen h
    simp only [toIntN_of_short w md neg long, differs]

/-- Settles O6: the model's rounding is the count that the mode chooses, which is one, and ToInt saturates it. -/
theorem roundingAndToInteger : Obligations.RoundingAndToInteger := by
  refine ⟨fun md neg m e q => ⟨roundQ_of_le md neg m, roundQ_spec md neg m⟩, fun w md _ small => ⟨fun _ => rfl, fun _ => rfl, ?_⟩⟩
  intro neg m e j k scale mag n chosen
  exact toIntN_fin small scale chosen

end Sys2Proof.Machine
end

section
/-! What every step keeps (O59): the canonical form through states, meanings of instructions, and outcomes. -/
namespace Sys2Proof.Machine

variable {s : State} {α β : Type}

/-! States that differ in no table, in some bytes of memory, or by a choice. -/

/-- Nothing but the four tables counts: a state with the same four is as tidy. -/
@[simp] theorem Tidy.rest (w : Tidy s) {poison : List Nat} {xl : XlSt} {eng : EngSt} {tr : TreasSt} {tm : TimeSt} {snap : SnapSt} {sec : SecSt}
    {fab : FabSt} {pwr : PwrSt} {time : Word} {real modid : Nat} {cur : Cur} {agenda : List Turn} {now picks : Nat} :
    Tidy ⟨s.mem, poison, s.slots, s.cores, s.clus, xl, eng, tr, tm, snap, sec, fab, pwr, time, real, modid, cur, agenda, now, picks⟩ :=
  ⟨w.mem, w.slots, w.cores, w.clus⟩

theorem Tidy.store (w : Tidy s) (k : Nat) (bs : List Byte) {poison : List Nat} {xl : XlSt} {eng : EngSt} {tr : TreasSt} {tm : TimeSt} {snap : SnapSt}
    {sec : SecSt} {fab : FabSt} {pwr : PwrSt} {time : Word} {real modid : Nat} {cur : Cur} {agenda : List Turn} {now picks : Nat} :
    Tidy ⟨setBytes s.mem k bs, poison, s.slots, s.cores, s.clus, xl, eng, tr, tm, snap, sec, fab, pwr, time, real, modid, cur, agenda, now, picks⟩ :=
  ⟨wf_setBytes w.mem k bs, w.slots, w.cores, w.clus⟩

@[simp] theorem tidy_ite {p : Prop} [Decidable p] {a b : State} : Tidy (if p then a else b) ↔ (p → Tidy a) ∧ (¬p → Tidy b) := by
  split <;> simp_all

theorem Tidy.getD (w : Tidy s) {o : Option State} (h : ∀ u, o = some u → Tidy u) : Tidy (o.getD s) := by
  cases o with
  | none => exact w
  | some u => exact h u rfl

theorem Tidy.of_snd {p : α × State} (h : Tidy p.2) {a : α} (e : p = (a, s)) : Tidy s := by rwa [e] at h

theorem Tidy.of_fst {p : State × α} (h : Tidy p.1) {a : α} (e : p = (s, a)) : Tidy s := by rwa [e] at h

theorem Tidy.foldl {f : State → β → State} (h : ∀ s b, Tidy s → Tidy (f s b)) (l : List β) (w : Tidy s) : Tidy (l.foldl f s) := by
  induction l generalizing s with
  | nil => exact w
  | cons b l ih => exact ih (h s b w)

/-- A computation that may fail leaves a tidy state where it succeeds. -/
def TidyOk {ε : Type} (r : Except ε State) : Prop := ∀ u, r = .ok u → Tidy u

/-! Tables from which entries are dropped, or whose entries are changed. -/

theorem twfFrom_filter [DecidableEq α] {d : α} (p : Nat × α → Bool) : ∀ {t : List (Nat × α)} {n : Nat},
    twfFrom d n t = true → twfFrom d n (t.filter p) = true
  | [], _, h => h
  | (j, v) :: t, n, h => by
    simp only [twfFrom, Bool.and_eq_true, decide_eq_true_eq] at h
    obtain ⟨⟨lo, ne⟩, rest⟩ := h
    have ih := twfFrom_filter p rest
    rw [List.filter_cons]
    split
    · simp [twfFrom, lo, ne, ih]
    · exact twfFrom_mono (by omega) ih

theorem twf_filter [DecidableEq α] {d : α} {p : Nat × α → Bool} {t : List (Nat × α)} (h : twf d t = true) : twf d (t.filter p) = true :=
  twfFrom_filter p h

theorem twfFrom_map_filter [DecidableEq α] {d : α} {f : α → α} : ∀ {t : List (Nat × α)} {n : Nat}, twfFrom d n t = true →
    twfFrom d n ((t.map (fun x => (x.1, f x.2))).filter (fun x => x.2 != d)) = true
  | [], _, h => h
  | (j, v) :: t, n, h => by
    simp only [twfFrom, Bool.and_eq_true, decide_eq_true_eq] at h
    obtain ⟨⟨lo, -⟩, rest⟩ := h
    have ih := twfFrom_map_filter (f := f) rest
    rw [List.map_cons, List.filter_cons]
    split
    · next hv => simp_all [twfFrom]
    · exact twfFrom_mono (by omega) ih

theorem twf_map_filter [DecidableEq α] {d : α} {f : α → α} {t : List (Nat × α)} (h : twf d t = true) :
    twf d ((t.map (fun x => (x.1, f x.2))).filter (fun x => x.2 != d)) = true := twfFrom_map_filter h

theorem twfFrom_map [DecidableEq α] {d : α} {f : α → α} (ne : ∀ x, f x = d → x = d) : ∀ {t : List (Nat × α)} {n : Nat}, twfFrom d n t = true →
    twfFrom d n (t.map (fun x => (x.1, f x.2))) = true
  | [], _, h => h
  | (j, v) :: t, n, h => by
    simp only [twfFrom, Bool.and_eq_true, decide_eq_true_eq] at h
    obtain ⟨⟨lo, hv⟩, rest⟩ := h
    simp only [List.map_cons, twfFrom, Bool.and_eq_true, decide_eq_true_eq]
    exact ⟨⟨lo, fun e => hv (ne v e)⟩, twfFrom_map ne rest⟩

theorem twf_map [DecidableEq α] {d : α} {f : α → α} (ne : ∀ x, f x = d → x = d) {t : List (Nat × α)} (h : twf d t = true) :
    twf d (t.map (fun x => (x.1, f x.2))) = true := twfFrom_map ne h

/-! Meanings: what a meaning goes on from, or stops with, is tidy where it started so. -/

/-- What a meaning stops with is tidy. -/
def TidyStop : Stop → Prop
  | .idle => True
  | .trap _ _ s | .wait _ s | .out s => Tidy s

/-- What a meaning comes to is tidy, whether it goes on or stops. -/
def TidyRes : Except Stop (α × State) → Prop
  | .ok r => Tidy r.2
  | .error e => TidyStop e

/-- The state an outcome goes on with is tidy. -/
def TidyOut : Out → Prop
  | .next s => Tidy s
  | .fault _ | .refused _ => True

/-- A meaning keeps the canonical form. -/
structure Keeps (m : M α) : Prop where
  res : ∀ s, Tidy s → TidyRes (m s)

@[simp] theorem tidyOut_next : TidyOut (.next s) ↔ Tidy s := .rfl
@[simp] theorem tidyOut_fault (f : Fault) : TidyOut (.fault f) := trivial
@[simp] theorem tidyOut_refused (r : Refusal) : TidyOut (.refused r) := trivial

@[simp] theorem keeps_pure (a : α) : Keeps (pure a : M α) := ⟨fun _ w => w⟩

theorem Keeps.bind {m : M α} {f : α → M β} (h : Keeps m) (k : ∀ a, Keeps (f a)) : Keeps (m >>= f) := by
  refine ⟨fun s w => ?_⟩
  have h := h.res s w
  cases e : m s with
  | ok r => rw [bind_ok e]; exact (k r.1).res r.2 (by rwa [e] at h)
  | error e' => rw [bind_stop e]; rwa [e] at h

/-- A meaning that asks the state for something goes on with what every tidy state answers. -/
theorem Keeps.ask_bind {f : State → α} {k : α → M β} {P : α → Prop} (h : ∀ s, Tidy s → P (f s)) (hk : ∀ a, P a → Keeps (k a)) :
    Keeps (ask f >>= k) := by
  refine ⟨fun s w => ?_⟩
  rw [bind_ok (show ask f s = .ok (f s, s) from rfl)]
  exact (hk _ (h s w)).res s w

/-! The steps a meaning is made of. -/

@[simp] theorem Tidy.pass (w : Tidy s) (n : Nat) : Tidy (s.pass n) := w.modThread ..
@[simp] theorem Tidy.setWait (w : Tidy s) (c sl : Nat) (x : Wait) : Tidy (setWait s c sl x) := w.modThread ..

@[simp] theorem keeps_trap (c : Nat) (i : Word) : Keeps (trap c i : M α) := ⟨fun _ w => w⟩
@[simp] theorem keeps_waitOn (x : Wait) : Keeps (waitOn x : M α) := ⟨fun _ w => w⟩
@[simp] theorem keeps_done : Keeps (done : M α) := ⟨fun _ w => w⟩
@[simp] theorem keeps_idle : Keeps (fun _ => .error .idle : M α) := ⟨fun _ _ => trivial⟩
@[simp] theorem keeps_me : Keeps me := ⟨fun _ w => w⟩
@[simp] theorem keeps_th : Keeps th := by
  refine ⟨fun s w => ?_⟩
  simp only [th]
  split
  · exact w
  · trivial
@[simp] theorem keeps_modTh (f : Thread → Thread) : Keeps (modTh f) := ⟨fun _ w => w.modThread ..⟩
@[simp] theorem keeps_modSlot (f : SlotSt → SlotSt) : Keeps (modSlot f) := ⟨fun _ w => w.setSlot ..⟩
@[simp] theorem keeps_ask (f : State → α) : Keeps (ask f) := ⟨fun _ w => w⟩
@[simp] theorem keeps_upd {f : State → State} : Keeps (upd f) ↔ ∀ s, Tidy s → Tidy (f s) := ⟨fun h => h.res, fun h => ⟨h⟩⟩
@[simp] theorem keeps_step1 {f : State → α × State} : Keeps (step1 f) ↔ ∀ s, Tidy s → Tidy (f s).2 := ⟨fun h => h.res, fun h => ⟨h⟩⟩
theorem Keeps.onTrap {f : State → State} {m : M α} (k : ∀ s, Tidy s → Tidy (f s)) (h : Keeps m) : Keeps (onTrap f m) := by
  refine ⟨fun s w => ?_⟩
  have h := h.res s w
  unfold Machine.onTrap
  split
  · next e => rw [e] at h; exact k _ h
  · exact h
@[simp] theorem keeps_outOfRange (b : Nat) : Keeps (outOfRange b : M α) := ⟨fun _ w => w⟩
@[simp] theorem keeps_need (ok : Bool) (c : Nat) (i : Word) : Keeps (need ok c i) := by
  unfold need
  split
  · exact keeps_pure _
  · exact keeps_trap ..
@[simp] theorem keeps_chk (l : List FReg) : Keeps (chk l) := by
  refine ⟨fun s w => ?_⟩
  simp only [chk]
  split <;> exact w
@[simp] theorem keeps_rd (r : WReg) : Keeps (rd r) := by
  refine ⟨fun s w => ?_⟩
  simp only [rd]
  split
  · trivial
  · split
    · split <;> exact w
    · exact w
@[simp] theorem keeps_needDst (r : WReg) : Keeps (needDst r) := by
  refine ⟨fun s w => ?_⟩
  simp only [needDst]
  split
  · trivial
  · split <;> exact w
@[simp] theorem keeps_wr (r : WReg) (v : Word) : Keeps (wr r v) := ⟨fun _ w => w.setReg ..⟩
@[simp] theorem keeps_wrLate (r : WReg) (v : Word) : Keeps (wrLate r v) := keeps_modTh _
@[simp] theorem keeps_iaddr : Keeps iaddr := by
  refine ⟨fun s w => ?_⟩
  simp only [iaddr]
  split
  · exact w
  · trivial
@[simp] theorem keeps_fin (n : Nat) : Keeps (fin n) := ⟨fun _ w => w.pass n⟩
@[simp] theorem keeps_finWait (n : Nat) (x : Wait) : Keeps (finWait n x) := ⟨fun _ w => (w.pass n).setWait ..⟩
@[simp] theorem keeps_setFlags (f : Flags) : Keeps (setFlags f) := keeps_modTh _
@[simp] theorem keeps_jump (t : Word) : Keeps (jump t) := keeps_modTh _
@[simp] theorem keeps_checkTarget (t : Word) : Keeps (checkTarget t) := (keeps_need ..).bind fun _ => keeps_need ..

/-- A meaning written as a sequence of steps, with its choices between sequences, keeps the canonical form where each step does: a step is one of the
above or one with a lemma of its own, and a change of the state is one of the rules of the state or one with a lemma of its own. -/
theorem Keeps.steps {m : M α} (h : Keeps m := by
    repeat' first
      | with_reducible refine Keeps.bind ?_ fun _ => ?_
      | split
      | simp +contextual [*, Tidy.setSlot, Tidy.setCore, Tidy.setClu, Tidy.setW64, Tidy.modThread, Tidy.put, Tidy.report, Tidy.takeTrap, Tidy.trace,
          Tidy.snapTrigger, Tidy.dropLine]) : Keeps m := h

theorem Tidy.run (w : Tidy s) {m : M Unit} (h : Keeps m) : TidyOut (run m s) := by
  have h := h.res s w
  unfold Machine.run
  split <;> simp_all [TidyRes, TidyStop, Tidy.takeTrap]

end Sys2Proof.Machine
end

section
/-! The canonical form through the operations of the state, the memory and the blocks, and through the instructions of a core (O59). -/
set_option Elab.async false

namespace Sys2Proof.Machine

variable {s : State} {c sl k n j q core slot id cause off pa line page tile cell die token port lo hi tenant tslot : Nat} {a b d e : WReg}
  {v h ea tid info w0 w1 det2 entry : Word} {bs data : List Byte} {i : Imm} {o : VOps} {r : OrdScope} {sc : Scope} {p : Party} {sz : Size}
  {t : Thread} {err lost kernel exited : Bool}

/-! The parts of the state (R18, R21, R22, R28). -/

@[simp] theorem Tidy.setShadow (w : Tidy s) : Tidy (State.setShadow s c sl off v) := w.setW64 ..
@[simp] theorem Tidy.modSpilled (w : Tidy s) {f : Spilled → Spilled} : Tidy (State.modSpilled s tid f) := w.setCore ..

@[simp] theorem Tidy.modTid (w : Tidy s) {f : Thread → Thread} : Tidy (State.modTid s tid f) := by
  unfold State.modTid
  split
  · exact w.modThread ..
  · exact w.modSpilled

@[simp] theorem Tidy.pick (w : Tidy s) : Tidy (State.pick s).2 := by
  unfold State.pick
  exact w.rest

@[simp] theorem Tidy.setIsl (w : Tidy s) {x : Isl} : Tidy (State.setIsl s n x) := w.rest

/-! Trace records and snapshots (R354-R360). -/

@[simp] theorem Tidy.traceFor (w : Tidy s) {code aux : Nat} {a b : Word} : Tidy (State.traceFor s core slot code aux a b) := w.trace ..
@[simp] theorem Tidy.traceSys (w : Tidy s) {code aux : Nat} {a b : Word} : Tidy (State.traceSys s code aux a b) := w.traceFor

@[simp] theorem Tidy.snapCause (w : Tidy s) : Tidy (snapCause s cause tid core slot) := by
  unfold Machine.snapCause
  split
  · exact w.snapTrigger ..
  · exact w

/-! Exceptions, and the frame of a meaning (R281-R285). -/

@[simp] theorem Tidy.enterKernel (w : Tidy s) {ret : Word} : Tidy (enterKernel s c sl t cause info ret) := w.setSlot ..

@[simp] theorem Tidy.trapEntry (w : Tidy s) {ret at_ : Word} : Tidy (trapEntry s c sl cause info ret at_) := by
  unfold Machine.trapEntry
  split
  · exact w
  · dsimp only
    split
    · exact (w.noteTrap ..).haltThread ..
    · split
      · split
        · exact ((w.noteTrap ..).enterKernel.report ..).haltThread ..
        · exact (w.noteTrap ..).enterKernel.haltThread ..
      · split
        · exact (w.noteTrap ..).enterKernel.report ..
        · exact (w.noteTrap ..).enterKernel

@[simp] theorem keeps_onTrap {f : State → State} {m : M α} (k : ∀ s, Tidy s → Tidy (f s)) (h : Keeps m) : Keeps (onTrap f m) := h.onTrap k

@[simp] theorem Tidy.takeReply (w : Tidy s) : Tidy (takeReply s c sl) := by
  unfold Machine.takeReply
  split
  · exact w
  · exact (Tidy.foldl (fun _ _ w => w.setReg ..) _ w).modThread ..

@[simp] theorem Tidy.leaveKernel (w : Tidy s) : Tidy (leaveKernel s c sl t) := w.setSlot ..

/-! FLAGS, IFLAGS and the OR tree (R77, R78). -/

@[simp] theorem Tidy.treeRaise1 (w : Tidy s) {f : Nat} : Tidy (treeRaise1 s n core slot f) := by
  unfold Machine.treeRaise1
  dsimp only
  split
  · split
    · exact w.setClu ..
    · exact (w.setClu ..).trace ..
  · split
    · exact w.setClu ..
    · exact (w.setClu ..).trace ..

@[simp] theorem Tidy.treeClear1 (w : Tidy s) {f : Nat} : Tidy (treeClear1 s n f) := by
  unfold Machine.treeClear1
  dsimp only
  split
  · split
    · exact w.setClu ..
    · exact (w.setClu ..).trace ..
  · exact w.setClu ..

@[simp] theorem Tidy.treeClear (w : Tidy s) {m : IFl} : Tidy (treeClear s n m) := by
  refine Tidy.foldl (fun s f w => ?_) _ w
  split
  · exact w.treeClear1
  · exact w

@[simp] theorem Tidy.treeRaise (w : Tidy s) {m : IFl} : Tidy (treeRaise s n core slot m) := by
  unfold Machine.treeRaise
  split
  · exact w
  · refine Tidy.foldl (fun s f w => ?_) _ w
    split
    · exact w.treeRaise1
    · exact w

@[simp] theorem Tidy.raiseAt (w : Tidy s) {m : IFl} : Tidy (raiseAt s c sl m) := by
  unfold Machine.raiseAt
  split
  · exact w
  · exact (w.modThread ..).treeRaise

@[simp] theorem keeps_raise {m : IFl} : Keeps (raise m) := ⟨fun _ w => w.raiseAt⟩

/-! Scalar floating point (R134-R136). -/

@[simp] theorem keeps_flt3 {g : FFmt → RMode → Num → Num → Nat × IFl} {t : FFmt} : Keeps (flt3 g t d a b) := by
  unfold Machine.flt3
  exact .steps

@[simp] theorem Tidy.execFadd (w : Tidy s) {t : FFmt} : TidyOut (execFadd t d a b s) := w.run .steps
@[simp] theorem Tidy.execFsub (w : Tidy s) {t : FFmt} : TidyOut (execFsub t d a b s) := w.run .steps
@[simp] theorem Tidy.execFmul (w : Tidy s) {t : FFmt} : TidyOut (execFmul t d a b s) := w.run .steps
@[simp] theorem Tidy.execFdiv (w : Tidy s) {t : FFmt} : TidyOut (execFdiv t d a b s) := w.run .steps
@[simp] theorem Tidy.execFmin (w : Tidy s) {t : FFmt} : TidyOut (execFmin t d a b s) := w.run .steps
@[simp] theorem Tidy.execFmax (w : Tidy s) {t : FFmt} : TidyOut (execFmax t d a b s) := w.run .steps
@[simp] theorem Tidy.execFsqrt (w : Tidy s) {t : FFmt} : TidyOut (execFsqrt t d a s) := w.run .steps
@[simp] theorem Tidy.execFma (w : Tidy s) {t : FFmt} : TidyOut (execFma t d a b s) := w.run .steps
@[simp] theorem Tidy.execFcmp (w : Tidy s) {t : FFmt} : TidyOut (execFcmp t a b s) := w.run .steps
@[simp] theorem Tidy.execFabs (w : Tidy s) {t : FFmt} : TidyOut (execFabs t d a s) := w.run .steps
@[simp] theorem Tidy.execFneg (w : Tidy s) {t : FFmt} : TidyOut (execFneg t d a s) := w.run .steps
@[simp] theorem Tidy.execFcvt (w : Tidy s) {dst src : ETy} : TidyOut (execFcvt dst src d a s) := w.run .steps

/-! Translation (R301-R306). -/

@[simp] theorem Tidy.noteWalk (w : Tidy s) {va : Nat} : Tidy (noteWalk s die id slot va) := by
  unfold Machine.noteWalk
  dsimp only
  split
  · exact w
  · exact w.rest

@[simp] theorem Tidy.leafOf (w : Tidy s) {va : Nat} : Tidy (leafOf s c slot va).2 := by
  unfold Machine.leafOf
  dsimp only
  split
  · exact w
  · split
    · exact w.setCore ..
    · split
      · exact w
      · exact (w.noteWalk.setCore ..).setClu ..

@[simp] theorem Tidy.noteLeaf (w : Tidy s) {va : Nat} : Tidy (noteLeaf s n id slot va) := by
  unfold Machine.noteLeaf
  split
  · exact w
  · split
    · exact w
    · exact w.noteWalk.setClu ..

@[simp] theorem Tidy.translate (w : Tidy s) {va : Nat} {user esc : Bool} {acc : Acc} : Tidy (translate s c slot va user esc acc).2 := by
  unfold Machine.translate
  split
  · next e => exact w.leafOf.of_snd e
  · next e => exact w.leafOf.of_snd e
  · next e => exact w.leafOf.of_snd e

@[simp] theorem Tidy.resolve (w : Tidy s) {esc : Bool} {acc : Acc} : Tidy (resolve s c sl kernel esc acc ea n).2 := by
  unfold Machine.resolve
  split
  · exact w
  · split
    · exact w
    · split
      · exact w
      · split
        · next e => exact w.translate.of_snd e
        · next e => exact w.translate.of_snd e

@[simp] theorem Tidy.writeClear (w : Tidy s) : Tidy (State.writeClear s k bs) := w.store ..

@[simp] theorem keeps_locate {acc : Acc} {align : Nat} : Keeps (locate acc ea n align) := by
  unfold Machine.locate
  exact .steps

@[simp] theorem keeps_poisonCheck : Keeps (poisonCheck k ea) := by
  unfold Machine.poisonCheck
  exact .steps

/-! What anyone performs: writes, engine faults, completions and capture counts (R89, R286, R307, R333). -/

@[simp] theorem Tidy.setQueue (w : Tidy s) {x : Queue} : Tidy (State.setQueue s q x) := w.rest

@[simp] theorem Tidy.settleQueue (w : Tidy s) : Tidy (settleQueue s q) := by
  unfold Machine.settleQueue
  dsimp only
  split
  · exact w.setQueue.rest
  · exact w

@[simp] theorem Tidy.seen (w : Tidy s) : Tidy (seen s k n) := by
  unfold Machine.seen
  dsimp only
  split
  · exact w
  · exact Tidy.foldl (fun _ _ w => w.settleQueue) _ w.rest

@[simp] theorem Tidy.putNat (w : Tidy s) {v : Nat} : Tidy (State.putNat s k n v) := w.put ..
@[simp] theorem Tidy.putClear (w : Tidy s) : Tidy (State.putClear s k bs) := w.writeClear.seen

@[simp] theorem Tidy.putPieces : ∀ {l : List (Nat × Nat)} {s : State} {bs : List Byte}, Tidy s → Tidy (putPieces s l bs)
  | [], _, _, w => w
  | _ :: _, _, _, w => w.putClear.putPieces

theorem Tidy.writeBy (w : Tidy s) {f : Word → Except (Nat × Word × Nat) Nat} {u : State} (hu : writeBy s f ea bs = .ok u) : Tidy u := by
  unfold Machine.writeBy at hu
  split at hu
  · cases hu
  · cases hu; exact w.putPieces

theorem Tidy.engWrite (w : Tidy s) {u : State} (hu : engWrite s tenant kernel ea bs = .ok u) : Tidy u := w.writeBy hu

@[simp] theorem Tidy.noteUsed (w : Tidy s) {x : EngCtx} {eas : List Word} : Tidy (noteUsed s x eas) := by
  unfold Machine.noteUsed
  split
  · exact w
  · refine Tidy.foldl (fun s ea w => ?_) _ w
    split
    · exact w.noteLeaf
    · exact w

@[simp] theorem Tidy.queueWalk (w : Tidy s) {x : Walk} : Tidy (queueWalk s x) := by
  unfold Machine.queueWalk
  split
  · exact w.rest
  · split <;> exact w.rest

@[simp] theorem Tidy.unstall (w : Tidy s) : Tidy (unstall s) := Tidy.foldl (fun _ _ w => w.queueWalk) _ w.rest

@[simp] theorem Tidy.engFault (w : Tidy s) {eng : Nat} {pay addr : Word} : Tidy (engFault s core slot tid cause eng pay addr) := by
  unfold Machine.engFault
  dsimp only
  split
  · exact (w.trace ..).snapCause.report ..
  · exact (w.trace ..).snapCause

@[simp] theorem Tidy.postFault (w : Tidy s) {x : Walk} {reason : Nat} {at_ : Word} : Tidy (postFault s x reason at_) := by
  unfold Machine.postFault
  dsimp only
  split
  · exact w.rest
  · split
    · exact w.rest
    · exact (w.put ..).rest

@[simp] theorem Tidy.postHeld (w : Tidy s) : Tidy (postHeld s) := by
  refine Tidy.foldl (fun s f w => ?_) _ w.rest
  split
  · exact w.postFault
  · exact w

@[simp] theorem Tidy.pushDone (w : Tidy s) : Tidy (pushDone s h v) := by
  unfold Machine.pushDone
  split
  · exact w
  · exact w.rest

@[simp] theorem Tidy.pushStopped (w : Tidy s) : Tidy (pushStopped s h) := by
  unfold Machine.pushStopped
  split
  · exact w
  · exact w.rest

@[simp] theorem Tidy.tevEvent (w : Tidy s) {kind code qb qa : Nat} {det : Word} : Tidy (tevEvent s kind code tslot qb qa det det2) := by
  unfold Machine.tevEvent
  have h : Tidy (s.traceSys 1 qa (wordOf (kind * 2 ^ 56 + code % 256 * 2 ^ 48 + tslot % 64 * 2 ^ 42 + qb % 1024 * 2 ^ 16 + qa % 1024)) det) := w.traceSys
  dsimp only
  split
  · exact h.rest
  · exact (h.put ..).rest

@[simp] theorem Tidy.setRc (w : Tidy s) {rc : Nat} : Tidy (setRc s h rc) := w.setW64 ..
@[simp] theorem Tidy.takeCount (w : Tidy s) : Tidy (takeCount s h) := w.setRc
@[simp] theorem Tidy.freeRecord (w : Tidy s) {env : Nat} : Tidy (freeRecord s core env) := w.store ..

@[simp] theorem Tidy.dropCount (w : Tidy s) : Tidy (dropCount s h) := by
  unfold Machine.dropCount
  split
  · split
    · exact w.freeRecord
    · exact w.setRc
  · exact w

@[simp] theorem Tidy.endFrame (w : Tidy s) {wp : Nat} : Tidy (endFrame s core wp) := by
  unfold Machine.endFrame
  refine Tidy.foldl (fun s i w => ?_) _ w
  dsimp only
  split
  · exact w.setW64 ..
  · exact w

@[simp] theorem Tidy.dropTlb (w : Tidy s) {p : TlbEnt → Bool} {q : WalkEnt → Bool} : Tidy (dropTlb s p q) := by
  unfold Machine.dropTlb
  exact ⟨w.mem, w.slots, twf_map_filter (f := fun x : CoreSt => { x with tlb := x.tlb.filter (fun e => !p e) }) w.cores,
    twf_map_filter (f := fun x : CluSt => { x with tlb := x.tlb.filter (fun e => !p e) }) w.clus⟩

@[simp] theorem Tidy.dropPage (w : Tidy s) {va : Nat} : Tidy (dropPage s tenant va) := w.dropTlb

/-! The creation of a thread (R33, R36, R59). -/

@[simp] theorem Tidy.setRegs {c wp : Nat} : ∀ {l : List (Nat × Word)} {s : State}, Tidy s → Tidy (setRegs s c wp l)
  | [], _, w => w
  | _ :: _, _, w => (w.setW64 ..).setRegs

@[simp] theorem Tidy.zeroWin (w : Tidy s) {o : Nat} : Tidy (zeroWin s c o n) := w.store ..

@[simp] theorem Tidy.createIn (w : Tidy s) {o size : Nat} {regs : List (Nat × Word)} {origin : Origin} {floors : Floors} :
    Tidy (createIn s c sl o entry size kernel regs origin floors) := Tidy.setSlot (Tidy.setRegs w.zeroWin.zeroWin) ..

theorem Tidy.create (w : Tidy s) {size : Nat} {regs : List (Nat × Word)} {origin : Origin} {floors : Floors}
    {u : State × Nat} (hu : create s c entry size regs origin floors = some u) : Tidy u.1 := by
  unfold Machine.create at hu
  split at hu
  · cases hu; exact w.createIn
  · cases hu

@[simp] theorem Tidy.startHub (w : Tidy s) : Tidy (startHub s c entry w0 w1) := Tidy.setRegs (Tidy.zeroWin (Tidy.modThread (Tidy.createIn (w.setSlot ..)) ..))
@[simp] theorem Tidy.startTreasury (w : Tidy s) : Tidy (startTreasury s entry w0 w1) := Tidy.foldl (fun _ _ w => w.startHub) _ w
@[simp] theorem Tidy.stopTreasury (w : Tidy s) : Tidy (stopTreasury s) := Tidy.foldl (fun _ _ w => w.setSlot ..) _ (w.setCore ..)

/-! The escrow cells (R262-R268). -/

@[simp] theorem Tidy.setCell (w : Tidy s) {x : Cell} : Tidy (State.setCell s n x) := w.rest
@[simp] theorem Tidy.setEcls (w : Tidy s) : Tidy (State.setEcls s k v) := w.rest

@[simp] theorem Tidy.setPage (w : Tidy s) {i : Nat} {g : Page} : Tidy (setPage s n i g) := by
  unfold Machine.setPage
  dsimp only
  split
  · exact w.setCell
  · exact w

@[simp] theorem Tidy.startMove (w : Tidy s) {i : Nat} {g : Page} {dst : Tier} : Tidy (startMove s n i g dst) := by
  unfold Machine.startMove
  split
  · exact w.setPage.rest
  · exact w.setPage

@[simp] theorem Tidy.startMoves (w : Tidy s) {src dst : Tier} : Tidy (startMoves s n src dst) := by
  unfold Machine.startMoves
  split
  · exact w
  · refine Tidy.foldl (fun s i w => ?_) _ w
    split
    · split
      · exact w.startMove
      · exact w
    · exact w

@[simp] theorem Tidy.setEsc (w : Tidy s) {va : Word} {on : Bool} : Tidy (setEsc s tenant va on) := by
  unfold Machine.setEsc
  split
  · exact w
  · split
    · exact w
    · exact w.putNat.dropPage

@[simp] theorem Tidy.endHolding (w : Tidy s) {k : Park} : Tidy (endHolding s k) := Tidy.foldl (fun _ _ w => w.setEsc) _ w

@[simp] theorem Tidy.applyPark (w : Tidy s) : Tidy (applyPark s n) := by
  unfold Machine.applyPark
  split
  · exact w
  · split
    · exact w.endHolding.setCell.rest
    · exact w

@[simp] theorem Tidy.promote (w : Tidy s) : Tidy (promote s n) := by
  unfold Machine.promote
  split
  · exact w
  · refine Tidy.applyPark (Tidy.foldl (fun s i w => ?_) _ w)
    split
    · split
      · exact w.setPage
      · exact w
    · exact w

@[simp] theorem Tidy.promoteWoken (w : Tidy s) : Tidy (promoteWoken s n) := by
  unfold Machine.promoteWoken
  split
  · split
    · exact w.setCell.promote
    · exact w
  · exact w

@[simp] theorem Tidy.wakeWrite (w : Tidy s) : Tidy (wakeWrite s n v) := by
  unfold Machine.wakeWrite
  dsimp only
  split
  case h_1 => exact w.setCell
  case h_7 => exact w
  all_goals
    split
    · exact w
    · exact w.setCell.promoteWoken

@[simp] theorem Tidy.clearCell (w : Tidy s) : Tidy (clearCell s v) := by
  unfold Machine.clearCell
  split
  · exact w
  · dsimp only
    split
    · exact w.setCell
    · exact w.setCell
    · exact w.setCell
    · exact w

@[simp] theorem Tidy.poisonFrame (w : Tidy s) : Tidy (poisonFrame s pa) := w.rest

@[simp] theorem Tidy.carryPoison (w : Tidy s) {g g' : Page} : Tidy (carryPoison s g g').1 := by
  unfold Machine.carryPoison
  split
  · exact w
  · exact w.rest
  · exact w

@[simp] theorem Tidy.setFailPage (w : Tidy s) {i : Nat} {g : Page} : Tidy (setFailPage s j i g) := by
  unfold Machine.setFailPage
  split
  · exact w.rest
  · exact w

@[simp] theorem Tidy.failHome (w : Tidy s) : Tidy (failHome s j) := by
  unfold Machine.failHome
  split
  · split
    · exact w.endHolding.dropCount.rest
    · exact w
  · exact w

@[simp] theorem Tidy.bringHome (w : Tidy s) : Tidy (bringHome s j) := by
  unfold Machine.bringHome
  split
  · exact w
  · refine Tidy.failHome (Tidy.foldl (fun s i w => ?_) _ w)
    split
    · split
      · exact w.setFailPage
      · exact w
    · exact w

@[simp] theorem Tidy.mediaError (w : Tidy s) {i : Nat} : Tidy (mediaError s n i lost det2) := by
  unfold Machine.mediaError
  dsimp only
  split
  · exact w
  · split
    · split
      · exact w
      · split
        · exact w
        · split
          · exact w.poisonFrame.setCell.engFault.tevEvent.rest.bringHome
          · exact w.setCell.engFault.tevEvent.rest.bringHome
    · exact w

@[simp] theorem Tidy.failMove (w : Tidy s) {i : Nat} : Tidy (failMove s j i err lost) := by
  unfold Machine.failMove
  split
  · exact w
  · split
    · split
      · exact w.poisonFrame.setFailPage.bringHome
      · exact w.setFailPage.bringHome
    · split
      · next e => exact (w.carryPoison.of_fst e).setFailPage.bringHome

@[simp] theorem Tidy.moveDone (w : Tidy s) {i : Nat} : Tidy (moveDone s n i) := by
  unfold Machine.moveDone
  split
  · exact w
  · split
    · exact w
    · split
      · dsimp only
        split
        · next e _ => exact (w.carryPoison.of_fst e).setPage.promote
        · split
          · split
            · next e _ _ _ _ _ => exact (w.carryPoison.of_fst e).setPage.promoteWoken
            · next e _ _ _ _ _ => exact (w.carryPoison.of_fst e).setPage.setCell.promoteWoken
          · next e _ _ _ => exact (w.carryPoison.of_fst e).setPage

@[simp] theorem Tidy.execHbmDwellExpiry (w : Tidy s) : TidyOut (execHbmDwellExpiry cell s) := by
  unfold Machine.execHbmDwellExpiry
  dsimp only
  split
  · split
    · split
      · exact w.setCell.startMoves
      · exact w.startMoves
    · exact w
  · exact w

@[simp] theorem Tidy.execCxlDwellExpiry (w : Tidy s) : TidyOut (execCxlDwellExpiry cell s) := by
  unfold Machine.execCxlDwellExpiry
  dsimp only
  split
  · split
    · split
      · exact w.setCell.startMoves
      · exact w.startMoves
    · exact w
  · exact w

@[simp] theorem Tidy.endMove (w : Tidy s) {i : Nat} {p lost : Page → Bool} : Tidy (endMove s n i p err lost det2) := by
  unfold Machine.endMove
  split
  · split
    · exact w.mediaError
    · exact w.moveDone
  · split
    · exact w.failMove
    · exact w

@[simp] theorem Tidy.execPageMoveComplete (w : Tidy s) : TidyOut (execPageMoveComplete cell page err s) := w.endMove
@[simp] theorem Tidy.execPromotionStageComplete (w : Tidy s) : TidyOut (execPromotionStageComplete cell page err s) := w.endMove
@[simp] theorem Tidy.execFlashCommandCompletion (w : Tidy s) {status : Nat} : TidyOut (execFlashCommandCompletion cell page status s) := w.endMove

@[simp] theorem Tidy.execWakeWrite (w : Tidy s) : TidyOut (execWakeWrite cell v s) := by
  unfold Machine.execWakeWrite
  split
  · exact w.wakeWrite
  · exact w

@[simp] theorem Tidy.writeEscrow (w : Tidy s) {o : Nat} : Tidy (writeEscrow s o v) := by
  unfold Machine.writeEscrow
  split
  · exact w.rest
  · exact w.rest
  · exact w.clearCell
  · exact w

/-! Time, islands, eyes and the compressed store (R340-R342, R350-R353, R368, R369). -/

@[simp] theorem Tidy.advance (w : Tidy s) {dt d : Nat} : Tidy (advance s dt d) := w.rest
@[simp] theorem Tidy.passTime (w : Tidy s) {dt : Nat} : Tidy (passTime s dt) := w.rest.advance

@[simp] theorem Tidy.timeStep (w : Tidy s) : Tidy (timeStep s v) := by
  unfold Machine.timeStep
  split
  · exact w.rest
  · exact w

@[simp] theorem Tidy.writeTime (w : Tidy s) {o : Nat} : Tidy (writeTime s o v) := by
  unfold Machine.writeTime
  split
  · exact w.rest
  · split
    · exact w
    · exact w.rest
  · exact w.timeStep
  · exact w

@[simp] theorem Tidy.corrected (w : Tidy s) {src hops : Nat} {diff : Int} : Tidy (corrected s src hops diff) := w.rest
@[simp] theorem Tidy.execPpsEdge (w : Tidy s) : TidyOut (execPpsEdge s) := w.rest

@[simp] theorem Tidy.execTodMessage (w : Tidy s) {lo hi : Word} : TidyOut (execTodMessage lo hi s) := by
  unfold Machine.execTodMessage
  split
  · dsimp only
    split
    · exact w.rest
    · exact w.rest.corrected
  · exact w

@[simp] theorem Tidy.execTimeSourceLoss (w : Tidy s) : TidyOut (execTimeSourceLoss s) := by
  unfold Machine.execTimeSourceLoss
  split
  · exact w.rest
  · exact w

@[simp] theorem Tidy.execHoldoverLockExpiry (w : Tidy s) : TidyOut (execHoldoverLockExpiry s) := by
  unfold Machine.execHoldoverLockExpiry
  split
  · exact w.rest
  · exact w

@[simp] theorem Tidy.execTimeWrap (w : Tidy s) : TidyOut (execTimeWrap s) := w.advance

@[simp] theorem Tidy.execTimeMessageSend (w : Tidy s) : TidyOut (execTimeMessageSend port s) := by
  unfold Machine.execTimeMessageSend
  split
  · exact w.rest
  · exact w

@[simp] theorem Tidy.execTimeMessageReceive (w : Tidy s) {sent rtt : Word} : TidyOut (execTimeMessageReceive port sent rtt s) := by
  unfold Machine.execTimeMessageReceive
  split
  · exact w.corrected
  · exact w

@[simp] theorem Tidy.snapArm (w : Tidy s) : Tidy (snapArm s) := w.rest

@[simp] theorem Tidy.writeSnapctl (w : Tidy s) : Tidy (writeSnapctl s v) := by
  unfold Machine.writeSnapctl
  dsimp only
  split
  · split
    · exact w.rest.snapArm.snapTrigger ..
    · exact w.rest.snapTrigger ..
  · split
    · exact w.rest.snapArm
    · exact w.rest

@[simp] theorem Tidy.execSnapshotTrigger (w : Tidy s) {src tag : Nat} : TidyOut (execSnapshotTrigger src tag tid s) := w.snapTrigger ..
@[simp] theorem Tidy.execSnapin (w : Tidy s) : TidyOut (execSnapin s) := w.snapTrigger ..
@[simp] theorem Tidy.writeIsl (w : Tidy s) : Tidy (writeIsl s n v) := w.setIsl

@[simp] theorem Tidy.setThr (w : Tidy s) {x : Isl} {thr fnow : Nat} : Tidy (setThr s n x thr fnow) := by
  unfold Machine.setThr
  dsimp only
  split
  · exact w.setIsl
  · exact w.setIsl.traceSys

@[simp] theorem Tidy.execThermalThrottle (w : Tidy s) {tj : Nat} : TidyOut (execThermalThrottle n tj s) := by
  unfold Machine.execThermalThrottle
  split
  · exact w
  · dsimp only
    split
    · exact w.setIsl.rest
    · split
      · exact w.setThr
      · split
        · exact w.setThr
        · split
          · exact w.setThr
          · exact w.setIsl

@[simp] theorem Tidy.execThrottleStep (w : Tidy s) : TidyOut (execThrottleStep n s) := by
  unfold Machine.execThrottleStep
  dsimp only
  split
  · exact w.setIsl
  · exact w

@[simp] theorem Tidy.execPowerLimitWindow (w : Tidy s) {draw : Nat} : TidyOut (execPowerLimitWindow draw s) := by
  unfold Machine.execPowerLimitWindow
  dsimp only
  split
  · exact w
  · split
    · refine Tidy.foldl (fun s n w => ?_) _ w.rest
      split
      · exact w
      · exact w.setThr
    · refine Tidy.foldl (fun s n w => ?_) _ w.rest
      split
      · exact w.setThr
      · exact w

@[simp] theorem Tidy.execIslandChangeHoldEnd (w : Tidy s) : TidyOut (execIslandChangeHoldEnd n s) := by
  unfold Machine.execIslandChangeHoldEnd
  split
  · exact w.setIsl
  · exact w

@[simp] theorem Tidy.setEye (w : Tidy s) {x : Eye} : Tidy (State.setEye s n x) := w.rest
@[simp] theorem Tidy.eyeIrq (w : Tidy s) : Tidy (eyeIrq s) := w.rest
@[simp] theorem Tidy.eyeRepair (w : Tidy s) : Tidy (eyeRepair s n) := w.setEye
@[simp] theorem Tidy.eyeRetrain (w : Tidy s) : Tidy (eyeRetrain s n) := w.setEye

@[simp] theorem Tidy.writeEye (w : Tidy s) : Tidy (writeEye s n v) := by
  unfold Machine.writeEye
  dsimp only
  split
  · exact w.setEye.eyeIrq.eyeRepair
  · split
    · exact w.setEye.eyeIrq.eyeRetrain
    · exact w.setEye.eyeIrq

@[simp] theorem Tidy.execEyeMarginLow (w : Tidy s) {ew eh lane : Nat} : TidyOut (execEyeMarginLow n ew eh lane s) := by
  unfold Machine.execEyeMarginLow
  split
  · exact w
  · dsimp only
    split
    · exact w.setEye.traceSys.eyeIrq
    · exact w.setEye

@[simp] theorem Tidy.execRetrainHoldEnd (w : Tidy s) : TidyOut (execRetrainHoldEnd n s) := by
  unfold Machine.execRetrainHoldEnd
  split
  · exact w.setEye
  · exact w

@[simp] theorem Tidy.writeCcsctl (w : Tidy s) : Tidy (writeCcsctl s v) := by
  unfold Machine.writeCcsctl
  extract_lets en body fab s1
  have w1 : Tidy s1 := w.rest
  split
  · exact w1
  · exact w1.rest

@[simp] theorem Tidy.ccsWrite (w : Tidy s) {block chunks : Nat} : Tidy (ccsWrite s block data chunks) := by
  unfold Machine.ccsWrite
  split
  · exact Tidy.foldl (fun _ _ w => w.putClear) _ w.rest
  · exact w

@[simp] theorem Tidy.ccsStore (w : Tidy s) {o : Nat} : Tidy (ccsStore s o n v) := w.pick.ccsWrite

/-! The counts and the end of a sweep (R232, R240-R244). -/

@[simp] theorem Tidy.modSweep (w : Tidy s) {f : Sweep → Sweep} : Tidy (modSweep s id f) := w.rest

@[simp] theorem Tidy.endWrites {x : EngCtx} : ∀ {l : List (Word × List Byte)} {s : State}, Tidy s → Tidy (endWrites s x l).1
  | [], _, w => w
  | (a, bs) :: l, s, w => by
    unfold Machine.endWrites
    split
    · next s1 h => exact (w.writeBy h).endWrites
    · exact w

@[simp] theorem Tidy.noteSwept (w : Tidy s) : Tidy (noteSwept s h v) := w.rest
@[simp] theorem Tidy.finishSweep (w : Tidy s) {x : Sweep} {st : Nat} : Tidy (finishSweep s x st) := w.dropCount.noteSwept.rest.pushDone

@[simp] theorem Tidy.settleSweep (w : Tidy s) : Tidy (settleSweep s id) := by
  unfold Machine.settleSweep
  split
  · exact w
  · split
    · exact w
    · split
      · exact w.finishSweep
      · split
        · next e => exact (w.endWrites.of_fst e).finishSweep
        · split
          · next e _ => exact (w.endWrites.of_fst e).modSweep.queueWalk
          · next e _ => exact (w.endWrites.of_fst e).finishSweep

@[simp] theorem Tidy.failTileAt (w : Tidy s) {addr : Word} : Tidy (failTileAt s id tile cause addr) := by
  unfold Machine.failTileAt
  split
  · exact w
  · exact w.modSweep.engFault.settleSweep

@[simp] theorem Tidy.bodyEnded (w : Tidy s) : Tidy (bodyEnded s id tile exited cause) := by
  unfold Machine.bodyEnded
  split
  · exact w
  · dsimp only
    split
    · exact w.modSweep.settleSweep
    · split
      · exact w.modSweep.settleSweep
      · exact w.modSweep.failTileAt

/-! The registers of the Treasury (R313-R318, R326-R333). -/

@[simp] theorem Tidy.haltQueue (w : Tidy s) {err : Nat} : Tidy (haltQueue s q err cause) := w.setQueue.tevEvent

@[simp] theorem Tidy.haltAtBoundary (w : Tidy s) : Tidy (haltAtBoundary s q cause) := by
  unfold Machine.haltAtBoundary
  dsimp only
  split
  · split
    · exact w.haltQueue
    · exact w.setQueue
  · exact w

@[simp] theorem Tidy.writeQcfg (w : Tidy s) : Tidy (writeQcfg s q v) := by
  unfold Machine.writeQcfg
  dsimp only
  split
  · split
    · split
      · exact w.setQueue.haltQueue
      · exact w.setQueue
    · split <;> exact w.setQueue
  · split <;> exact w.setQueue

@[simp] theorem Tidy.writeQring (w : Tidy s) : Tidy (writeQring s q v) := by
  unfold Machine.writeQring
  dsimp only
  split
  · exact w.setQueue
  · exact w

@[simp] theorem Tidy.ringDoor (w : Tidy s) : Tidy (ringDoor s p q v) := by
  unfold Machine.ringDoor
  dsimp only
  split <;> exact w.setQueue

@[simp] theorem Tidy.suspendQueue (w : Tidy s) : Tidy (suspendQueue s q) := by
  unfold Machine.suspendQueue
  dsimp only
  split
  · exact w.setQueue
  · split
    · split <;> exact w.setQueue
    · exact w

@[simp] theorem Tidy.resumed (w : Tidy s) {x : Queue} : Tidy (resumed s q x) := by
  unfold Machine.resumed
  dsimp only
  split
  · split
    · exact w.setQueue.settleQueue
    · exact w.setQueue
  · exact w.setQueue

@[simp] theorem Tidy.resumeQueue (w : Tidy s) : Tidy (resumeQueue s q) := by
  unfold Machine.resumeQueue
  dsimp only
  split
  · exact w.resumed
  · exact w

@[simp] theorem Tidy.clearEntries (w : Tidy s) : Tidy (clearEntries s q) := by
  unfold Machine.clearEntries
  split
  · refine Tidy.foldl (fun s i w => ?_) _ w
    split
    · exact w.put ..
    · exact w
  · exact w

@[simp] theorem Tidy.dropWaits (w : Tidy s) : Tidy (dropWaits s q) := w.clearEntries.rest

@[simp] theorem Tidy.skipQueue (w : Tidy s) : Tidy (skipQueue s q) := by
  unfold Machine.skipQueue
  dsimp only
  split
  · exact w
  · split
    · exact w.resumed
    · split
      · exact w.dropWaits.resumed
      · exact w

@[simp] theorem Tidy.destroyQueue (w : Tidy s) {kill : Bool} : Tidy (destroyQueue s q kill) := by
  unfold Machine.destroyQueue
  split
  · exact w
  · exact w.setQueue

@[simp] theorem Tidy.writeQctl (w : Tidy s) : Tidy (writeQctl s q v) := by
  unfold Machine.writeQctl
  dsimp only
  split
  · exact w
  · split
    · exact w.suspendQueue
    · exact w.resumeQueue
    · exact w.skipQueue
    · exact w.destroyQueue
    · exact w

@[simp] theorem Tidy.writeWsat (w : Tidy s) : Tidy (writeWsat s q v) := w.rest.settleQueue

@[simp] theorem Tidy.writeQueue (w : Tidy s) {o : Nat} : Tidy (writeQueue s p q o v) := by
  unfold Machine.writeQueue
  split
  · exact w.writeQcfg
  · exact w.writeQring
  · exact w.ringDoor
  · exact w.writeQctl
  · exact w.writeWsat
  · exact w

@[simp] theorem Tidy.suspendSweeps (w : Tidy s) : Tidy (suspendSweeps s slot) := Tidy.foldl (fun _ _ w => w.settleSweep) _ w.rest

@[simp] theorem Tidy.writeSwsusp (w : Tidy s) : Tidy (writeSwsusp s v) := by
  unfold Machine.writeSwsusp
  dsimp only
  split
  · exact w.rest.suspendSweeps
  · exact w.rest

@[simp] theorem Tidy.writeTevhead (w : Tidy s) : Tidy (writeTevhead s v) := by
  unfold Machine.writeTevhead
  dsimp only
  split
  · exact w.rest
  · exact w

@[simp] theorem Tidy.writeEfhead (w : Tidy s) : Tidy (writeEfhead s v) := by
  unfold Machine.writeEfhead
  dsimp only
  split
  · exact Tidy.postHeld w.rest
  · exact w

@[simp] theorem Tidy.writeEfbase (w : Tidy s) : Tidy (writeEfbase s v) := w.rest.postHeld
@[simp] theorem Tidy.modCopy (w : Tidy s) {f : Copy → Copy} : Tidy (modCopy s id f) := w.rest

@[simp] theorem Tidy.modArr (w : Tidy s) {f : ArrRun → ArrRun} : Tidy (modArr s n h f) := by
  unfold Machine.modArr
  split
  · exact w.setClu ..
  · exact w

@[simp] theorem Tidy.resumeEng (w : Tidy s) {r : EngRef} : Tidy (resumeEng s r) := by
  unfold Machine.resumeEng
  split
  · exact w.modCopy
  · exact w.modArr
  · exact w.modSweep
  · exact w.modSweep.settleSweep

@[simp] theorem Tidy.endEng (w : Tidy s) {r : EngRef} {va : Word} : Tidy (endEng s r cause va) := by
  unfold Machine.endEng
  split
  · exact w.modCopy
  · exact w.modArr
  · exact w.failTileAt
  · exact w.modSweep.settleSweep

@[simp] theorem Tidy.efResolve (w : Tidy s) : Tidy (efResolve s token) := by
  unfold Machine.efResolve
  split
  · exact Tidy.foldl (fun _ _ w => w.queueWalk) _ w.rest
  · exact w

@[simp] theorem Tidy.efUnresolvable (w : Tidy s) : Tidy (efUnresolvable s token) := by
  unfold Machine.efUnresolvable
  split
  · exact Tidy.foldl (fun _ _ w => w.endEng) _ w.rest
  · exact w

@[simp] theorem Tidy.writeEfresp (w : Tidy s) : Tidy (writeEfresp s v) := by
  unfold Machine.writeEfresp
  split
  · exact w.efResolve
  · exact w.efUnresolvable
  · exact w

/-! The security block (R361-R366, R370, R371). -/

@[simp] theorem Tidy.setMeas (w : Tidy s) {i : Nat} : Tidy (setMeas s i) := by
  unfold Machine.setMeas
  split <;> exact w.rest

@[simp] theorem Tidy.startImage (w : Tidy s) {i : Nat} : Tidy (startImage s i w0 w1) := w.putPieces.stopTreasury.startTreasury

@[simp] theorem Tidy.writeFwdig (w : Tidy s) : Tidy (writeFwdig s v) := by
  unfold Machine.writeFwdig
  dsimp only
  split
  · exact w
  · split <;> exact w.rest

@[simp] theorem Tidy.writeFwverify (w : Tidy s) : Tidy (writeFwverify s v) := by
  unfold Machine.writeFwverify
  split
  · exact w
  · exact w.rest

@[simp] theorem Tidy.writeFwswitch (w : Tidy s) : Tidy (writeFwswitch s v) := by
  unfold Machine.writeFwswitch
  split
  · exact w
  · exact w.rest

@[simp] theorem Tidy.writeFwhb (w : Tidy s) : Tidy (writeFwhb s) := by
  unfold Machine.writeFwhb
  split
  · exact w.rest
  · exact w

@[simp] theorem Tidy.writeUpdate (w : Tidy s) {o : Nat} : Tidy (writeUpdate s o v) := by
  unfold Machine.writeUpdate
  split
  · exact w.writeFwverify
  · exact w.writeFwswitch
  · exact w.writeFwhb
  · exact w.rest
  · exact w.rest
  · exact w.writeFwdig
  · exact w.rest
  · exact w

@[simp] theorem Tidy.execFwverifyDone (w : Tidy s) : TidyOut (execFwverifyDone s) := by
  unfold Machine.execFwverifyDone
  split
  · exact w.setMeas.rest
  · exact w

@[simp] theorem Tidy.execFwdigDone (w : Tidy s) : TidyOut (execFwdigDone s) := by
  unfold Machine.execFwdigDone
  split
  · split <;> exact w.rest
  · exact w

@[simp] theorem Tidy.execFwswitchDone (w : Tidy s) : TidyOut (execFwswitchDone s) := by
  unfold Machine.execFwswitchDone
  split
  · exact w
  · dsimp only
    split
    · exact w.rest
    · split
      · exact w
      · exact w.rest.startImage

@[simp] theorem Tidy.execFwRollback (w : Tidy s) : TidyOut (execFwRollback s) := by
  unfold Machine.execFwRollback
  split
  · dsimp only
    split
    · exact w.stopTreasury.setMeas.traceSys.rest.startImage
    · exact w.stopTreasury.setMeas.traceSys.rest
  · exact w

@[simp] theorem Tidy.powered (w : Tidy s) : Tidy (powered s) := ⟨twf_filter w.mem, rfl, rfl, rfl⟩
@[simp] theorem Tidy.trained (w : Tidy s) {bad : Nat} : Tidy (trained s bad hi) := w.rest
@[simp] theorem Tidy.linkError (w : Tidy s) : Tidy (linkError s n) := w.rest
@[simp] theorem Tidy.packCxl (w : Tidy s) : Tidy (packCxl s) := w.rest

@[simp] theorem Tidy.execPowerOn (w : Tidy s) {badGroup : Option Nat} : TidyOut (execPowerOn badGroup s) := by
  unfold Machine.execPowerOn
  dsimp only
  split
  · exact w.powered.rest
  · split
    · exact w.powered.trained.rest
    · split
      · exact w.powered.trained.rest
      · split
        · split
          · exact w.powered.setMeas.rest.startImage.trained.linkError.packCxl
          · exact w.powered.setMeas.rest.startImage.trained.packCxl
        · split
          · split
            · exact w.powered.setMeas.setMeas.rest.startImage.trained.linkError.packCxl
            · exact w.powered.setMeas.setMeas.rest.startImage.trained.packCxl
          · exact w.powered.setMeas.setMeas.trained.rest

@[simp] theorem Tidy.spdmReply (w : Tidy s) {f : SpdmSt → SpdmSt} {r : Option (Nat × List Nat)} : TidyOut (spdmReply s f r) := w.rest
@[simp] theorem Tidy.execGetVersion (w : Tidy s) : TidyOut (execGetVersion s) := w.spdmReply

@[simp] theorem Tidy.execGetCapabilities (w : Tidy s) : TidyOut (execGetCapabilities s) := by
  unfold Machine.execGetCapabilities
  split <;> exact w.spdmReply

@[simp] theorem Tidy.execNegotiateAlgorithms (w : Tidy s) {asym hash aead : Nat} : TidyOut (execNegotiateAlgorithms asym hash aead s) := by
  unfold Machine.execNegotiateAlgorithms
  split <;> exact w.spdmReply

@[simp] theorem Tidy.execGetDigests (w : Tidy s) : TidyOut (execGetDigests s) := by
  unfold Machine.execGetDigests
  split <;> exact w.spdmReply

@[simp] theorem Tidy.execGetCertificate (w : Tidy s) {len : Nat} : TidyOut (execGetCertificate slot off len s) := by
  unfold Machine.execGetCertificate
  split <;> exact w.spdmReply

@[simp] theorem Tidy.execChallenge (w : Tidy s) {nonce : Nat} : TidyOut (execChallenge slot nonce s) := by
  unfold Machine.execChallenge
  split <;> exact w.spdmReply

@[simp] theorem Tidy.execGetMeasurements (w : Tidy s) {index nonce : Nat} : TidyOut (execGetMeasurements index nonce s) := by
  unfold Machine.execGetMeasurements
  dsimp only
  split <;> split <;> exact w.spdmReply

@[simp] theorem Tidy.execKeyExchange (w : Tidy s) {share : Nat} : TidyOut (execKeyExchange share s) := by
  unfold Machine.execKeyExchange
  split <;> exact w.spdmReply

@[simp] theorem Tidy.execFinish (w : Tidy s) {_mac : Nat} : TidyOut (execFinish _mac s) := by
  unfold Machine.execFinish
  split <;> exact w.spdmReply

@[simp] theorem Tidy.execEndSession (w : Tidy s) : TidyOut (execEndSession s) := by
  unfold Machine.execEndSession
  split <;> exact w.spdmReply

/-! Device registers (R53, R375). -/

@[simp] theorem Tidy.writeCten (w : Tidy s) : Tidy (writeCten s c v) := by
  unfold Machine.writeCten
  split
  · exact w.setCore ..
  · exact w

@[simp] theorem Tidy.writeCovf (w : Tidy s) : Tidy (writeCovf s c v) := by
  unfold Machine.writeCovf
  split
  · exact w.setCore ..
  · exact w

@[simp] theorem Tidy.devWrite (w : Tidy s) : Tidy (devWrite s p off v) := by
  unfold Machine.devWrite
  split
  · exact w
  · split
    · exact w.writeQueue
    · exact w.rest
    · split
      · exact w.writeEfbase
      · exact w.writeEfresp
      · exact w.writeEfhead
      · exact w
    · split
      · exact w.rest
      · exact w.writeTevhead
      · exact w.rest
      · exact w.writeSwsusp
      · exact w
    · exact w.setEcls
    · exact w.writeEscrow
    · exact w.writeCcsctl
    · exact w.rest
    · exact w.writeTime
    · exact w.writeSnapctl
    · exact w.writeUpdate
    · split
      · exact w.rest
      · exact w
    · exact w.writeIsl
    · exact w.setClu ..
    · exact w.writeEye
    · exact w.writeCten
    · exact w.writeCovf
    · exact w.wakeWrite
    · exact w
    · exact w
    · exact w
    · exact w
    · exact w

@[simp] theorem Tidy.devStoreN (w : Tidy s) : Tidy (devStoreN s p off n v) := by
  unfold Machine.devStoreN
  split
  · exact w
  · exact w.ccsStore
  · exact w.devWrite

@[simp] theorem Tidy.devStore (w : Tidy s) : Tidy (devStore s p off n v) := by
  unfold Machine.devStore
  split
  · exact w.devStoreN
  · exact w

@[simp] theorem Tidy.queueStore (w : Tidy s) {o : Nat} : Tidy (queueStore s p q o v) := by
  unfold Machine.queueStore
  split
  · exact w.devStore
  · exact w

@[simp] theorem Tidy.execQdoor (w : Tidy s) : TidyOut (execQdoor p q v s) := w.queueStore
@[simp] theorem Tidy.execQcfgWrite (w : Tidy s) : TidyOut (execQcfgWrite p q v s) := w.queueStore
@[simp] theorem Tidy.execSuspend (w : Tidy s) : TidyOut (execSuspend p q s) := w.queueStore
@[simp] theorem Tidy.execResume (w : Tidy s) : TidyOut (execResume p q s) := w.queueStore
@[simp] theorem Tidy.execSkip (w : Tidy s) : TidyOut (execSkip p q s) := w.queueStore
@[simp] theorem Tidy.execDestroy (w : Tidy s) {kill : Bool} : TidyOut (execDestroy p q kill s) := w.queueStore
@[simp] theorem Tidy.execWsat (w : Tidy s) : TidyOut (execWsat p q v s) := w.queueStore
@[simp] theorem Tidy.execTevheadWrite (w : Tidy s) : TidyOut (execTevheadWrite p v s) := w.devStore
@[simp] theorem Tidy.execEfrespResolve (w : Tidy s) : TidyOut (execEfrespResolve p token s) := w.devStore
@[simp] theorem Tidy.execEfrespUnresolvable (w : Tidy s) : TidyOut (execEfrespUnresolvable p token s) := w.devStore
@[simp] theorem Tidy.execEfheadWrite (w : Tidy s) : TidyOut (execEfheadWrite p v s) := w.devStore

@[simp] theorem Tidy.execCtenWrite (w : Tidy s) : TidyOut (execCtenWrite p core v s) := by
  unfold Machine.execCtenWrite
  split
  · exact w.devStore
  · exact w

@[simp] theorem Tidy.execCovfWrite (w : Tidy s) : TidyOut (execCovfWrite p core v s) := by
  unfold Machine.execCovfWrite
  split
  · exact w.devStore
  · exact w

@[simp] theorem Tidy.execEcellclr (w : Tidy s) : TidyOut (execEcellclr p v s) := w.devStore
@[simp] theorem Tidy.execCcsctlWrite (w : Tidy s) : TidyOut (execCcsctlWrite p v s) := w.devStore

@[simp] theorem Tidy.execRepair (w : Tidy s) : TidyOut (execRepair p n s) := by
  unfold Machine.execRepair
  split
  · exact w.eyeRepair
  · exact w

@[simp] theorem Tidy.execRtrn (w : Tidy s) : TidyOut (execRtrn p n s) := by
  unfold Machine.execRtrn
  split
  · exact w.eyeRetrain
  · exact w

@[simp] theorem Tidy.execTstep (w : Tidy s) : TidyOut (execTstep p v s) := w.devStore

@[simp] theorem Tidy.execFire (w : Tidy s) : TidyOut (execFire p s) := by
  unfold Machine.execFire
  split
  · exact w.snapTrigger ..
  · exact w

@[simp] theorem Tidy.execArm (w : Tidy s) : TidyOut (execArm p s) := by
  unfold Machine.execArm
  split
  · exact w.snapArm
  · exact w

@[simp] theorem Tidy.execFwverify (w : Tidy s) : TidyOut (execFwverify p v s) := w.devStore
@[simp] theorem Tidy.execFwswitch (w : Tidy s) : TidyOut (execFwswitch p v s) := w.devStore
@[simp] theorem Tidy.execFwhb (w : Tidy s) : TidyOut (execFwhb p v s) := w.devStore
@[simp] theorem Tidy.execFwdig (w : Tidy s) : TidyOut (execFwdig p v s) := w.devStore

@[simp] theorem Tidy.execIslWrite (w : Tidy s) : TidyOut (execIslWrite p n v s) := by
  unfold Machine.execIslWrite
  split
  · exact w.devStore
  · exact w

@[simp] theorem Tidy.execSwsuspGo (w : Tidy s) : TidyOut (execSwsuspGo tslot s) := w.devStore

@[simp] theorem Tidy.execCcsWindowWrite (w : Tidy s) {block chunks : Nat} : TidyOut (execCcsWindowWrite p block data chunks s) := by
  unfold Machine.execCcsWindowWrite
  split
  · split
    · exact w.ccsWrite
    · exact w.takeTrap ..
  · exact w

@[simp] theorem Tidy.execRegisterWrite (w : Tidy s) {bytes : Nat} : TidyOut (execRegisterWrite p pa bytes v s) := by
  unfold Machine.execRegisterWrite
  split
  · exact w.devStore
  · exact w

@[simp] theorem Tidy.execCxlLinkDown (w : Tidy s) : TidyOut (execCxlLinkDown port s) := by
  unfold Machine.execCxlLinkDown
  split
  · exact w.rest
  · exact w

@[simp] theorem Tidy.execPatrolScrub (w : Tidy s) : TidyOut (execPatrolScrub line s) := by
  unfold Machine.execPatrolScrub
  split
  · exact w.store ..
  · exact w.store ..
  · exact w

/-! Frames (R59-R61). -/

@[simp] theorem Tidy.clearPend (w : Tidy s) {f : FrameAt} : Tidy (clearPend s c sl f n) := by
  unfold Machine.clearPend
  split
  · exact w.modThread ..
  · exact w.setSlot ..
  · exact w.setW64 ..

theorem Tidy.moveOut (w : Tidy s) {f : FrameAt} {u : State} (hu : moveOut s c sl f off = .ok u) : Tidy u := by
  unfold Machine.moveOut at hu
  split at hu
  · next e => cases hu; exact (w.engWrite e).modThread ..
  · cases hu

theorem Tidy.moveAll {c sl : Nat} {u : State} : ∀ {l : List FrameAt} {s : State} {off : Nat}, Tidy s → moveAll s c sl l off = .ok u → Tidy u
  | [], _, _, w, h => by cases h; exact w
  | f :: l, s, off, w, h => by
    unfold Machine.moveAll at h
    split at h
    · cases h
    · next e => exact (w.moveOut e).moveAll h

theorem Tidy.frameRoom (w : Tidy s) {u : State × Nat} (hu : frameRoom s c sl t = .ok u) : Tidy u.1 := by
  unfold Machine.frameRoom at hu
  extract_lets need nwp fits at hu
  split at hu
  · cases hu
  · split at hu
    · split at hu
      · cases hu; exact w
      · cases hu
    · split at hu
      · cases hu
      · split at hu
        · next e => cases hu; exact w.moveAll e
        · cases hu

theorem Tidy.openFrame (w : Tidy s) {rpc : Word} {u : State} (hu : openFrame s c sl rpc = .ok u) : Tidy u := by
  unfold Machine.openFrame at hu
  split at hu
  · cases hu; exact w
  · split at hu
    · cases hu
    · next s1 p e =>
      cases hu
      exact ((((w.frameRoom e).store ..).setW64 ..).setW64 ..).setSlot ..

theorem Tidy.closeTo (w : Tidy s) {u : State} (hu : closeTo s c sl t j = .ok u) : Tidy u := by
  unfold Machine.closeTo at hu
  dsimp only at hu
  split at hu
  · cases hu; exact w
  · split at hu
    · cases hu
    · next s1 e =>
      have w1 : Tidy s1 := by
        split at e
        · cases e; exact w
        · split at e
          · cases e; exact w.store ..
          · cases e
      cases hu
      split
      · exact Tidy.setSlot (Tidy.foldl (fun _ _ w => w.endFrame) _ w1) ..
      · exact Tidy.setSlot (Tidy.foldl (fun _ _ w => w.endFrame) _ w1) ..

@[simp] theorem Tidy.endFrames (w : Tidy s) : Tidy (endFrames s c sl) := by
  unfold Machine.endFrames
  split
  · exact Tidy.foldl (fun _ _ w => w.endFrame) _ w
  · exact w

/-! Write buffers, phases and reads (R88-R99). -/

@[simp] theorem Tidy.touchRegs (w : Tidy s) {o : Nat} : Tidy (touchRegs s c o n) := by
  unfold Machine.touchRegs
  split
  · exact w
  · refine Tidy.foldl (fun s sl w => ?_) _ (Tidy.foldl (fun _ _ w => w.clearPend) _ w)
    split
    · exact w
    · dsimp only
      split
      · exact w
      · exact w.setSlot ..

@[simp] theorem Tidy.refuseStore (w : Tidy s) : Tidy (refuseStore s c tid pa cause) := w.traceFor.report ..

@[simp] theorem Tidy.performStore (w : Tidy s) {d : List Byte} : Tidy (performStore s c tid k pa d) := by
  unfold Machine.performStore
  split
  · split
    · exact w.refuseStore
    · exact (w.put ..).touchRegs.dropLine ..
  · split
    · exact w.devStoreN
    · exact w.refuseStore
  · split
    · exact w.refuseStore
    · split
      · exact w.refuseStore
      · split
        · exact (w.put ..).dropLine ..
        · exact w.refuseStore

@[simp] theorem Tidy.performList {c : Nat} : ∀ {l : List (WEntry × Bool)} {s : State} {held : List (Word × Nat × Nat)} {shut : List Word},
    Tidy s → Tidy (performList c l s held shut).1
  | [], _, _, _, w => w
  | (.store t k pa d _, r) :: l, s, held, shut, w => by
    unfold Machine.performList
    dsimp only
    split
    · split
      · exact w.performList
      · exact w.performStore.performList
    · exact w.performList
  | (.fence t x sc, r) :: l, s, held, shut, w => w.performList (l := l)

@[simp] theorem Tidy.flush (w : Tidy s) {root : WEntry → Nat → Bool} {tids : List Word} {ks : List (Nat × Nat)} : Tidy (flush s c root tids ks).1 := by
  unfold Machine.flush
  dsimp only
  split
  · exact w
  · exact Tidy.setCore w.performList ..

@[simp] theorem Tidy.releaseIn (w : Tidy s) {b : Nat} : Tidy (releaseIn s b c sc).1 := w.flush
@[simp] theorem Tidy.releaseAt (w : Tidy s) : Tidy (releaseAt s c sc).1 := w.releaseIn

theorem Tidy.flushEach {f : State → Nat × Word → State × Bool} {l : List (Nat × Word)} (w : Tidy s) (h : ∀ s e, Tidy s → Tidy (f s e).1) :
    Tidy (flushEach f l s).1 := by
  induction l generalizing s with
  | nil => exact w
  | cons e l ih => exact ih (h s e w)

@[simp] theorem Tidy.releaseBy (w : Tidy s) : Tidy (releaseBy s c tid sc).1 := w.releaseAt.flushEach fun _ _ w => w.releaseIn
@[simp] theorem Tidy.forceIn (w : Tidy s) {l : List (Nat × Word)} {ks : List (Nat × Nat)} : Tidy (forceIn s l ks).1 := w.flushEach fun _ _ w => w.flush
@[simp] theorem Tidy.forceFences (w : Tidy s) : Tidy (forceFences s c tid).1 := w.forceIn
@[simp] theorem Tidy.forceAt (w : Tidy s) : Tidy (forceAt s c tid k n).1 := w.forceIn

@[simp] theorem Tidy.forceOwn (w : Tidy s) : Tidy (forceOwn s tid k).1 := by
  unfold Machine.forceOwn
  dsimp only
  split
  · exact w
  · exact w.flushEach fun _ _ w => w.flush

@[simp] theorem Tidy.execBufferedWritePerformed (w : Tidy s) : TidyOut (execBufferedWritePerformed core n s) := by
  unfold Machine.execBufferedWritePerformed
  dsimp only
  split
  · exact w.flush
  · exact w

@[simp] theorem Tidy.settleHeld (w : Tidy s) : Tidy (settleHeld s) := Tidy.foldl (fun _ _ w => w.flush) _ w

@[simp] theorem Tidy.forceCores (w : Tidy s) {p : Nat → Bool} : Tidy (forceCores s p).1 :=
    List.foldlRecOn (motive := fun (r : State × Bool) => Tidy r.1) _ _ w (fun _ w _ _ => w.flush)

@[simp] theorem Tidy.patchPins (w : Tidy s) : Tidy (patchPins s c k bs) := by
  unfold Machine.patchPins
  refine Tidy.foldl (fun s sl w => ?_) _ ?_
  · split
    · exact w
    · split
      · exact w.setThread ..
      · exact w
  · split
    · exact w.setCore ..
    · exact w

@[simp] theorem Tidy.sliceLine (w : Tidy s) {floor : Nat} : Tidy (sliceLine s n line floor).2 := by
  unfold Machine.sliceLine
  split
  · exact w
  · exact w.setClu ..

@[simp] theorem keeps_flushing {f : State → State × Bool} : Keeps (flushing f) ↔ ∀ s, Tidy s → Tidy (f s).1 := by
  have e (s : State) : TidyRes (flushing f s) ↔ Tidy (f s).1 := by
    simp only [flushing]
    split <;> rfl
  exact ⟨fun h s w => (e s).1 (h.res s w), fun h => ⟨fun s w => (e s).2 (h s w)⟩⟩

@[simp] theorem keeps_readDev : Keeps (readDev k n ea) := by
  unfold Machine.readDev
  exact .steps

@[simp] theorem keeps_readPlain : Keeps (readPlain k n ea) := by
  unfold Machine.readPlain
  exact .steps

@[simp] theorem keeps_writePlain : Keeps (writePlain k pa bs) := by
  have buf {s : State} (w : Tidy s) (c : Nat) (x : CoreSt) (sl : Nat) (f : Thread → Thread) (k : Nat) (bs : List Byte) :
      Tidy (patchPins ((s.setCore c x).modThread c sl f) c k bs) := ((w.setCore ..).modThread ..).patchPins
  unfold Machine.writePlain
  exact .steps

@[simp] theorem keeps_release : Keeps (release sc) := by
  unfold Machine.release
  exact .steps

@[simp] theorem keeps_phaseEnd {sc : Scope} : Keeps (phaseEnd sc) := ⟨fun _ w => w.modThread ..⟩
@[simp] theorem keeps_acquire {sc : Scope} : Keeps (acquire sc) := ⟨fun _ w => w.modThread ..⟩

@[simp] theorem keeps_fences : Keeps fences := by
  unfold Machine.fences
  exact .steps

@[simp] theorem Tidy.markAt (w : Tidy s) {b : Nat} : Tidy (markAt s b c tid sc) := by
  unfold Machine.markAt
  split
  · exact w
  · exact w.setCore ..

@[simp] theorem Tidy.markBy (w : Tidy s) : Tidy (markBy s c tid sc) := Tidy.foldl (fun _ _ w => w.markAt) _ w.markAt

@[simp] theorem keeps_fenceMark : Keeps (fenceMark sc) := by
  unfold Machine.fenceMark
  exact .steps

@[simp] theorem keeps_fenceAcq {sc : Scope} : Keeps (fenceAcq sc) := ⟨fun _ w => w.modThread ..⟩

@[simp] theorem keeps_atomicAt {writes : Bool} : Keeps (atomicAt k n ea writes) := by
  unfold Machine.atomicAt
  exact .steps

@[simp] theorem keeps_atomicRead : Keeps (atomicRead k n) := by
  unfold Machine.atomicRead
  exact .steps

@[simp] theorem keeps_atomicWrite : Keeps (atomicWrite k bs) := by
  have own {s : State} (w : Tidy s) (c : Nat) :
    Tidy (match placeOf k with | .sram x o => touchRegs (patchPins (s.put k bs) c k bs) x o bs.length | _ => patchPins (s.put k bs) c k bs) := by
    split
    · exact (w.put ..).patchPins.touchRegs
    · exact (w.put ..).patchPins
  exact keeps_me.bind fun _ => keeps_upd.2 fun _ w => own w _

/-! Integer forms (R127-R133). -/

@[simp] theorem keeps_alu3 {f : AluFn} : Keeps (alu3 f d a b) := by
  unfold Machine.alu3
  exact .steps

@[simp] theorem keeps_aluI {f : AluFn} : Keeps (aluI f d a i) := by
  unfold Machine.aluI
  exact .steps

@[simp] theorem keeps_aluCmp {f : AluFn} : Keeps (aluCmp f a b) := by
  unfold Machine.aluCmp
  exact .steps

@[simp] theorem keeps_aluCmpI {f : AluFn} : Keeps (aluCmpI f a i) := by
  unfold Machine.aluCmpI
  exact .steps

@[simp] theorem keeps_unary {g : Word → Word} : Keeps (unary g d a n) := by
  unfold Machine.unary
  exact .steps

@[simp] theorem Tidy.execAdd (w : Tidy s) : TidyOut (execAdd d a b s) := w.run .steps
@[simp] theorem Tidy.execSub (w : Tidy s) : TidyOut (execSub d a b s) := w.run .steps
@[simp] theorem Tidy.execAdc (w : Tidy s) : TidyOut (execAdc d a b s) := w.run .steps
@[simp] theorem Tidy.execSbc (w : Tidy s) : TidyOut (execSbc d a b s) := w.run .steps
@[simp] theorem Tidy.execAnd (w : Tidy s) : TidyOut (execAnd d a b s) := w.run .steps
@[simp] theorem Tidy.execOr (w : Tidy s) : TidyOut (execOr d a b s) := w.run .steps
@[simp] theorem Tidy.execXor (w : Tidy s) : TidyOut (execXor d a b s) := w.run .steps
@[simp] theorem Tidy.execAndn (w : Tidy s) : TidyOut (execAndn d a b s) := w.run .steps
@[simp] theorem Tidy.execShl (w : Tidy s) : TidyOut (execShl d a b s) := w.run .steps
@[simp] theorem Tidy.execShr (w : Tidy s) : TidyOut (execShr d a b s) := w.run .steps
@[simp] theorem Tidy.execSar (w : Tidy s) : TidyOut (execSar d a b s) := w.run .steps
@[simp] theorem Tidy.execRor (w : Tidy s) : TidyOut (execRor d a b s) := w.run .steps
@[simp] theorem Tidy.execMul (w : Tidy s) : TidyOut (execMul d a b s) := w.run .steps
@[simp] theorem Tidy.execMulhu (w : Tidy s) : TidyOut (execMulhu d a b s) := w.run .steps
@[simp] theorem Tidy.execMulhs (w : Tidy s) : TidyOut (execMulhs d a b s) := w.run .steps
@[simp] theorem Tidy.execDivu (w : Tidy s) : TidyOut (execDivu d a b s) := w.run .steps
@[simp] theorem Tidy.execDivs (w : Tidy s) : TidyOut (execDivs d a b s) := w.run .steps
@[simp] theorem Tidy.execRemu (w : Tidy s) : TidyOut (execRemu d a b s) := w.run .steps
@[simp] theorem Tidy.execRems (w : Tidy s) : TidyOut (execRems d a b s) := w.run .steps
@[simp] theorem Tidy.execMinu (w : Tidy s) : TidyOut (execMinu d a b s) := w.run .steps
@[simp] theorem Tidy.execMins (w : Tidy s) : TidyOut (execMins d a b s) := w.run .steps
@[simp] theorem Tidy.execMaxu (w : Tidy s) : TidyOut (execMaxu d a b s) := w.run .steps
@[simp] theorem Tidy.execMaxs (w : Tidy s) : TidyOut (execMaxs d a b s) := w.run .steps
@[simp] theorem Tidy.execCmp (w : Tidy s) : TidyOut (execCmp a b s) := w.run .steps
@[simp] theorem Tidy.execTst (w : Tidy s) : TidyOut (execTst a b s) := w.run .steps
@[simp] theorem Tidy.execNeg (w : Tidy s) : TidyOut (execNeg d a s) := w.run .steps
@[simp] theorem Tidy.execAddi (w : Tidy s) : TidyOut (execAddi d a i s) := w.run .steps
@[simp] theorem Tidy.execSubi (w : Tidy s) : TidyOut (execSubi d a i s) := w.run .steps
@[simp] theorem Tidy.execAdci (w : Tidy s) : TidyOut (execAdci d a i s) := w.run .steps
@[simp] theorem Tidy.execSbci (w : Tidy s) : TidyOut (execSbci d a i s) := w.run .steps
@[simp] theorem Tidy.execAndi (w : Tidy s) : TidyOut (execAndi d a i s) := w.run .steps
@[simp] theorem Tidy.execOri (w : Tidy s) : TidyOut (execOri d a i s) := w.run .steps
@[simp] theorem Tidy.execXori (w : Tidy s) : TidyOut (execXori d a i s) := w.run .steps
@[simp] theorem Tidy.execAndni (w : Tidy s) : TidyOut (execAndni d a i s) := w.run .steps
@[simp] theorem Tidy.execShli (w : Tidy s) : TidyOut (execShli d a i s) := w.run .steps
@[simp] theorem Tidy.execShri (w : Tidy s) : TidyOut (execShri d a i s) := w.run .steps
@[simp] theorem Tidy.execSari (w : Tidy s) : TidyOut (execSari d a i s) := w.run .steps
@[simp] theorem Tidy.execRori (w : Tidy s) : TidyOut (execRori d a i s) := w.run .steps
@[simp] theorem Tidy.execMuli (w : Tidy s) : TidyOut (execMuli d a i s) := w.run .steps
@[simp] theorem Tidy.execMulhui (w : Tidy s) : TidyOut (execMulhui d a i s) := w.run .steps
@[simp] theorem Tidy.execMulhsi (w : Tidy s) : TidyOut (execMulhsi d a i s) := w.run .steps
@[simp] theorem Tidy.execDivui (w : Tidy s) : TidyOut (execDivui d a i s) := w.run .steps
@[simp] theorem Tidy.execDivsi (w : Tidy s) : TidyOut (execDivsi d a i s) := w.run .steps
@[simp] theorem Tidy.execRemui (w : Tidy s) : TidyOut (execRemui d a i s) := w.run .steps
@[simp] theorem Tidy.execRemsi (w : Tidy s) : TidyOut (execRemsi d a i s) := w.run .steps
@[simp] theorem Tidy.execMinui (w : Tidy s) : TidyOut (execMinui d a i s) := w.run .steps
@[simp] theorem Tidy.execMinsi (w : Tidy s) : TidyOut (execMinsi d a i s) := w.run .steps
@[simp] theorem Tidy.execMaxui (w : Tidy s) : TidyOut (execMaxui d a i s) := w.run .steps
@[simp] theorem Tidy.execMaxsi (w : Tidy s) : TidyOut (execMaxsi d a i s) := w.run .steps
@[simp] theorem Tidy.execCmpi (w : Tidy s) : TidyOut (execCmpi a i s) := w.run .steps
@[simp] theorem Tidy.execTsti (w : Tidy s) : TidyOut (execTsti a i s) := w.run .steps
@[simp] theorem Tidy.execMov (w : Tidy s) : TidyOut (execMov d a s) := w.run .steps
@[simp] theorem Tidy.execMovi (w : Tidy s) : TidyOut (execMovi d i s) := w.run .steps
@[simp] theorem Tidy.execMovhi (w : Tidy s) {v : BitVec 32} : TidyOut (execMovhi d v s) := w.run .steps
@[simp] theorem Tidy.execLea (w : Tidy s) : TidyOut (execLea d a i s) := w.run .steps
@[simp] theorem Tidy.execLeax (w : Tidy s) {sh : Fin 5} : TidyOut (execLeax d a b sh s) := w.run .steps
@[simp] theorem Tidy.execAdr (w : Tidy s) : TidyOut (execAdr d i s) := w.run .steps
@[simp] theorem Tidy.execSext (w : Tidy s) : TidyOut (execSext sz d a s) := w.run .steps
@[simp] theorem Tidy.execZext (w : Tidy s) : TidyOut (execZext sz d a s) := w.run .steps
@[simp] theorem Tidy.execClz (w : Tidy s) : TidyOut (execClz d a s) := w.run .steps
@[simp] theorem Tidy.execCtz (w : Tidy s) : TidyOut (execCtz d a s) := w.run .steps
@[simp] theorem Tidy.execPopc (w : Tidy s) : TidyOut (execPopc d a s) := w.run .steps
@[simp] theorem Tidy.execBswap (w : Tidy s) : TidyOut (execBswap d a s) := w.run .steps
@[simp] theorem Tidy.execBrev (w : Tidy s) : TidyOut (execBrev d a s) := w.run .steps
@[simp] theorem Tidy.execBfx (w : Tidy s) {p l : BitVec 6} : TidyOut (execBfx d a p l s) := w.run .steps
@[simp] theorem Tidy.execBfxs (w : Tidy s) {p l : BitVec 6} : TidyOut (execBfxs d a p l s) := w.run .steps
@[simp] theorem Tidy.execBfi (w : Tidy s) {p l : BitVec 6} : TidyOut (execBfi d a p l s) := w.run .steps
@[simp] theorem Tidy.execCsel (w : Tidy s) {c : Cond} : TidyOut (execCsel c d a b s) := w.run .steps
@[simp] theorem Tidy.execCset (w : Tidy s) {c : Cond} : TidyOut (execCset c d s) := w.run .steps

/-! Loads, stores and atomics (R148-R159). -/

@[simp] theorem keeps_rdSz {r : WReg} : Keeps (rdSz r sz) := by
  unfold Machine.rdSz
  exact .steps

@[simp] theorem keeps_needDstSz {r : WReg} : Keeps (needDstSz r sz) := by
  unfold Machine.needDstSz
  exact .steps

@[simp] theorem keeps_wrSz {r : WReg} {v : Nat} : Keeps (wrSz r sz v) := by
  unfold Machine.wrSz
  exact .steps

@[simp] theorem keeps_devCheck {store : Bool} : Keeps (devCheck k n ea store) := by
  unfold Machine.devCheck
  exact .steps

@[simp] theorem keeps_devAtomic {ld st : Bool} : Keeps (devAtomic k n ea ld st) := by
  unfold Machine.devAtomic
  exact .steps

@[simp] theorem keeps_plainPoison : Keeps (plainPoison k ea) := by
  unfold Machine.plainPoison
  exact .steps

@[simp] theorem keeps_loadAt : Keeps (loadAt ea n) := by
  unfold Machine.loadAt
  exact .steps

@[simp] theorem keeps_load {signed : Bool} {o : Imm} : Keeps (load signed sz d a o) := by
  unfold Machine.load
  exact .steps

@[simp] theorem keeps_loadPost {signed : Bool} : Keeps (loadPost signed sz d a) := by
  unfold Machine.loadPost
  exact .steps

@[simp] theorem Tidy.execLd (w : Tidy s) {o : Imm} : TidyOut (execLd sz d a o s) := w.run .steps
@[simp] theorem Tidy.execLds (w : Tidy s) {o : Imm} : TidyOut (execLds sz d a o s) := w.run .steps
@[simp] theorem Tidy.execLdPostinc (w : Tidy s) : TidyOut (execLdPostinc sz d a s) := w.run .steps
@[simp] theorem Tidy.execLdsPostinc (w : Tidy s) : TidyOut (execLdsPostinc sz d a s) := w.run .steps

@[simp] theorem keeps_storeAt {v : Nat} : Keeps (storeAt ea n v) := by
  unfold Machine.storeAt
  exact .steps

@[simp] theorem Tidy.execSt (w : Tidy s) {o : Imm} : TidyOut (execSt sz a o b s) := w.run .steps
@[simp] theorem Tidy.execStPostinc (w : Tidy s) : TidyOut (execStPostinc sz a b s) := w.run .steps

@[simp] theorem keeps_ordRelease : Keeps (ordRelease r) := by
  unfold Machine.ordRelease
  exact .steps

@[simp] theorem keeps_ordAcquire : Keeps (ordAcquire r) := by
  unfold Machine.ordAcquire
  exact .steps

@[simp] theorem Tidy.execAld (w : Tidy s) {o : Imm} : TidyOut (execAld sz d a o r s) := w.run .steps

@[simp] theorem keeps_atomicStore {v : Nat} : Keeps (atomicStore ea n v r) := by
  unfold Machine.atomicStore
  exact .steps

@[simp] theorem Tidy.execAst (w : Tidy s) {o : Imm} : TidyOut (execAst sz a o b r s) := w.run .steps

@[simp] theorem keeps_rmwOpen : Keeps (rmwOpen ea n r) := by
  unfold Machine.rmwOpen
  exact .steps

@[simp] theorem keeps_rmw {f : Nat → Nat → Nat → Nat} {o : Imm} : Keeps (rmw f sz d a o b r) := by
  unfold Machine.rmw
  exact .steps

@[simp] theorem Tidy.execAswp (w : Tidy s) {o : Imm} : TidyOut (execAswp sz d a o b r s) := w.run .steps
@[simp] theorem Tidy.execAadd (w : Tidy s) {o : Imm} : TidyOut (execAadd sz d a o b r s) := w.run .steps
@[simp] theorem Tidy.execAand (w : Tidy s) {o : Imm} : TidyOut (execAand sz d a o b r s) := w.run .steps
@[simp] theorem Tidy.execAor (w : Tidy s) {o : Imm} : TidyOut (execAor sz d a o b r s) := w.run .steps
@[simp] theorem Tidy.execAxor (w : Tidy s) {o : Imm} : TidyOut (execAxor sz d a o b r s) := w.run .steps
@[simp] theorem Tidy.execAminu (w : Tidy s) {o : Imm} : TidyOut (execAminu sz d a o b r s) := w.run .steps
@[simp] theorem Tidy.execAmaxu (w : Tidy s) {o : Imm} : TidyOut (execAmaxu sz d a o b r s) := w.run .steps
@[simp] theorem Tidy.execAmins (w : Tidy s) {o : Imm} : TidyOut (execAmins sz d a o b r s) := w.run .steps
@[simp] theorem Tidy.execAmaxs (w : Tidy s) {o : Imm} : TidyOut (execAmaxs sz d a o b r s) := w.run .steps
@[simp] theorem Tidy.execAcas (w : Tidy s) {o : Imm} : TidyOut (execAcas sz d a o b r s) := w.run .steps
@[simp] theorem Tidy.execAfadd (w : Tidy s) {t : FFmt} {o : Imm} : TidyOut (execAfadd t d a o b r s) := w.run .steps

@[simp] theorem Tidy.execMemoryReply (w : Tidy s) : TidyOut (execMemoryReply core slot s) := by
  unfold Machine.execMemoryReply
  split
  · split
    · exact w.takeReply
    · exact w
  · exact w

@[simp] theorem Tidy.execPinFreeResume (w : Tidy s) : TidyOut (execPinFreeResume core slot s) := by
  unfold Machine.execPinFreeResume
  split
  · split
    · exact w.setWait ..
    · exact w
  · exact w

/-! Phases, fences and barriers (R95, R160-R166). -/

@[simp] theorem keeps_finPhase {leaves : Bool} : Keeps (finPhase leaves) := by
  unfold Machine.finPhase
  exact .steps

@[simp] theorem Tidy.execPhaseRel (w : Tidy s) : TidyOut (execPhaseRel sc s) := w.run .steps
@[simp] theorem Tidy.execPhaseAcq (w : Tidy s) : TidyOut (execPhaseAcq sc s) := w.run .steps
@[simp] theorem Tidy.execPhase (w : Tidy s) : TidyOut (execPhase sc s) := w.run .steps
@[simp] theorem Tidy.execFenceRel (w : Tidy s) : TidyOut (execFenceRel sc s) := w.run .steps
@[simp] theorem Tidy.execFenceAcq (w : Tidy s) : TidyOut (execFenceAcq sc s) := w.run .steps
@[simp] theorem Tidy.execFenceAcqRel (w : Tidy s) : TidyOut (execFenceAcqRel sc s) := w.run .steps
@[simp] theorem Tidy.barReturn (w : Tidy s) {acq : Option Scope} : Tidy (barReturn s c sl acq) := w.modThread ..

@[simp] theorem Tidy.releaseWaiters (w : Tidy s) {ph : Nat} : Tidy (releaseWaiters s k ph) := by
  refine Tidy.foldl (fun s x w => ?_) _ w
  split
  · exact w.barReturn
  · exact w

@[simp] theorem Tidy.breakWaiters (w : Tidy s) {kind : Nat} : Tidy (breakWaiters s k kind) := Tidy.foldl (fun _ _ w => (w.modThread ..).takeTrap ..) _ w

@[simp] theorem Tidy.settleBarrier (w : Tidy s) {b : BarRec} {ok : Bool} : Tidy (settleBarrier s k b ok) := by
  unfold Machine.settleBarrier
  split
  · exact w.releaseWaiters
  · exact w.breakWaiters

@[simp] theorem Tidy.engineArrive (w : Tidy s) : Tidy (engineArrive s k n).1 := by
  unfold Machine.engineArrive
  dsimp only
  split
  · exact w
  · exact (w.put ..).settleBarrier

@[simp] theorem keeps_barLocate : Keeps (barLocate ea) := by
  unfold Machine.barLocate
  exact .steps

@[simp] theorem keeps_barOpen {kinds : List Nat} {waiter : Bool} : Keeps (barOpen ea kinds r waiter) := by
  unfold Machine.barOpen
  exact .steps

@[simp] theorem keeps_barStore {b : BarRec} {ok : Bool} : Keeps (barStore ea k b ok) := by
  unfold Machine.barStore
  exact .steps

@[simp] theorem keeps_barArrive {drop : Nat} : Keeps (barArrive ea q drop r) := by
  unfold Machine.barArrive
  exact .steps

@[simp] theorem keeps_barWait {b : BarRec} {rep : Nat} : Keeps (barWait ea k b q r rep) := by
  unfold Machine.barWait
  exact .steps

@[simp] theorem Tidy.execBinit (w : Tidy s) {byt : Bool} : TidyOut (execBinit byt sc a b s) := w.run .steps
@[simp] theorem Tidy.execBarr (w : Tidy s) : TidyOut (execBarr a b r s) := w.run .steps
@[simp] theorem Tidy.execBardrop (w : Tidy s) : TidyOut (execBardrop a b r s) := w.run .steps
@[simp] theorem Tidy.execBwait (w : Tidy s) : TidyOut (execBwait a b r s) := w.run .steps
@[simp] theorem Tidy.clearRep (w : Tidy s) : Tidy (clearRep s) := w.modThread ..
@[simp] theorem Tidy.execBsync (w : Tidy s) : TidyOut (execBsync a b r s) := w.run .steps
@[simp] theorem Tidy.execBexpect (w : Tidy s) : TidyOut (execBexpect a b s) := w.run .steps
@[simp] theorem Tidy.execBarrb (w : Tidy s) : TidyOut (execBarrb a b r s) := w.run .steps

/-! Futures (R40, R207-R211). -/

@[simp] theorem Tidy.placeFuture (w : Tidy s) {srck d : Nat} : Tidy (placeFuture s c sl srck d).1 := by
  unfold Machine.placeFuture
  split
  · exact w
  · exact (((w.setSlot ..).setReg ..).modThread ..).rest

@[simp] theorem keeps_newFuture {srck : Nat} : Keeps (newFuture srck d) := by
  unfold Machine.newFuture
  exact .steps

@[simp] theorem keeps_peek {r : WReg} : Keeps (peek r) := by
  unfold Machine.peek
  exact .steps

theorem Tidy.arriveAt (w : Tidy s) {f : FrameAt} {a : Arrive} {filed : Bool} {u : State} (hu : arriveAt s c sl t f n a filed = some u) : Tidy u := by
  unfold Machine.arriveAt at hu
  split at hu
  · cases hu
  · split at hu
    · cases hu; exact w
    · split at hu
      · cases hu; exact w.setW64 ..
      · dsimp only at hu
        split at hu
        · cases hu; exact Tidy.setSlot (w.setW64 ..).clearPend ..
        · cases hu; exact (w.setW64 ..).clearPend

theorem Tidy.arriveSpilled (w : Tidy s) {x : Spilled} {a : Arrive} {u : State} (hu : arriveSpilled s x j n a = some u) : Tidy u := by
  unfold Machine.arriveSpilled at hu
  dsimp only at hu
  split at hu
  · split at hu
    · split at hu
      · cases hu; exact w
      · split at hu
        · cases hu; exact w.setW64 ..
        · cases hu; exact ((w.setW64 ..).setW64 ..).modSpilled
    · cases hu
  · split at hu
    · exact w.arriveAt hu
    · cases hu; exact w

theorem Tidy.arriveReg (w : Tidy s) {frame : Option Nat} {a : Arrive} {u : State} (hu : arriveReg s tid frame n a = some u) : Tidy u := by
  unfold Machine.arriveReg at hu
  split at hu
  · split at hu
    · cases hu; exact w
    · dsimp only at hu
      split at hu
      · exact w.arriveAt hu
      · cases hu; exact w
  · split at hu
    · exact w.arriveSpilled hu
    · cases hu; exact w

@[simp] theorem Tidy.arrivePair (w : Tidy s) {key : Nat} {a : Arrive} : Tidy (arrivePair s key a) := by
  unfold Machine.arrivePair
  split
  · exact w.put ..
  · exact w.putNat

@[simp] theorem Tidy.modFlit (w : Tidy s) {g : Flit → Flit} : Tidy (State.modFlit s tid g) := w.rest

@[simp] theorem Tidy.raiseTid (w : Tidy s) {m : IFl} : Tidy (raiseTid s tid m) := by
  unfold Machine.raiseTid
  split
  · exact w
  · split
    · exact w.raiseAt
    · dsimp only
      split
      · split
        · exact w.treeRaise.setW64 ..
        · exact w.treeRaise.modSpilled
      · exact w.treeRaise.modFlit

/-! Closures (R247-R259). -/

@[simp] theorem keeps_rdK {k : KReg} : Keeps (rdK k) := by
  unfold Machine.rdK
  exact .steps

@[simp] theorem keeps_hdlPort : Keeps (hdlPort h) := by
  unfold Machine.hdlPort
  exact .steps

@[simp] theorem keeps_finHdl {remote : Bool} : Keeps (finHdl n remote) := by
  unfold Machine.finHdl
  exact .steps

@[simp] theorem keeps_wrK {k : KReg} : Keeps (wrK k h) := by
  unfold Machine.wrK
  exact .steps

@[simp] theorem keeps_addCount {kreg : Nat} : Keeps (addCount kreg h) := by
  unfold Machine.addCount
  exact .steps

@[simp] theorem Tidy.execKdup (w : Tidy s) {d b : KReg} : TidyOut (execKdup d b s) := w.run .steps
@[simp] theorem Tidy.execKdrop (w : Tidy s) {b : KReg} : TidyOut (execKdrop b s) := w.run .steps

@[simp] theorem keeps_hdlWord {o : BitVec 23} {writes : Bool} : Keeps (hdlWord a o writes) := by
  unfold Machine.hdlWord
  exact .steps

@[simp] theorem Tidy.execKst (w : Tidy s) {o : BitVec 23} {b : KReg} : TidyOut (execKst a o b s) := w.run .steps
@[simp] theorem Tidy.execKld (w : Tidy s) {d : KReg} {o : BitVec 23} : TidyOut (execKld d a o s) := w.run .steps
@[simp] theorem Tidy.execKrelm (w : Tidy s) {o : BitVec 23} : TidyOut (execKrelm a o s) := w.run .steps

@[simp] theorem keeps_capWords {c wp rmask : Nat} : ∀ {l : List (Nat × Nat)}, Keeps (capWords c wp rmask l)
  | [] => keeps_pure _
  | (j, r) :: l => by
    have ih := keeps_capWords (c := c) (wp := wp) (rmask := rmask) (l := l)
    unfold capWords
    exact .steps

@[simp] theorem keeps_capture {k : KReg} {cmask rmask cbase : Nat} : Keeps (capture n k a cmask rmask cbase) := by
  have written {s : State} (w : Tidy s) (k k' : Nat) (v v' : Word) (f : Nat × Word → Nat) (l : List (Nat × Word)) :
      Tidy (l.foldl (fun s p => s.setW64 (f p) p.2) ((s.setW64 k v).setW64 k' v')) :=
    Tidy.foldl (fun _ _ w => w.setW64 ..) _ ((w.setW64 ..).setW64 ..)
  unfold Machine.capture
  exact .steps

@[simp] theorem Tidy.execCapt (w : Tidy s) {k : KReg} {cmask : BitVec 14} {cbase : BitVec 5} : TidyOut (execCapt k a cmask cbase s) := w.run .steps

@[simp] theorem Tidy.execCaptr (w : Tidy s) {k : KReg} {cmask rmask : BitVec 14} {cbase : BitVec 5} : TidyOut (execCaptr k a cmask rmask cbase s) :=
    w.run .steps

@[simp] theorem keeps_hdlCheck {kreg : Nat} : Keeps (hdlCheck kreg h) := by
  unfold Machine.hdlCheck
  exact .steps

@[simp] theorem keeps_hdlRegs : Keeps (hdlRegs h n) := by
  unfold Machine.hdlRegs
  exact .steps

@[simp] theorem Tidy.execApply (w : Tidy s) {b : KReg} : TidyOut (execApply b s) := by
  refine w.run (keeps_me.bind fun (c, sl) => keeps_rdK.bind fun h => keeps_hdlCheck.bind fun _ => (keeps_ask _).bind fun _ =>
    (keeps_need ..).bind fun _ => (keeps_ask _).bind fun n => keeps_hdlRegs.bind fun _ => (keeps_rd _).bind fun a0 => (keeps_rd _).bind fun a1 =>
    (keeps_rd _).bind fun a2 => (keeps_rd _).bind fun a3 => keeps_iaddr.bind fun p => (keeps_ask _).bind fun regs => (keeps_ask _).bind fun entry =>
    Keeps.ask_bind (P := TidyOk) (fun _ w _ e => w.openFrame e) fun r hr => ?_)
  refine Keeps.bind ?_ fun _ => .steps
  split
  · exact keeps_trap ..
  · exact keeps_upd.2 fun _ _ => hr _ rfl

@[simp] theorem Tidy.execRet (w : Tidy s) : TidyOut (execRet s) := by
  refine w.run (keeps_me.bind fun (c, sl) => keeps_th.bind fun t => (keeps_need ..).bind fun _ => ?_)
  extract_lets close
  have closes (u : Unit) : Keeps (close u) :=
    (keeps_ask _).bind fun n => (keeps_ask _).bind fun r0 => (keeps_ask _).bind fun r1 => (keeps_ask _).bind fun rpc =>
    Keeps.ask_bind (P := TidyOk) (fun _ w _ e => w.closeTo e) fun r hr => by
      refine Keeps.bind ?_ fun _ => .steps
      split
      · exact keeps_trap ..
      · exact keeps_upd.2 fun _ _ => hr _ rfl
  split
  · exact (keeps_waitOn _).bind closes
  · exact closes ()

@[simp] theorem keeps_applyTarget {b : KReg} {named : Option WReg} : Keeps (applyTarget b h named) := by
  unfold Machine.applyTarget
  exact .steps

@[simp] theorem Tidy.execApplyA (w : Tidy s) {b : KReg} {named : Option WReg} : TidyOut (execApplyA d b named r s) := w.run .steps

end Sys2Proof.Machine
end

section
/-! The canonical form through the engines, the Treasury and the rest of the instructions and events (O59). -/
set_option Elab.async false

namespace Sys2Proof.Machine

variable {s : State} {c sl k n q core slot clu id cause tile die lo hi : Nat} {a b d e : WReg} {v h ea tid w0 w1 : Word} {bs data : List Byte}
  {i : Imm} {o : VOps} {r : OrdScope} {sc : Scope} {p : Party} {t : Thread} {arr msk kernel exited : Bool} {disp : BitVec 23}

/-! Control transfer (R138-R141). -/

@[simp] theorem keeps_branchIf {c : Bool} : Keeps (branchIf c disp) := by
  unfold Machine.branchIf
  exact .steps

@[simp] theorem Tidy.execNop64 (w : Tidy s) : TidyOut (execNop64 s) := w.run .steps
@[simp] theorem Tidy.execNop96 (w : Tidy s) : TidyOut (execNop96 s) := w.run .steps
@[simp] theorem Tidy.execB (w : Tidy s) : TidyOut (execB disp s) := w.run .steps
@[simp] theorem Tidy.execBc (w : Tidy s) {c : Cond} : TidyOut (execBc c disp s) := w.run .steps
@[simp] theorem Tidy.execBl (w : Tidy s) : TidyOut (execBl d disp s) := w.run .steps
@[simp] theorem Tidy.execCbz (w : Tidy s) : TidyOut (execCbz a disp s) := w.run .steps
@[simp] theorem Tidy.execCbnz (w : Tidy s) : TidyOut (execCbnz a disp s) := w.run .steps
@[simp] theorem Tidy.execDbnz (w : Tidy s) : TidyOut (execDbnz d disp s) := w.run .steps
@[simp] theorem Tidy.execJr (w : Tidy s) : TidyOut (execJr a s) := w.run .steps
@[simp] theorem Tidy.execJlr (w : Tidy s) : TidyOut (execJlr d a s) := w.run .steps
@[simp] theorem Tidy.execJmpa (w : Tidy s) {t : Word} : TidyOut (execJmpa t s) := w.run .steps
@[simp] theorem Tidy.execBla (w : Tidy s) {t : Word} : TidyOut (execBla d t s) := w.run .steps
@[simp] theorem Tidy.execHintAlign (w : Tidy s) {m : BitVec 5} {t : BitVec 16} : TidyOut (execHintAlign m t s) := w.run .steps

@[simp] theorem Tidy.execAlignPointRelease (w : Tidy s) : TidyOut (execAlignPointRelease core slot s) := by
  unfold Machine.execAlignPointRelease
  split
  · split
    · dsimp only
      split
      · split
        · exact w.setWait ..
        · exact w
      · split
        · exact Tidy.foldl (fun _ _ w => w.setWait ..) _ w
        · exact w
    · exact w
  · exact w

/-! Control registers, flags, time and trace (R142-R147). -/

@[simp] theorem Tidy.execRdctl (w : Tidy s) {r : CtlReg} : TidyOut (execRdctl d r s) := w.run .steps
@[simp] theorem Tidy.execWrctl (w : Tidy s) {r : CtlReg} : TidyOut (execWrctl r a s) := w.run .steps
@[simp] theorem Tidy.execRmset (w : Tidy s) {m : RMode} : TidyOut (execRmset m s) := w.run .steps
@[simp] theorem Tidy.execFlgrd (w : Tidy s) : TidyOut (execFlgrd d s) := w.run .steps

@[simp] theorem keeps_supervisor : Keeps (supervisor) := by
  unfold Machine.supervisor
  exact .steps

@[simp] theorem Tidy.execFlgrdClu (w : Tidy s) : TidyOut (execFlgrdClu d s) := w.run .steps
@[simp] theorem Tidy.execFlgclr (w : Tidy s) {m : BitVec 5} : TidyOut (execFlgclr m s) := w.run .steps
@[simp] theorem Tidy.execFlgclrClu (w : Tidy s) {m : BitVec 5} : TidyOut (execFlgclrClu m s) := w.run .steps
@[simp] theorem Tidy.execFlgftClu (w : Tidy s) {f : Fin 5} : TidyOut (execFlgftClu d f s) := w.run .steps
@[simp] theorem Tidy.execTsrd (w : Tidy s) : TidyOut (execTsrd d s) := w.run .steps
@[simp] theorem Tidy.execEvmark (w : Tidy s) {code : BitVec 16} : TidyOut (execEvmark a b code s) := w.run .steps

/-! Memory as the engines see it (R310). -/

@[simp] theorem Tidy.noteRuns (w : Tidy s) {x : EngCtx} {l : List (Word × Nat)} : Tidy (noteRuns s x l) := w.noteUsed

@[simp] theorem Tidy.engPut (w : Tidy s) : Tidy (engPut s k bs) := by
  unfold Machine.engPut
  dsimp only
  split
  · exact w.putClear.touchRegs
  · exact w.putClear

/-! The matrix array (R213-R228). -/

@[simp] theorem keeps_mNeed {r : Option (Nat × Nat × Nat)} : Keeps (mNeed r) := by
  unfold Machine.mNeed
  exact .steps

@[simp] theorem Tidy.pushArr (w : Tidy s) {a : ArrCmd} : Tidy (pushArr s a) := w.setClu ..

@[simp] theorem keeps_cmdFence : Keeps (cmdFence r) := by
  unfold Machine.cmdFence
  exact .steps

@[simp] theorem keeps_needArr : Keeps (needArr) := by
  unfold Machine.needArr
  exact .steps

@[simp] theorem Tidy.execMcfg (w : Tidy s) {keep : Bool} {t : Fin 4} : TidyOut (execMcfg keep t a r s) := w.run .steps
@[simp] theorem Tidy.execMzero (w : Tidy s) {t : Fin 4} : TidyOut (execMzero t r s) := w.run .steps

@[simp] theorem keeps_mmaIssue {i : Instr} {m : MmaOp} : Keeps (mmaIssue i m) := by
  unfold Machine.mmaIssue
  exact .steps

@[simp] theorem Tidy.execMma (w : Tidy s) {sc pp : Bool} {o : MOps} : TidyOut (execMma sc pp o r s) := w.run .steps
@[simp] theorem Tidy.execMmas (w : Tidy s) {pat8 : Bool} {o : MOps} : TidyOut (execMmas pat8 o r s) := w.run .steps
@[simp] theorem Tidy.execMstat (w : Tidy s) {t : Fin 4} : TidyOut (execMstat d t s) := w.run .steps
@[simp] theorem Tidy.execMprog (w : Tidy s) : TidyOut (execMprog d s) := w.run .steps
@[simp] theorem Tidy.setArr (w : Tidy s) {r : ArrRun} : Tidy (setArr s n r) := w.setClu ..

@[simp] theorem Tidy.admitFollow (w : Tidy s) {a : ArrCmd} : Tidy (admitFollow s a) := by
  unfold Machine.admitFollow
  split
  · exact w
  · dsimp only
    split
    · exact w.engFault.pushDone
    · split
      · exact w.markBy.pushArr
      · exact w.pushArr

@[simp] theorem Tidy.admitWaiting {clu : Nat} : ∀ {l : List ArrCmd} {s : State}, Tidy s → Tidy (admitWaiting clu l s)
  | [], _, w => w
  | a :: l, s, w => by
    unfold Machine.admitWaiting
    split
    · exact w.setClu ..
    · exact w.admitFollow.admitWaiting

@[simp] theorem Tidy.admitFollows (w : Tidy s) : Tidy (admitFollows s clu) := (w.setClu ..).admitWaiting

@[simp] theorem Tidy.issueFollow (w : Tidy s) {a : ArrCmd} : Tidy (issueFollow s a) := by
  unfold Machine.issueFollow
  dsimp only
  split
  · exact w.setClu ..
  · exact w.admitFollow

@[simp] theorem Tidy.execArrayCommandStart (w : Tidy s) : TidyOut (execArrayCommandStart clu s) := by
  unfold Machine.execArrayCommandStart
  dsimp only
  split
  · split
    · exact w
    · split
      · split
        · split
          · exact (((w.forceFences.setClu ..).setClu ..).takeTrap ..).admitFollows
          · exact (w.forceFences.setClu ..).setArr
        · exact (w.forceFences.setClu ..).setArr
      · exact (w.forceFences.setClu ..).setArr
      · split
        · exact w.forceFences.setClu ..
        · split
          · exact (w.forceFences.setClu ..).setArr
          · split <;> exact (w.forceFences.setClu ..).setArr
  · exact w

@[simp] theorem Tidy.ownLine (w : Tidy s) {r : ArrRun} : Tidy (ownLine s clu r k n).2 := by
  unfold Machine.ownLine
  split
  · split
    · split
      · dsimp only
        split
        · exact w
        · next e _ _ => exact w.pick.of_snd e
      · dsimp only
        split
        · exact w
        · next e _ _ => exact w.pick.of_snd e
  · exact w

@[simp] theorem Tidy.ownPiece {clu : Nat} {r : ArrRun} : ∀ {fuel k n : Nat} {s : State}, Tidy s → Tidy (ownPiece s clu r fuel k n).2
  | 0, _, _, _, w => w
  | fuel + 1, k, n, s, w => by
    unfold Machine.ownPiece
    split
    · exact w
    · exact w.ownLine.ownPiece

@[simp] theorem Tidy.arrRead (w : Tidy s) {r : ArrRun} : Tidy (arrRead s clu r ea n).2 := by
  unfold Machine.arrRead
  dsimp only
  split
  · exact w
  · split
    · exact w
    · exact List.foldlRecOn (motive := fun (t : List Byte × State) => Tidy t.2) _ _ w (fun _ w _ _ => w.ownPiece)

@[simp] theorem Tidy.arrRows {clu : Nat} {r : ArrRun} {stride : Int} {bytes : Nat} : ∀ {n : Nat} {ea : Word}
    {s : State}, Tidy s → Tidy (arrRows s clu r stride bytes n ea).2
  | 0, _, _, w => w
  | n + 1, ea, s, w => by
    have w1 : Tidy (Machine.arrRead s clu r ea bytes).2 := w.arrRead
    unfold Machine.arrRows
    split
    · next e => rwa [e] at w1
    · next s1 e =>
      rw [e] at w1
      have w2 : Tidy (Machine.arrRows s1 clu r stride bytes n (ea + BitVec.ofInt 64 stride)).2 := Tidy.arrRows w1
      split
      · next e => rwa [e] at w2
      · next e => rwa [e] at w2

@[simp] theorem Tidy.readBlock (w : Tidy s) {r : ArrRun} {m : MmaOp} : Tidy (readBlock s clu r m lo hi).2 := by
  unfold Machine.readBlock
  extract_lets a sa nn ka
  split
  · next e => exact w.arrRows.of_snd e
  · next e =>
    have w1 := w.arrRows.of_snd e
    split
    · next e => exact w1.arrRows.of_snd e
    · next e =>
      have w2 := w1.arrRows.of_snd e
      extract_lets ea eb
      split
      · split
        · next e => exact w2.arrRead.of_snd e
        · next e => exact w2.arrRead.of_snd e
      · split
        · split
          · next e => exact w2.arrRows.of_snd e
          · next e =>
            have w3 := w2.arrRows.of_snd e
            dsimp only
            generalize List.any _ _ = bad
            cases bad <;> exact w3
        · exact w2

@[simp] theorem Tidy.arrFail (w : Tidy s) {r : ArrRun} {va : Word} : Tidy (arrFail s clu r cause va) := by
  unfold Machine.arrFail
  split
  · exact (w.setClu ..).queueWalk
  · exact w.setClu ..

@[simp] theorem Tidy.resumeArr (w : Tidy s) {r : ArrRun} {m : MmaOp} : Tidy (resumeArr s r m).1 := by
  unfold Machine.resumeArr
  split
  · split
    · exact w
    · dsimp only
      split
      · next e _ _ _ _ => exact w.forceFences.of_fst e
      · next e _ _ _ _ => exact w.forceFences.of_fst e

@[simp] theorem Tidy.rowBlock (w : Tidy s) {r : ArrRun} {m : MmaOp} : Tidy (rowBlock s clu r m) := by
  unfold Machine.rowBlock
  dsimp only
  split
  · exact w
  · split
    · next e => exact (w.readBlock.of_snd e).arrFail
    · split
      · next e _ _ _ => exact (w.readBlock.of_snd e).arrFail
      · next e _ _ => exact ((w.readBlock.of_snd e).noteRuns.putRows ..).raiseTid.setArr

@[simp] theorem Tidy.execRowBlockWrite (w : Tidy s) : TidyOut (execRowBlockWrite clu s) := by
  unfold Machine.execRowBlockWrite
  split
  · exact w
  · split
    · exact w
    · split
      · exact w
      · split
        · split
          · split
            · next e _ => exact w.resumeArr.of_fst e
            · split
              · next e _ _ => exact (w.resumeArr.of_fst e).setClu ..
              · next e _ _ => exact ((w.resumeArr.of_fst e).setClu ..).rowBlock
        · exact w.rowBlock

@[simp] theorem Tidy.arrReturn (w : Tidy s) {a : ArrCmd} : Tidy (arrReturn s a) := by
  unfold Machine.arrReturn
  split
  · exact w.modThread ..
  · exact w

@[simp] theorem Tidy.configTile (w : Tidy s) {a : ArrCmd} {img : List Byte} : Tidy (configTile s clu a img) := (w.setClu ..).putRows ..

@[simp] theorem Tidy.execArrayCommandEnd (w : Tidy s) : TidyOut (execArrayCommandEnd clu s) := by
  unfold Machine.execArrayCommandEnd
  split
  · exact w
  · dsimp only
    split
    · exact (w.configTile.closeArr ..).arrReturn.admitFollows
    · split
      · exact ((w.putRows ..).closeArr ..).arrReturn.admitFollows
      · exact (w.closeArr ..).arrReturn.admitFollows
    · split
      · exact (w.engFault.closeArr ..).pushDone.admitFollows
      · split
        · exact (w.closeArr ..).pushStopped.admitFollows
        · split
          · exact (w.closeArr ..).pushDone.admitFollows
          · exact w

/-! EXIT and retirement (R46, R206). -/

@[simp] theorem Tidy.modQueue (w : Tidy s) {f : Queue → Queue} : Tidy (State.modQueue s q f) := w.setQueue
@[simp] theorem Tidy.liveDown (w : Tidy s) : Tidy (liveDown s q) := w.modQueue
@[simp] theorem Tidy.readyPkt (w : Tidy s) : Tidy (readyPkt s id) := w.rest
@[simp] theorem Tidy.futFault (w : Tidy s) {eng : Nat} : Tidy (futFault s h cause eng) := w.engFault

@[simp] theorem Tidy.finishLaunch (w : Tidy s) {l : Launch} : Tidy (finishLaunch s l) := by
  unfold Machine.finishLaunch
  dsimp only
  split
  · exact w.rest.readyPkt
  · split
    · exact w.rest.liveDown.pushDone
    · exact w.rest.futFault.liveDown.pushDone
  · exact w.rest

@[simp] theorem Tidy.modLaunch (w : Tidy s) {f : Launch → Launch} : Tidy (modLaunch s id f) := w.rest

@[simp] theorem Tidy.taskEnded (w : Tidy s) : Tidy (taskEnded s id exited cause) := by
  unfold Machine.taskEnded
  dsimp only
  split
  · split
    · exact w.modLaunch.finishLaunch
    · exact w.modLaunch
  · exact w.modLaunch

@[simp] theorem Tidy.originEnded (w : Tidy s) {o : Origin} : Tidy (originEnded s o exited cause w0) := by
  unfold Machine.originEnded
  split
  · exact w
  · split
    · exact w.pushDone
    · exact w.futFault.pushDone
  · exact w.taskEnded
  · exact w.bodyEnded
  · exact w.readyPkt

@[simp] theorem Tidy.orphanTags (w : Tidy s) : Tidy (orphanTags s c tid) := w.setCore ..
@[simp] theorem Tidy.noteTrail (w : Tidy s) {l : List (Nat × Word)} : Tidy (noteTrail s tid l) := w.rest

@[simp] theorem Tidy.noteRan (w : Tidy s) {o : Origin} {l : List (Nat × Word)} : Tidy (noteRan s o l) := by
  unfold Machine.noteRan
  split
  · exact w.rest
  · exact w

@[simp] theorem Tidy.retire (w : Tidy s) : Tidy (retire s c sl exited cause) := by
  unfold Machine.retire
  split
  · exact w
  · exact Tidy.originEnded (Tidy.setSlot (Tidy.orphanTags (Tidy.endFrames (Tidy.foldl (fun _ _ w => w.dropCount) _ (w.noteRan.noteTrail)))) ..)

@[simp] theorem Tidy.execExit (w : Tidy s) : TidyOut (execExit s) := w.run .steps

@[simp] theorem Tidy.renameCmds (w : Tidy s) {old new : Word} : Tidy (renameCmds s old new) := by
  have renamed (x : CluSt) (f : ArrCmd → ArrCmd)
      (h : { x with arrQ := x.arrQ.map f, arrWait := x.arrWait.map f, arr := x.arr.map (fun r => { r with cmd := f r.cmd }) } = CluSt.reset) :
    x = CluSt.reset := by
    cases x
    simp only [CluSt.reset, CluSt.mk.injEq, List.map_eq_nil_iff, Option.map_eq_none_iff] at h ⊢
    exact h
  unfold Machine.renameCmds
  extract_lets f
  exact ⟨w.mem, w.slots, w.cores, twf_map (fun x => renamed x f) w.clus⟩

@[simp] theorem Tidy.bringFlit (w : Tidy s) {f : Flit} : Tidy (bringFlit s c sl f) := by
  unfold Machine.bringFlit
  split
  · exact w
  · have h {v : State} (w : Tidy v) : Tidy (f.scratch.zipIdx.foldl (fun s p => s.setShadow c sl (0x40 + 8 * p.2) p.1) v) :=
      Tidy.foldl (fun _ _ w => w.setShadow) _ w
    dsimp only
    refine Tidy.rest (s := ite _ _ _) ?_
    split
    · exact h (Tidy.setShadow (w.zeroWin.modThread ..))
    · exact Tidy.renameCmds (h (Tidy.setShadow (w.zeroWin.modThread ..)))

@[simp] theorem Tidy.rejectCreation (w : Tidy s) {r : Creation} : Tidy (rejectCreation s r) := by
  unfold Machine.rejectCreation
  have h1 : Tidy (match r.env with | some h => Machine.dropCount s h | none => s) := by
    split
    · exact w.dropCount
    · exact w
  have h2 {v : State} (w : Tidy v) : Tidy (match r.flit with | some f => f.k.toList.foldl Machine.dropCount v | none => v) := by
    split
    · exact Tidy.foldl (fun _ _ w => w.dropCount) _ w
    · exact w
  dsimp only
  split
  · split
    · exact (h2 h1).readyPkt.haltAtBoundary
    · exact (h2 h1).readyPkt
  · exact (h2 h1).originEnded

theorem Tidy.performCreation (w : Tidy s) {r : Creation} {u : State × Nat} (hu : performCreation s r = some u) : Tidy u.1 := by
  unfold Machine.performCreation at hu
  split at hu
  · cases hu
  · next s1 sl e =>
    have w1 : Tidy s1 := w.create e
    split at hu
    · cases hu
    · cases hu
      have w2 : Tidy (match r.flit with | some f => Machine.bringFlit s1 r.core sl f | none => s1) := by
        split
        · exact w1.bringFlit
        · exact w1
      have w3 {v : State} (w : Tidy v) : Tidy (match r.env with | some h => Machine.dropCount v h | none => v) := by
        split
        · exact w.dropCount
        · exact w
      dsimp only
      split
      · exact (w3 w2).rest
      · exact w3 w2

@[simp] theorem Tidy.execThreadCreation (w : Tidy s) : TidyOut (execThreadCreation n s) := by
  unfold Machine.execThreadCreation
  split
  · exact w
  · split
    · exact Tidy.rejectCreation w.rest
    · split
      · next e => exact (w.performCreation e).rest
      · exact w

/-! The vector pipe (R173-R190, R227). -/

@[simp] theorem Tidy.vEnqueue (w : Tidy s) {v : VCmd} : Tidy (vEnqueue s c v) := w.setCore ..

@[simp] theorem keeps_vIssue {i : Instr} : Keeps (vIssue i) := by
  unfold Machine.vIssue
  exact .steps

@[simp] theorem Tidy.vCompute (w : Tidy s) {v : VCmd} {f : VForm} : Tidy (vCompute s c v f).1 := by
  unfold Machine.vCompute
  dsimp only
  split
  · exact w
  · split
    · exact w
    · split
      · exact w.pick
      · exact w
  · split
    · exact w
    · split <;> exact w
    · exact w
  · split <;> exact w
  · split <;> exact w

@[simp] theorem Tidy.execVectorStart (w : Tidy s) : TidyOut (execVectorStart core s) := by
  unfold Machine.execVectorStart
  split
  · exact w
  · split
    · exact w
    · split
      · exact w
      · exact w.vCompute.setCore ..

@[simp] theorem Tidy.vDoneLive (w : Tidy s) {v : VCmd} : Tidy (vDoneLive s c sl v) := by
  unfold Machine.vDoneLive
  split
  · exact (w.modThread ..).takeTrap ..
  · exact (Tidy.foldl (fun _ _ w => w.setReg ..) _ w).modThread ..

@[simp] theorem Tidy.recordWrite (w : Tidy s) {x : Spilled} {o : Nat} : Tidy (recordWrite s x o v) := by
  unfold Machine.recordWrite
  split
  · exact w.setW64 ..
  · exact w

@[simp] theorem Tidy.vDoneSpilled (w : Tidy s) {x : Spilled} {v : VCmd} : Tidy (vDoneSpilled s x v) := by
  unfold Machine.vDoneSpilled
  dsimp only
  split
  · exact w.recordWrite.recordWrite.recordWrite.modSpilled
  · have h : Tidy (v.adv.foldl (fun s p => Machine.recordWrite s x (8 * p.1) p.2) s) := Tidy.foldl (fun _ _ w => w.recordWrite) _ w
    split
    · exact h.recordWrite.recordWrite.modSpilled
    · exact h.recordWrite.modSpilled

@[simp] theorem Tidy.execVectorCompletion (w : Tidy s) : TidyOut (execVectorCompletion core s) := by
  unfold Machine.execVectorCompletion
  split
  · exact w
  · next v _ =>
    split
    · exact w
    · have w1 : Tidy (v.writes.foldl (fun s p => s.putClear p.1 p.2) s) := Tidy.foldl (fun _ _ w => w.putClear) _ w
      have w2 (x : CoreSt) := (w1.setCore core x).raiseTid (tid := v.tid) (m := v.flagsOut)
      dsimp only
      split
      · exact (w2 _).vDoneLive
      · split
        · exact (w2 _).vDoneSpilled
        · exact w2 _

@[simp] theorem Tidy.execVmov (w : Tidy s) : TidyOut (execVmov o s) := w.run .steps
@[simp] theorem Tidy.execVadd (w : Tidy s) : TidyOut (execVadd o s) := w.run .steps
@[simp] theorem Tidy.execVsub (w : Tidy s) : TidyOut (execVsub o s) := w.run .steps
@[simp] theorem Tidy.execVmul (w : Tidy s) : TidyOut (execVmul o s) := w.run .steps
@[simp] theorem Tidy.execVdiv (w : Tidy s) : TidyOut (execVdiv o s) := w.run .steps
@[simp] theorem Tidy.execVmin (w : Tidy s) : TidyOut (execVmin o s) := w.run .steps
@[simp] theorem Tidy.execVmax (w : Tidy s) : TidyOut (execVmax o s) := w.run .steps
@[simp] theorem Tidy.execVfma (w : Tidy s) : TidyOut (execVfma o s) := w.run .steps
@[simp] theorem Tidy.execVand (w : Tidy s) : TidyOut (execVand o s) := w.run .steps
@[simp] theorem Tidy.execVor (w : Tidy s) : TidyOut (execVor o s) := w.run .steps
@[simp] theorem Tidy.execVxor (w : Tidy s) : TidyOut (execVxor o s) := w.run .steps
@[simp] theorem Tidy.execVshl (w : Tidy s) : TidyOut (execVshl o s) := w.run .steps
@[simp] theorem Tidy.execVshr (w : Tidy s) : TidyOut (execVshr o s) := w.run .steps
@[simp] theorem Tidy.execVsar (w : Tidy s) : TidyOut (execVsar o s) := w.run .steps
@[simp] theorem Tidy.execVabs (w : Tidy s) : TidyOut (execVabs o s) := w.run .steps
@[simp] theorem Tidy.execVneg (w : Tidy s) : TidyOut (execVneg o s) := w.run .steps
@[simp] theorem Tidy.execVsqrt (w : Tidy s) : TidyOut (execVsqrt o s) := w.run .steps
@[simp] theorem Tidy.execVrcp (w : Tidy s) : TidyOut (execVrcp o s) := w.run .steps
@[simp] theorem Tidy.execVrsqrt (w : Tidy s) : TidyOut (execVrsqrt o s) := w.run .steps
@[simp] theorem Tidy.execVexp (w : Tidy s) : TidyOut (execVexp o s) := w.run .steps
@[simp] theorem Tidy.execVlog (w : Tidy s) : TidyOut (execVlog o s) := w.run .steps
@[simp] theorem Tidy.execVtanh (w : Tidy s) : TidyOut (execVtanh o s) := w.run .steps
@[simp] theorem Tidy.execVsigm (w : Tidy s) : TidyOut (execVsigm o s) := w.run .steps
@[simp] theorem Tidy.execVcmp (w : Tidy s) {c : Cond} : TidyOut (execVcmp c o s) := w.run .steps
@[simp] theorem Tidy.execVsel (w : Tidy s) : TidyOut (execVsel o s) := w.run .steps
@[simp] theorem Tidy.execVred (w : Tidy s) : TidyOut (execVred arr msk o s) := w.run .steps
@[simp] theorem Tidy.execVredmax (w : Tidy s) : TidyOut (execVredmax arr msk o s) := w.run .steps
@[simp] theorem Tidy.execVredmin (w : Tidy s) : TidyOut (execVredmin arr msk o s) := w.run .steps
@[simp] theorem Tidy.execVdot (w : Tidy s) : TidyOut (execVdot arr o s) := w.run .steps
@[simp] theorem Tidy.execVsmax (w : Tidy s) {dvM1 : BitVec 12} : TidyOut (execVsmax dvM1 o s) := w.run .steps
@[simp] theorem Tidy.execVsmaxf (w : Tidy s) {dvM1 : BitVec 12} : TidyOut (execVsmaxf dvM1 o s) := w.run .steps
@[simp] theorem Tidy.execMcomp (w : Tidy s) {pat8 : Bool} {km1 : BitVec 16} {rowsM1 : BitVec 7} : TidyOut (execMcomp pat8 d a e km1 rowsM1 s) := w.run .steps

/-! Copies as programs see them (R191-R203). -/

@[simp] theorem Tidy.execMtc (w : Tidy s) {c : Fin 8} : TidyOut (execMtc c a s) := w.run .steps
@[simp] theorem Tidy.execMfc (w : Tidy s) {c : Fin 9} : TidyOut (execMfc d c s) := w.run .steps
@[simp] theorem Tidy.setTag (w : Tidy s) {t : Nat} {x : TagSt} : Tidy (State.setTag s c t x) := w.setCore ..

@[simp] theorem Tidy.takeTag (w : Tidy s) {t batch : Nat} : Tidy (takeTag s c t tid batch).1 := by
  unfold Machine.takeTag
  exact w.setTag

@[simp] theorem Tidy.enqueueCopy (w : Tidy s) {k : Copy} : Tidy (enqueueCopy s k) := w.rest

@[simp] theorem keeps_joinBatch {tag gen : Nat} : Keeps (joinBatch tag gen) := by
  unfold Machine.joinBatch
  exact .steps

@[simp] theorem keeps_captureFollow {i : Instr} {m : MmaOp} : Keeps (captureFollow i m) := by
  unfold Machine.captureFollow
  exact .steps

@[simp] theorem Tidy.execClaunch (w : Tidy s) : TidyOut (execClaunch d s) := w.run .steps

@[simp] theorem Tidy.execHalo (w : Tidy s) {gxM1 gyM1 : BitVec 4} {wrap : Bool} : TidyOut (execHalo d a b gxM1 gyM1 wrap s) := by
  unfold Machine.execHalo
  exact w.run .steps

@[simp] theorem Tidy.execCstat (w : Tidy s) : TidyOut (execCstat d a s) := w.run .steps

@[simp] theorem Tidy.reportTags (w : Tidy s) {m : Word} : Tidy (reportTags s c tid m) := by
  refine Tidy.foldl (fun s t w => ?_) _ w
  dsimp only
  split
  · exact w.setTag
  · exact w

@[simp] theorem keeps_tagDone {src : Bool} {m : Word} : Keeps (tagDone src d m v) := by
  unfold Machine.tagDone
  exact .steps

@[simp] theorem keeps_twait {all src : Bool} : Keeps (twait all src d a) := by
  unfold Machine.twait
  exact .steps

@[simp] theorem keeps_tffr {src : Bool} : Keeps (tffr src d a) := by
  unfold Machine.tffr
  exact .steps

@[simp] theorem Tidy.execTwaitany (w : Tidy s) : TidyOut (execTwaitany d a s) := w.run .steps
@[simp] theorem Tidy.execTwaitall (w : Tidy s) : TidyOut (execTwaitall d a s) := w.run .steps
@[simp] theorem Tidy.execTffr (w : Tidy s) : TidyOut (execTffr d a s) := w.run .steps
@[simp] theorem Tidy.execTwaitanySrc (w : Tidy s) : TidyOut (execTwaitanySrc d a s) := w.run .steps
@[simp] theorem Tidy.execTwaitallSrc (w : Tidy s) : TidyOut (execTwaitallSrc d a s) := w.run .steps
@[simp] theorem Tidy.execTffrSrc (w : Tidy s) : TidyOut (execTffrSrc d a s) := w.run .steps
@[simp] theorem Tidy.execCseal (w : Tidy s) : TidyOut (execCseal s) := w.run .steps
@[simp] theorem Tidy.execCwaitn (w : Tidy s) {n : BitVec 4} : TidyOut (execCwaitn n s) := w.run .steps
@[simp] theorem Tidy.execCwaitnSrc (w : Tidy s) {n : BitVec 4} : TidyOut (execCwaitnSrc n s) := w.run .steps

/-! What copy engines do (R193-R206). -/

@[simp] theorem Tidy.setCopy (w : Tidy s) {k : Copy} : Tidy (setCopy s k) := w.modCopy

@[simp] theorem Tidy.overlapRow {k : Copy} : ∀ {n : Nat} {ws : List (Nat × List Byte)} {src dst : List (Nat × Nat)} {s : State},
    Tidy s → Tidy (overlapRow k n ws src dst s).2.2.2
  | 0, _, _, _, _, w => w
  | _ + 1, _, [], _, _, w => w
  | n + 1, ws, (a, m) :: rest, dst, s, w => by
    unfold Machine.overlapRow
    dsimp only
    refine Tidy.overlapRow ?_
    split
    · exact w
    · exact w.pick

@[simp] theorem Tidy.copyRow (w : Tidy s) {k : Copy} {lap : Bool} {ws : List (Nat × List Byte)} {r c0 : Nat} : Tidy (copyRow s k lap ws r c0).2.2 := by
  unfold Machine.copyRow
  dsimp only
  split
  · exact w.overlapRow
  · exact w

@[simp] theorem Tidy.copyRows {k : Copy} {lap : Bool} : ∀ {n r c0 : Nat} {ws : List (Nat × List Byte)} {s : State}, Tidy s → Tidy (copyRows k lap n r c0 ws s).2
  | 0, _, _, _, _, w => w
  | n + 1, r, c0, ws, s, w => by
    unfold Machine.copyRows
    dsimp only
    split
    · exact w.copyRow
    · exact w.copyRow.copyRows

@[simp] theorem Tidy.copyBlocks {k : Copy} {lap : Bool} : ∀ {n b skip : Nat} {ws : List (Nat × List Byte)}
    {s : State}, Tidy s → Tidy (copyBlocks k lap n b skip ws s).2
  | 0, _, _, _, _, w => w
  | n + 1, b, skip, ws, s, w => by
    unfold Machine.copyBlocks
    dsimp only
    generalize readLines s k.ctx _ = r
    split
    · exact w
    · refine Tidy.copyBlocks ?_
      rw [apply_ite Prod.snd, tidy_ite]
      refine ⟨fun _ => w, fun _ => List.foldlRecOn (motive := fun (t : List Elem × State) => Tidy t.2) _ _ w (fun t w p _ => ?_)⟩
      split
      · exact w
      · exact w.pick

@[simp] theorem Tidy.copyRead (w : Tidy s) {k : Copy} : Tidy (copyRead s k).2 := by
  unfold Machine.copyRead
  split
  · exact w.copyBlocks
  · exact w.copyRows

@[simp] theorem Tidy.racePut (w : Tidy s) {raced : List (Nat × Nat × Nat)} : Tidy (racePut s id raced k bs) := w.engPut

@[simp] theorem Tidy.granules {id : Nat} {raced : List (Nat × Nat × Nat)} : ∀ {n : Nat} {s : State} {k : Nat} {bs : List Byte},
    Tidy s → Tidy (granules s id raced n k bs)
  | 0, _, _, _, w => w
  | n + 1, s, k, bs, w => by
    unfold Machine.granules
    split
    · exact w
    · exact w.racePut.granules

@[simp] theorem Tidy.copyPut (w : Tidy s) {k : Copy} {key : Nat} : Tidy (copyPut s k key bs) := by
  unfold Machine.copyPut
  dsimp only
  refine Tidy.rest (s := ite _ _ _) ?_
  split
  · exact w.engPut
  · exact w.granules

@[simp] theorem Tidy.copyPieces {k : Copy} : ∀ {l : List (Nat × Nat)} {s : State} {bs : List Byte}, Tidy s → Tidy (copyPieces s k l bs)
  | [], _, _, w => w
  | _ :: _, _, _, w => w.copyPut.copyPieces

@[simp] theorem Tidy.copyWrites {k : Copy} : ∀ {n : Nat} {s : State} {p : Nat} {l : List (Nat × List Byte)}, Tidy s → Tidy (copyWrites k n s p l).1
  | 0, _, _, _, w => w
  | _ + 1, _, _, [], w => w
  | n + 1, s, p, (a, bs) :: rest, w => by
    unfold Machine.copyWrites
    dsimp only
    split
    · split
      · exact w
      · refine Tidy.copyWrites (Tidy.foldl (fun s r w => ?_) _ w)
        split
        · exact w.copyPut
        · exact w
    · split
      · exact w.copyPieces
      · exact w.copyPieces.copyWrites

@[simp] theorem Tidy.failPkt (w : Tidy s) : Tidy (failPkt s id cause) := by
  unfold Machine.failPkt
  split
  · exact w
  · exact w.rest.haltAtBoundary

@[simp] theorem Tidy.copyArrive (w : Tidy s) {k : Copy} : Tidy (copyArrive s k).1 := by
  unfold Machine.copyArrive
  split
  · exact w.engineArrive
  · exact w

@[simp] theorem Tidy.clearCovered (w : Tidy s) {l : List (Nat × Nat)} : Tidy (clearCovered s l) := w.rest

@[simp] theorem Tidy.landCopy (w : Tidy s) {k : Copy} {fault : Option (Nat × Word)} : Tidy (landCopy s k fault) := by
  unfold Machine.landCopy
  -- with or without a barrier, a follow-on, a fault, a traced step, a tag and a packet, each part is kept
  grind [Tidy.clearCovered, Tidy.copyArrive, Tidy.engFault, Tidy.pushDone, Tidy.issueFollow, Tidy.trace, Tidy.setTag, Tidy.rest, Tidy.failPkt, Tidy.readyPkt]

@[simp] theorem Tidy.pauseCopy (w : Tidy s) {k : Copy} {acc : Acc} {va : Word} : Tidy (pauseCopy s k acc va) := w.setCopy.queueWalk

@[simp] theorem Tidy.tagProg (w : Tidy s) {k : Copy} : Tidy (tagProg s k) := by
  unfold Machine.tagProg
  split
  · exact w.setTag
  · exact w

@[simp] theorem Tidy.copyStep (w : Tidy s) {k : Copy} {again : Nat} {l : List (Nat × List Byte)} {after : Option (Nat × Word)} {acc : Acc}
    {ok : State → Copy → State}
    (h : ∀ s k, Tidy s → Tidy (ok s k)) : Tidy (copyStep s k again l after acc ok) := by
  unfold Machine.copyStep
  dsimp only
  have w1 := w.copyWrites (k := k) (n := l.length + 1) (p := k.prog) (l := l)
  split
  · split
    · exact w1.setCopy.tagProg.pauseCopy
    · exact w1.setCopy.tagProg.landCopy
  · split
    · split
      · exact w1.setCopy.tagProg.pauseCopy
      · exact w1.setCopy.tagProg.landCopy
    · exact h _ _ w1.setCopy.tagProg

@[simp] theorem Tidy.raiseCopy (w : Tidy s) {k : Copy} {m : IFl} : Tidy (raiseCopy s k m) := by
  unfold Machine.raiseCopy
  split
  · exact w.treeRaise
  · exact w.raiseTid

@[simp] theorem Tidy.beginCopy (w : Tidy s) {k : Copy} : Tidy (beginCopy s k) := by
  unfold Machine.beginCopy
  split
  next e =>
    have w1 := w.copyRead.of_snd e
    split
    · exact w
    · split
      · exact w1.raiseCopy.setCopy.noteRuns
      · exact Tidy.copyStep w1.raiseCopy fun _ _ w => w

@[simp] theorem Tidy.noteStart (w : Tidy s) {k : Copy} : Tidy (noteStart s k) := by
  unfold Machine.noteStart
  dsimp only
  split
  · exact (w.trace ..).setCopy
  · exact w.setCopy

@[simp] theorem Tidy.execCopyStart (w : Tidy s) : TidyOut (execCopyStart id s) := by
  unfold Machine.execCopyStart
  split
  · exact w
  · next k _ =>
    split
    · exact w
    · have w1 : Tidy (if k.packet.isSome then (s, false) else Machine.forceFences s k.core k.tid).1 := by
        split
        · exact w
        · exact w.forceFences
      generalize (if k.packet.isSome then (s, false) else Machine.forceFences s k.core k.tid) = r at w1
      dsimp only
      split
      · exact w
      · split
        · exact w1.noteStart.beginCopy
        · split
          · exact w1.noteStart.landCopy
          · exact w1.noteStart.beginCopy

@[simp] theorem Tidy.execCopyReleased (w : Tidy s) : TidyOut (execCopyReleased id s) := by
  unfold Machine.execCopyReleased
  split
  · exact w
  · split
    · split
      · exact w
      · exact Tidy.copyStep w fun _ _ w => w
    · split
      · split
        · exact w.setCopy.setTag
        · exact w.setCopy
      · exact w

@[simp] theorem Tidy.execCopyLanded (w : Tidy s) : TidyOut (execCopyLanded id s) := by
  unfold Machine.execCopyLanded
  split
  · exact w
  · next k _ =>
    split
    · exact w.landCopy
    · split
      · have w1 : Tidy (if k.stage = 4 && k.packet.isNone then Machine.forceFences s k.core k.tid else (s, false)).1 := by
          split
          · exact w.forceFences
          · exact w
        generalize (if k.stage = 4 && k.packet.isNone then Machine.forceFences s k.core k.tid else (s, false)) = r at w1
        dsimp only
        split
        · exact w
        · exact w1.copyStep fun _ _ w => w.noteRuns.landCopy
      · exact w

@[simp] theorem Tidy.execHaloCopy (w : Tidy s) : TidyOut (execHaloCopy id s) := by
  unfold Machine.execHaloCopy
  split
  · exact w
  · split
    · exact w
    · split
      · exact w
      · dsimp only
        split
        · split
          · exact w.landCopy
          · exact w
        · split
          · exact w.noteStart.setCopy
          · exact w.noteStart.copyStep fun _ _ w => w

/-! Requests from outside (R311, R343-R346). -/

@[simp] theorem Tidy.linkReply (w : Tidy s) {r : LinkReq} : Tidy (linkReply s r cause data) := w.rest

@[simp] theorem Tidy.arriveWrite (w : Tidy s) : Tidy (arriveWrite s k bs) := by
  unfold Machine.arriveWrite
  dsimp only
  split
  · exact (w.put ..).touchRegs
  · exact w.put ..

@[simp] theorem Tidy.arriveWrites : ∀ {l : List (Nat × Nat)} {s : State} {bs : List Byte}, Tidy s → Tidy (arriveWrites s l bs)
  | [], _, _, w => w
  | _ :: _, _, _, w => w.arriveWrite.arriveWrites

@[simp] theorem Tidy.linkPerform (w : Tidy s) {r : LinkReq} : Tidy (linkPerform s r) := by
  unfold Machine.linkPerform
  split
  · exact w.linkReply
  · dsimp only
    split
    · exact w.rest.linkReply
    · split
      · exact w.devStoreN.linkReply
      · exact w.linkReply
    · split <;> exact w.linkReply
    · exact w.linkReply
    · exact w.linkReply
    · exact w.arriveWrite.linkReply
    · split <;> exact w.linkReply
    · split
      · exact w.linkReply
      · exact w.arriveWrite.linkReply
    · exact w.engineArrive.linkReply

@[simp] theorem Tidy.flitOver (w : Tidy s) {r : LinkReq} : Tidy (flitOver s n r) := w.rest

@[simp] theorem Tidy.flitDeliver (w : Tidy s) {r : LinkReq} : Tidy (flitDeliver s n r) := by
  unfold Machine.flitDeliver
  dsimp only
  split
  · exact w.flitOver.linkPerform
  · exact w.flitOver.rest

@[simp] theorem Tidy.execFlitReceive (w : Tidy s) {crcOk : Bool} : TidyOut (execFlitReceive n crcOk s) := by
  unfold Machine.execFlitReceive
  split
  · exact w
  · dsimp only
    split
    · exact w.rest
    · split
      · exact w
      · split
        · split
          · exact w.rest
          · exact w.flitOver
        · split
          · exact w
          · exact w.flitDeliver

@[simp] theorem Tidy.execLinkFailure (w : Tidy s) {m : Nat} {down : Bool} : TidyOut (execLinkFailure m down s) := w.rest

@[simp] theorem Tidy.bar2One (w : Tidy s) {e : Nat × Word × List Byte} : Tidy (bar2One s e) := by
  unfold Machine.bar2One
  dsimp only
  split
  · exact w.rest
  · split
    · exact w
    · split
      · exact w.rest
      · exact w.arriveWrites

@[simp] theorem Tidy.settleBar2 (w : Tidy s) : Tidy (settleBar2 s) := Tidy.foldl (fun _ _ w => w.bar2One) _ w.rest
@[simp] theorem Tidy.execHostBar2Write (w : Tidy s) {func : Nat} {va : Word} : TidyOut (execHostBar2Write func va data s) := w.bar2One

/-! Sweeps and the Mint (R232-R246). -/

@[simp] theorem keeps_sweepIssue {i : Instr} {f : WReg} : Keeps (sweepIssue i d a e f r) := by
  unfold Machine.sweepIssue
  exact .steps

@[simp] theorem Tidy.execSweep (w : Tidy s) {t : STy} {res : Bool} {k : KReg} {f : WReg} {seg : Seg} {cl0 nclM1 : BitVec 7} :
    TidyOut (execSweep t arr res d a k e f seg cl0 nclM1 r s) := w.run .steps

@[simp] theorem Tidy.pauseTile (w : Tidy s) {x : Sweep} {t : Nat} {va : Word} : Tidy (pauseTile s x t va) := w.modSweep.queueWalk

@[simp] theorem Tidy.sweepFuture (w : Tidy s) : Tidy (sweepFuture s c sl d).1 := by
  unfold Machine.sweepFuture
  exact w.placeFuture.modThread ..

@[simp] theorem Tidy.pauseUnmapped (w : Tidy s) {x : Sweep} : Tidy (pauseUnmapped s x) := by
  refine Tidy.foldl (fun s t w => ?_) _ w
  split
  · exact w
  · split
    · exact w.pauseTile
    · exact w

@[simp] theorem Tidy.admitSweep (w : Tidy s) {r : SweepReq} {ty : STy} {res : Bool} {seg cl0 ncl : Nat} {o : OrdScope} {a : Admit} :
    Tidy (admitSweep s t r ty arr res d h seg cl0 ncl o a) := by
  unfold Machine.admitSweep
  split
  · exact (w.placeFuture.modThread ..).noteSwept.pushDone
  · dsimp only
    split
    · exact w.takeTrap ..
    · next e => exact (w.writeBy e).takeCount.sweepFuture.rest.noteRuns.pauseUnmapped.settleSweep

@[simp] theorem Tidy.execSweepAcceptance (w : Tidy s) : TidyOut (execSweepAcceptance core slot s) := by
  unfold Machine.execSweepAcceptance
  split
  · split
    · split
      · exact w
      · dsimp only
        split
        · split
          · next e _ _ _ _ _ _ _ _ _ _ _ _ _ _ _ _ _ _ _ => exact ((w.forceFences.of_fst e).rest.setWait ..).takeTrap ..
          · next e _ _ _ _ _ _ _ _ _ _ _ _ _ _ _ _ _ _ => exact (w.forceFences.of_fst e).rest.admitSweep
        · next e _ _ _ => exact (w.forceFences.of_fst e).rest
  · exact w

@[simp] theorem Tidy.landOn (h : Tidy s) {w : Sweep} {t c b : Nat} {fmt : Word} {n : Nat} {bs : List Byte} : Tidy (landOn s w t c b fmt n bs) := by
  unfold Machine.landOn
  dsimp only
  split
  · exact h
  · next s2 sl e => exact Tidy.trace (Tidy.modSweep (Tidy.raiseAt (Tidy.create h.putClear e))) ..

@[simp] theorem Tidy.execTileDelivery (w : Tidy s) {sw : Nat} : TidyOut (execTileDelivery sw tile core s) := by
  unfold Machine.execTileDelivery
  split
  · exact w
  · split
    · exact w
    · dsimp only
      split
      · exact w.failTileAt
      · split
        · split
          · exact w.pauseTile
          · exact w.failTileAt
        · split
          · split
            · exact w.failTileAt
            · split
              · exact w.failTileAt
              · exact w.noteRuns.landOn
          · exact w.failTileAt

@[simp] theorem Tidy.execTileAgePriority (w : Tidy s) {sw : Nat} : TidyOut (execTileAgePriority sw tile s) := by
  unfold Machine.execTileAgePriority
  split
  · exact w
  · split
    · exact w.modSweep
    · exact w

@[simp] theorem Tidy.execSwstat (w : Tidy s) : TidyOut (execSwstat d a s) := w.run .steps

@[simp] theorem Tidy.cancelSweep (w : Tidy s) : Tidy (cancelSweep s id) := by
  unfold Machine.cancelSweep
  split
  · split
    · exact w.modSweep.settleSweep
    · exact w
  · exact w

@[simp] theorem Tidy.execSwcancel (w : Tidy s) : TidyOut (execSwcancel a s) := w.run .steps

@[simp] theorem keeps_slotLeaves {ty : STy} {base : Word} : ∀ {l : List (Nat × Bool)}, Keeps (slotLeaves ty base l)
  | [] => keeps_pure _
  | (i, p) :: l => by
    have ih := keeps_slotLeaves (ty := ty) (base := base) (l := l)
    unfold slotLeaves
    exact .steps

@[simp] theorem keeps_mergeSlots {ty : STy} {dst base : Word} {l : List (Nat × Bool)} : Keeps (mergeSlots ty arr dst base l) := by
  unfold Machine.mergeSlots
  exact .steps

@[simp] theorem Tidy.execSwmerge (w : Tidy s) {t : STy} : TidyOut (execSwmerge t arr d a b s) := w.run .steps

@[simp] theorem keeps_ssaWords {base : Word} : ∀ {l : List Nat}, Keeps (ssaWords base l)
  | [] => keeps_pure _
  | _ :: _ => keeps_loadAt.bind fun _ => keeps_ssaWords.bind fun _ => keeps_pure _

@[simp] theorem Tidy.execSwmergeSsa (w : Tidy s) : TidyOut (execSwmergeSsa d a s) := w.run .steps

/-! Futures as programs see them (R208-R211). -/

@[simp] theorem Tidy.modFut (w : Tidy s) {f : Fut → Fut} : Tidy (modFut s h f) := w.rest
@[simp] theorem Tidy.execFtest (w : Tidy s) : TidyOut (execFtest d a s) := w.run .steps
@[simp] theorem Tidy.execFpass (w : Tidy s) : TidyOut (execFpass d a s) := w.run .steps
@[simp] theorem Tidy.execFpassMem (w : Tidy s) {o : BitVec 23} : TidyOut (execFpassMem a o b s) := w.run .steps

theorem Tidy.reachFut (w : Tidy s) {f : Fut} {a : Arrive} {u : State} (hu : reachFut s f a = some u) : Tidy u := by
  unfold Machine.reachFut at hu
  split at hu
  · cases hu; exact w
  · cases hu
    split
    · exact w.arrivePair
    · exact w
  · obtain ⟨s1, e, rfl⟩ := Option.map_eq_some_iff.1 hu
    exact (w.arriveReg e).modTid.settleHeld

@[simp] theorem Tidy.dropFut (w : Tidy s) : Tidy (dropFut s h) := w.rest

@[simp] theorem Tidy.stopNow (w : Tidy s) : Tidy (stopNow s h) := by
  unfold Machine.stopNow
  split
  · exact w
  · exact (w.getD fun _ e => w.reachFut e).dropFut

@[simp] theorem Tidy.stopCmd (w : Tidy s) : Tidy (stopCmd s h) := by
  unfold Machine.stopCmd
  dsimp only
  split
  · exact (w.setClu ..).admitFollows.pushStopped
  · split
    · exact w.modArr
    · exact w

@[simp] theorem Tidy.askStop (w : Tidy s) : Tidy (askStop s h) := by
  unfold Machine.askStop
  split
  · exact w.stopCmd
  · exact w.stopCmd
  · split
    · exact w.cancelSweep
    · exact w
  · split
    · dsimp only
      split
      · exact w.rest.dropCount.stopNow
      · exact w.rest.stopNow
    · exact w.stopNow
  · exact w.rest.pushStopped
  · split
    · exact w.modCopy.pushStopped
    · exact w.stopCmd
  · exact w

@[simp] theorem Tidy.execFcancel (w : Tidy s) : TidyOut (execFcancel a s) := by
  unfold Machine.execFcancel
  have stopped {s : State} (w : Tidy s) (k : Nat) (v v' : Word) (f : Fut → Fut) : Tidy (Machine.askStop (Machine.modFut (s.setW64 k v') v f) v) :=
    (w.setW64 ..).modFut.askStop
  exact w.run .steps

@[simp] theorem Tidy.execFtime (w : Tidy s) : TidyOut (execFtime d a s) := w.run .steps
@[simp] theorem Tidy.execFwait (w : Tidy s) : TidyOut (execFwait a s) := w.run .steps

@[simp] theorem Tidy.execFutureCompletion (w : Tidy s) : TidyOut (execFutureCompletion n s) := by
  unfold Machine.execFutureCompletion
  split
  · exact w
  · next d _ =>
    have h : Tidy (Machine.dropFut { s with eng := { s.eng with dones := delAt s.eng.dones n } } d.h) := Tidy.dropFut w.rest
    dsimp only
    split
    · exact h.trace ..
    · split
      · split
        · exact w
        · exact w.getD fun _ e => (h.trace ..).reachFut e
      all_goals exact w.getD fun _ e => (h.trace ..).reachFut e

/-! Messages (R44, R45, R167-R172). -/

@[simp] theorem Tidy.execMytid (w : Tidy s) : TidyOut (execMytid d s) := w.run .steps
@[simp] theorem Tidy.execSend (w : Tidy s) {code : BitVec 16} : TidyOut (execSend d a b code s) := w.run .steps
@[simp] theorem Tidy.dropReport (w : Tidy s) {src : Word} : Tidy (dropReport s src) := w.setClu ..

@[simp] theorem Tidy.replySend (w : Tidy s) {d st : Nat} : Tidy (replySend s tid d st) := by
  unfold Machine.replySend
  split
  · exact (w.setReg ..).setWait ..
  · exact w

@[simp] theorem Tidy.rejectMsg (w : Tidy s) {m : NetMsg} : Tidy (rejectMsg s m) := by
  unfold Machine.rejectMsg
  split
  · exact w.dropReport
  · split
    · exact (w.modThread ..).takeTrap ..
    · exact w

@[simp] theorem Tidy.execMessageArrival (w : Tidy s) : TidyOut (execMessageArrival n s) := by
  unfold Machine.execMessageArrival
  split
  · exact w
  · split
    · exact w
    · dsimp only
      split
      · exact w.rest.rejectMsg
      · split
        · split
          · exact w.rest.modTid.replySend
          · exact w.rest.replySend
        · split
          · exact w.rest.modTid
          · exact w.rest.dropReport

@[simp] theorem Tidy.deliverMsg (w : Tidy s) {m : Msg} : Tidy (deliverMsg s c sl t m) := by
  unfold Machine.deliverMsg
  dsimp only
  split
  · exact (w.setWait ..).trapEntry
  · split
    · exact (w.setWait ..).trapEntry
    · split
      · next e _ _ => exact ((w.setWait ..).openFrame e).setShadow.setShadow.setShadow.setShadow.setShadow.setShadow.setShadow
      · next e _ _ _ => exact (((((((w.setWait ..).openFrame e).setShadow.setShadow.setShadow.setShadow.setShadow.setShadow.setShadow.setReg ..).setReg ..).setReg ..).setReg ..).trace ..).setSlot ..

@[simp] theorem Tidy.execMessageDelivery (w : Tidy s) : TidyOut (execMessageDelivery core slot s) := by
  unfold Machine.execMessageDelivery
  split
  · exact w
  · split
    · split
      · exact w.deliverMsg
      · exact w
    · exact w

@[simp] theorem Tidy.takeOverrun (w : Tidy s) : Tidy (takeOverrun s c sl) := (w.modThread ..).takeTrap ..

@[simp] theorem Tidy.execMessageMaskOverrun (w : Tidy s) : TidyOut (execMessageMaskOverrun core slot s) := by
  unfold Machine.execMessageMaskOverrun
  split
  · exact w
  · split
    · exact w.takeOverrun
    · exact w

@[simp] theorem Tidy.tickMask {s0 : State} (w : Tidy s) {c sl : Nat} {t : Thread} : Tidy (tickMask s0 s c sl t) := by
  unfold Machine.tickMask
  split
  · exact Tidy.setShadow (w.setThread ..)
  · exact w

@[simp] theorem Tidy.tickMasks {s0 : State} (w : Tidy s) : Tidy (tickMasks s0 s) := by
  refine Tidy.foldl (fun s p w => ?_) _ w
  split
  · exact w.tickMask
  · exact w

@[simp] theorem Tidy.execMret (w : Tidy s) : TidyOut (execMret s) := by
  refine w.run (keeps_me.bind fun (c, sl) => keeps_th.bind fun t => (keeps_ask _).bind fun _ => (keeps_need ..).bind fun _ =>
    (keeps_ask _).bind fun spc => (keeps_ask _).bind fun x => (keeps_checkTarget _).bind fun _ => Keeps.ask_bind (P := TidyOk) (fun _ w _ e => w.closeTo e) fun r hr => ?_)
  split
  · exact keeps_trap ..
  · exact (keeps_upd.2 fun _ _ => hr _ rfl).bind fun _ => keeps_upd.2 fun _ w => Tidy.rest (w.setShadow.setSlot ..)

@[simp] theorem Tidy.execMmask (w : Tidy s) : TidyOut (execMmask s) := w.run .steps
@[simp] theorem Tidy.execMunmask (w : Tidy s) : TidyOut (execMunmask s) := w.run .steps
@[simp] theorem Tidy.execMwait (w : Tidy s) : TidyOut (execMwait s) := w.run .steps

/-! Migration and parking (R260-R269). -/

@[simp] theorem keeps_migrLocate : Keeps (migrLocate ea) := by
  unfold Machine.migrLocate
  exact .steps

@[simp] theorem keeps_migrTarget {v : Word} : Keeps (migrTarget v) := by
  refine ⟨fun s w => ?_⟩
  simp only [migrTarget]
  split <;> exact w

@[simp] theorem keeps_migrHere {t : Nat} : Keeps (migrHere t) := by
  unfold Machine.migrHere
  exact .steps

@[simp] theorem keeps_migrThere {m t : Nat} : Keeps (migrThere v m t) := by
  unfold Machine.migrThere
  exact .steps

@[simp] theorem Tidy.leaveBuffer (w : Tidy s) {o : Origin} : Tidy (leaveBuffer s o) := by
  unfold Machine.leaveBuffer
  split
  · exact w.modSweep
  · exact w

@[simp] theorem Tidy.departs (w : Tidy s) {m t : Nat} {p : Thread} : Tidy (departs s c sl m t p sc) := by
  unfold Machine.departs
  dsimp only
  split <;> exact (w.noteTrail.endFrames.orphanTags.leaveBuffer.setSlot ..).rest

@[simp] theorem keeps_migrate {m t : Nat} : Keeps (migrate v m t) := by
  unfold Machine.migrate
  exact .steps

@[simp] theorem Tidy.execMigr (w : Tidy s) : TidyOut (execMigr a s) := w.run .steps
@[simp] theorem Tidy.execMigrto (w : Tidy s) : TidyOut (execMigrto a s) := w.run .steps

@[simp] theorem Tidy.execMigrationFlit (w : Tidy s) : TidyOut (execMigrationFlit n s) := by
  unfold Machine.execMigrationFlit
  split
  · exact w
  · dsimp only
    split
    · exact Tidy.rejectCreation w.rest
    · split
      · next e => exact w.rest.performCreation e
      · exact w.rest

@[simp] theorem Tidy.execPark (w : Tidy s) {k : KReg} {npM1 : BitVec 6} {cls : Fin 8} : TidyOut (execPark d a k e npM1 cls r s) := w.run .steps

@[simp] theorem Tidy.acceptPark (w : Tidy s) {r : ParkReq} {pages : List Page} : Tidy (acceptPark s r pages n) := by
  unfold Machine.acceptPark
  have h : Tidy (pages.foldl (fun s g => Machine.setEsc s r.tenant g.va true) (Machine.takeCount s r.env)) := Tidy.foldl (fun _ _ w => w.setEsc) _ w.takeCount
  dsimp only
  split
  · exact h.setCell.pushDone.wakeWrite
  · exact h.setCell.pushDone

@[simp] theorem Tidy.refusePark (w : Tidy s) {r : ParkReq} {reason : Nat} : Tidy (refusePark s r reason) := by
  unfold Machine.refusePark
  dsimp only
  split
  · exact w.pushDone.engFault
  · exact w.pushDone

@[simp] theorem Tidy.execParkAcceptance (w : Tidy s) : TidyOut (execParkAcceptance n s) := by
  unfold Machine.execParkAcceptance
  split
  · exact w
  · split
    · split
      · exact w
      · dsimp only
        split
        · next e _ _ _ _ => exact (w.forceFences.of_fst e).rest.refusePark
        · split
          · exact w
          · next e _ _ _ _ _ _ => exact (w.forceFences.of_fst e).rest.forceCores.acceptPark

@[simp] theorem Tidy.execWakew (w : Tidy s) : TidyOut (execWakew a b r s) := w.run .steps
@[simp] theorem Tidy.execEstat (w : Tidy s) : TidyOut (execEstat d a s) := w.run .steps

/-! The Assay ring (R356-R358). -/

@[simp] theorem Tidy.writeActl (w : Tidy s) : Tidy (writeActl s n v) := w.setClu ..

@[simp] theorem Tidy.writeArbase (w : Tidy s) : Tidy (writeArbase s n v) := by
  unfold Machine.writeArbase
  dsimp only
  split
  · exact w
  · exact w.setClu ..

@[simp] theorem Tidy.writeArhead (w : Tidy s) : Tidy (writeArhead s n v) := by
  unfold Machine.writeArhead
  dsimp only
  split
  · exact w.setClu ..
  · exact w

@[simp] theorem Tidy.ringPut (w : Tidy s) {r : TraceRec} : Tidy (ringPut s n k r) := w.put ..

@[simp] theorem Tidy.ringWrite (w : Tidy s) : Tidy (ringWrite s n) := by
  unfold Machine.ringWrite
  dsimp only
  split
  · exact w
  · split
    · exact w.ringPut.ringPut.setClu ..
    · exact w.ringPut.setClu ..

@[simp] theorem Tidy.execActlWrite (w : Tidy s) : TidyOut (execActlWrite clu v s) := by
  unfold Machine.execActlWrite
  split
  · exact w.writeActl
  · exact w

@[simp] theorem Tidy.execArheadWrite (w : Tidy s) : TidyOut (execArheadWrite clu v s) := by
  unfold Machine.execArheadWrite
  split
  · exact w.writeArhead
  · exact w

@[simp] theorem Tidy.execTraceRecordWrite (w : Tidy s) : TidyOut (execTraceRecordWrite clu s) := w.ringWrite

/-! The spill engine (R287-R293). -/

theorem Tidy.writeRecord (w : Tidy s) {e : Nat} {vbusy : Bool} {u : State} (hu : writeRecord s c sl e t vbusy = some u) : Tidy u := by
  unfold Machine.writeRecord at hu
  dsimp only at hu
  split at hu
  · cases hu
  · next s1 e =>
    split at hu
    · cases hu
    · next s2 e2 => cases hu; exact (w.writeBy e).writeBy e2

@[simp] theorem Tidy.leaveSlot (w : Tidy s) {e : Nat} {vbusy : Bool} : Tidy (leaveSlot s c sl e t vbusy) := (w.setCore ..).setSlot ..
@[simp] theorem Tidy.answerSpill (w : Tidy s) {r : SpillReq} {v : Nat} : Tidy (answerSpill s r v) := (w.setReg ..).modThread ..

@[simp] theorem Tidy.fillIn (w : Tidy s) {x : Spilled} {regs : List Byte} {ws : List Word} {image : List Byte} : Tidy (fillIn s c sl x regs ws image) := by
  have h : Tidy { s with mem := setBytes s.mem (winKey c x.th.wp) regs } := w.store ..
  exact ((h.store (winKey c (shadowOff sl)) image).setCore ..).setSlot ..

theorem Tidy.endFilled (w : Tidy s) {u : State} (hu : endFilled s c sl = some u) : Tidy u := by
  unfold Machine.endFilled at hu
  dsimp only at hu
  split at hu
  · cases hu
  · cases hu; exact w.releaseBy.retire

theorem Tidy.fillResult (w : Tidy s) {own : Bool} {e : Nat} {ending : Bool} {u : Nat × State} (hu : fillResult s own c sl e ending = some u) : Tidy u.2 := by
  unfold Machine.fillResult at hu
  dsimp only at hu
  split at hu
  · cases hu; exact w
  · split at hu
    · cases hu; exact w
    · split at hu
      · split at hu
        · cases hu; exact w
        · split at hu
          · cases hu; exact w
          · split at hu
            · cases hu; exact w
            · split at hu
              · cases hu; exact w
              · split at hu
                · cases hu
                · split at hu
                  · obtain ⟨s2, e, rfl⟩ := Option.map_eq_some_iff.1 hu
                    exact w.fillIn.endFilled e
                  · cases hu; exact w.fillIn
      · cases hu; exact w

@[simp] theorem Tidy.served (w : Tidy s) {r : SpillReq} {v : Nat} : Tidy (served s core r v) := (w.setCore ..).answerSpill

@[simp] theorem Tidy.serveSpill (w : Tidy s) {r : SpillReq} : Tidy (serveSpill s core r) := by
  unfold Machine.serveSpill
  split
  · exact w.served
  · split
    · exact w.served
    · split
      · exact w.served
      · split
        · exact w
        · split
          · split
            · exact w
            · dsimp only
              split
              · next e _ _ _ => exact (w.releaseBy.of_fst e).served
              · next e _ _ _ e1 => exact ((w.releaseBy.of_fst e).writeRecord e1).leaveSlot.served

@[simp] theorem Tidy.execSpill (w : Tidy s) : TidyOut (execSpill core slot s) := by
  unfold Machine.execSpill
  split
  · exact w
  · split
    · exact w
    · split
      · exact w.serveSpill
      · split
        · next e => exact Tidy.served (w.fillResult e)
        · exact w

@[simp] theorem keeps_spillArgs : Keeps (spillArgs a b) := by
  unfold Machine.spillArgs
  exact .steps

@[simp] theorem keeps_askEngine {r : SpillReq} : Keeps (askEngine c r) := by
  unfold Machine.askEngine
  exact .steps

@[simp] theorem Tidy.execSpillslot (w : Tidy s) : TidyOut (execSpillslot d a b s) := w.run .steps

@[simp] theorem keeps_fillslot {ending : Bool} : Keeps (fillslot ending d a b) := by
  refine (keeps_chk _).bind fun _ => keeps_spillArgs.bind fun (c, sl, e) => (keeps_needDst _).bind fun _ => keeps_me.bind fun (mc, ms) =>
    (keeps_ask _).bind fun busy => Keeps.ask_bind (P := fun r => ∀ u, r = some u → Tidy u.2) (fun s w u e => ?_) fun r hr => ?_
  · split at e
    · cases e
    · exact w.fillResult e
  · split
    · exact keeps_askEngine
    · exact (keeps_upd.2 fun _ _ => hr _ rfl).bind fun _ => .steps

@[simp] theorem Tidy.execFillslot (w : Tidy s) : TidyOut (execFillslot d a b s) := w.run .steps
@[simp] theorem Tidy.execFillslotEnd (w : Tidy s) : TidyOut (execFillslotEnd d a b s) := w.run .steps

/-! Traps, system registers and translation control (R279-R297, R308). -/

@[simp] theorem keeps_trapForm {code : BitVec 16} : Keeps (trapForm cause code) := by
  unfold Machine.trapForm
  exact .steps

@[simp] theorem Tidy.execTrap (w : Tidy s) {code : BitVec 16} : TidyOut (execTrap code s) := w.run .steps
@[simp] theorem Tidy.execSyscall (w : Tidy s) {code : BitVec 16} : TidyOut (execSyscall code s) := w.run .steps
@[simp] theorem Tidy.execEret (w : Tidy s) : TidyOut (execEret s) := w.run .steps
@[simp] theorem Tidy.execEretEnd (w : Tidy s) : TidyOut (execEretEnd s) := w.run .steps

@[simp] theorem keeps_needSup {r : SysReg} : Keeps (needSup r) := by
  unfold Machine.needSup
  exact .steps

@[simp] theorem Tidy.execMfs (w : Tidy s) {r : SysReg} : TidyOut (execMfs d r s) := w.run .steps
@[simp] theorem Tidy.setFmt (w : Tidy s) {seg : Nat} : Tidy (State.setFmt s c seg v) := w.setCore ..

@[simp] theorem Tidy.setSys (w : Tidy s) {r : SysReg} : Tidy (setSys s c sl r v) := by
  unfold Machine.setSys
  dsimp only
  split
  · exact w.setCore ..
  · exact w.setSlot ..
  · exact w.setSlot ..
  · exact w.setSlot ..
  · exact w.setSlot ..
  · exact w.setCore ..
  · exact w.setCore ..
  · exact w.setFmt
  · split
    · exact w
    · exact w.writeActl
  · split
    · exact w
    · exact w.writeArbase
  · split
    · exact w
    · exact w.writeArhead
  · exact w.setClu ..
  · exact w.setClu ..
  · exact w
  · exact w
  · exact w
  · exact w
  · exact w
  · exact w
  · exact w
  · exact w

@[simp] theorem Tidy.execMts (w : Tidy s) {r : SysReg} : TidyOut (execMts r a s) := w.run .steps
@[simp] theorem Tidy.execRepart (w : Tidy s) : TidyOut (execRepart d a s) := w.run .steps
@[simp] theorem Tidy.execTlbinv (w : Tidy s) {kind : Fin 3} : TidyOut (execTlbinv kind a b s) := w.run .steps
@[simp] theorem Tidy.execSleep (w : Tidy s) : TidyOut (execSleep a s) := w.run .steps

@[simp] theorem Tidy.execSleepExpiry (w : Tidy s) : TidyOut (execSleepExpiry core slot s) := by
  unfold Machine.execSleepExpiry
  split
  · split
    · split
      · exact w.modThread ..
      · exact w
    · exact w
  · exact w

@[simp] theorem Tidy.execAssaytrig (w : Tidy s) {tag : BitVec 16} : TidyOut (execAssaytrig tag s) := w.run .steps

/-! The work of the Treasury (R319-R330). -/

@[simp] theorem Tidy.noteServed (w : Tidy s) : Tidy (noteServed s q) := w.rest

@[simp] theorem Tidy.execPacketFetch (w : Tidy s) : TidyOut (execPacketFetch q s) := by
  unfold Machine.execPacketFetch
  dsimp only
  split
  · exact w
  · split
    · split
      · exact w.haltQueue
      · exact w
    · split
      · exact w
      · split
        · exact w.noteServed.setQueue
        · exact w.noteServed.setQueue.haltQueue

@[simp] theorem Tidy.startPkt (w : Tidy s) : Tidy (startPkt s q) := by
  unfold Machine.startPkt
  dsimp only
  split
  · exact w.setQueue.haltQueue
  · exact w.setQueue

@[simp] theorem Tidy.addPkt (w : Tidy s) {sig : Word} : Tidy (addPkt s q sig).1 := by
  unfold Machine.addPkt
  exact w.setQueue.rest

@[simp] theorem Tidy.execNop (w : Tidy s) : TidyOut (execNop q s) := by
  unfold Machine.execNop
  split
  · exact w.startPkt
  · exact w

@[simp] theorem Tidy.stopPkt (w : Tidy s) : TidyOut (stopPkt s q cause) := w.haltQueue

@[simp] theorem Tidy.putSignal (w : Tidy s) : Tidy (putSignal s k v) := by
  unfold Machine.putSignal
  dsimp only
  split
  · exact (w.put ..).touchRegs
  · exact w.put ..

@[simp] theorem Tidy.execSignal (w : Tidy s) : TidyOut (execSignal q s) := by
  unfold Machine.execSignal
  split
  · exact w
  · dsimp only
    split
    · exact w.stopPkt
    · split
      · exact w
      · exact w.startPkt.putSignal

@[simp] theorem Tidy.execTimestamp (w : Tidy s) : TidyOut (execTimestamp q s) := by
  unfold Machine.execTimestamp
  split
  · exact w
  · dsimp only
    split
    · exact w.stopPkt
    · split
      · exact w
      · exact w.startPkt.putSignal

@[simp] theorem Tidy.execConfig (w : Tidy s) : TidyOut (execConfig q s) := by
  unfold Machine.execConfig
  split
  · exact w
  · exact w.setQueue.startPkt

@[simp] theorem Tidy.registerWaits (w : Tidy s) : Tidy (registerWaits s q) := by
  unfold Machine.registerWaits
  dsimp only
  split <;> exact w.rest.settleQueue

@[simp] theorem Tidy.waitPacket (w : Tidy s) {ty : Nat} : TidyOut (waitPacket ty q s) := by
  unfold Machine.waitPacket
  dsimp only
  split
  · split
    · exact w.registerWaits
    · exact w
  · split
    · exact w
    · split
      · exact w.stopPkt
      · exact w.setQueue.rest.registerWaits

@[simp] theorem Tidy.execWait (w : Tidy s) : TidyOut (execWait q s) := w.waitPacket
@[simp] theorem Tidy.execAndbar (w : Tidy s) : TidyOut (execAndbar q s) := w.waitPacket

@[simp] theorem Tidy.execCopyPacket (w : Tidy s) : TidyOut (execCopyPacket q s) := by
  unfold Machine.execCopyPacket
  split
  · exact w
  · dsimp only
    split
    · exact w.stopPkt
    · exact w.addPkt.startPkt.enqueueCopy

@[simp] theorem Tidy.execApplyPacket (w : Tidy s) : TidyOut (execApplyPacket q s) := by
  unfold Machine.execApplyPacket
  split
  · exact w
  · dsimp only
    split
    · exact w.haltQueue
    · split
      · exact w.haltQueue
      · exact w.addPkt.startPkt.takeCount.rest

@[simp] theorem Tidy.postLaunch (w : Tidy s) {pkt : Option Nat} {h : Option Word} {acq : Option Scope} {r : LaunchReq} {ws : List Word} :
    Tidy (postLaunch s q pkt h acq r ws) := w.rest

@[simp] theorem Tidy.startEntry.refuse (w : Tidy s) {e : DevLaunch} {code : Nat} : Tidy (startEntry.refuse q e s code) := w.futFault.liveDown.pushDone

@[simp] theorem Tidy.startEntry (w : Tidy s) {e : DevLaunch} : Tidy (startEntry s q e) := by
  unfold Machine.startEntry
  have w1 (x : Queue) : Tidy ((Machine.noteServed s q).setQueue q x) := w.noteServed.setQueue
  dsimp only
  split
  · exact Tidy.startEntry.refuse (w1 _)
  · split
    · exact Tidy.startEntry.refuse (w1 _)
    · exact (w1 _).postLaunch

@[simp] theorem Tidy.execLaunchPacket (w : Tidy s) : TidyOut (execLaunchPacket q s) := by
  unfold Machine.execLaunchPacket
  dsimp only
  split
  · split
    · exact w
    · split
      · exact w.startEntry
      · exact w
  · split
    · exact w
    · split
      · exact w.haltQueue
      · exact w.addPkt.startPkt.postLaunch

@[simp] theorem Tidy.execLaunch (w : Tidy s) {pri : Fin 8} : TidyOut (execLaunch d a b e pri s) := w.run .steps
@[simp] theorem Tidy.setFmts (w : Tidy s) {l : Launch} : Tidy (setFmts s c l) := Tidy.foldl (fun _ _ w => w.setFmt) _ w

@[simp] theorem Tidy.execTaskPlacement (w : Tidy s) {l : Nat} : TidyOut (execTaskPlacement l die core s) := by
  unfold Machine.execTaskPlacement
  split
  · exact w
  · next x _ =>
    split
    · exact w
    · split
      · exact w
      · have w1 : Tidy (if fmtsEqual s core x then s else Machine.setFmts s core x) := by
          split
          · exact w
          · exact w.setFmts
        dsimp only
        split
        · exact w
        · next e =>
          have w2 := w1.create e
          split
          · exact w
          · split
            · split
              · exact w2.modLaunch.rest
              · exact w2.modLaunch
            · exact w2.modLaunch

@[simp] theorem Tidy.steal (w : Tidy s) {l : Nat} : Tidy (steal s l die) := by
  unfold Machine.steal
  split
  · exact w
  · split
    · split
      · exact w
      · exact w.modLaunch
    · exact w

@[simp] theorem Tidy.execDieSteal (w : Tidy s) {l : Nat} : TidyOut (execDieSteal l die s) := by
  unfold Machine.execDieSteal
  split
  · exact w
  · exact w.rest.steal

@[simp] theorem Tidy.pktRelease (w : Tidy s) {p : Pkt} : Tidy (pktRelease s p).1 := by
  unfold Machine.pktRelease
  split
  · exact w.flushEach fun _ _ w => w.releaseIn
  · exact w

@[simp] theorem Tidy.execPacketCompletion (w : Tidy s) : TidyOut (execPacketCompletion n s) := by
  unfold Machine.execPacketCompletion
  split
  · exact w
  · split
    · exact w
    · dsimp only
      split
      · exact w.rest.liveDown
      · split
        · exact w.pktRelease
        · split
          · exact w.pktRelease.rest.liveDown
          · split
            · exact w.pktRelease.rest.liveDown.haltAtBoundary
            · split
              · exact w.pktRelease
              · exact w.pktRelease.putSignal.rest.liveDown

@[simp] theorem Tidy.execQueueAgeing (w : Tidy s) : TidyOut (execQueueAgeing q s) := by
  unfold Machine.execQueueAgeing
  dsimp only
  split
  · exact w.setQueue
  · exact w

@[simp] theorem Tidy.moveWaits : ∀ {n : Nat} {s : State}, Tidy s → Tidy (moveWaits n s).1
  | 0, _, w => w
  | n + 1, s, w => by
    unfold Machine.moveWaits
    split
    · split
      · exact w
      · exact Tidy.moveWaits (Tidy.put w.rest ..)
    · exact w

@[simp] theorem Tidy.execWaitSlotSpill (w : Tidy s) : TidyOut (execWaitSlotSpill s) := by
  unfold Machine.execWaitSlotSpill
  split
  · exact w
  · split
    · dsimp only
      split
      · next e _ => exact (w.moveWaits.of_fst e).rest
      · next e _ => exact (w.moveWaits.of_fst e).rest.tevEvent

@[simp] theorem Tidy.noteActive (w : Tidy s) : Tidy (noteActive s) := by
  unfold Machine.noteActive
  split
  · exact w
  · exact w.rest

@[simp] theorem Tidy.execDeadlockReport (w : Tidy s) {qs : List Nat} : TidyOut (execDeadlockReport qs s) := by
  unfold Machine.execDeadlockReport
  split
  · exact w
  · exact w
  · dsimp only
    generalize (_ && _ : Bool) = ok
    split
    · exact w
    · split
      · exact w
      · exact Tidy.foldl (fun _ _ w => w.tevEvent.modQueue) _ w

@[simp] theorem Tidy.killQueue (w : Tidy s) : Tidy (killQueue s q) := by
  refine Tidy.foldl (fun s l w => ?_) _ w.rest
  dsimp only
  split
  · exact w.modLaunch.finishLaunch
  · exact w.modLaunch

@[simp] theorem Tidy.endSpilled (w : Tidy s) {x : Spilled} : Tidy (endSpilled s c x) := ((w.setCore ..).setSlot ..).retire.setSlot ..

@[simp] theorem Tidy.endDoomed (w : Tidy s) : Tidy (endDoomed s q) := by
  unfold Machine.endDoomed
  split
  · exact w.endSpilled
  · split
    · split
      · split
        · next e _ => exact w.releaseBy.of_fst e
        · next e _ => exact (w.releaseBy.of_fst e).retire
    · exact w

@[simp] theorem Tidy.execQueueDestruction (w : Tidy s) : TidyOut (execQueueDestruction q s) := by
  unfold Machine.execQueueDestruction
  dsimp only
  split
  · exact w.endDoomed
  · split
    · exact w
    · split
      · split
        · split
          · exact w.tevEvent.dropWaits.setQueue.killQueue
          · exact w.dropWaits.setQueue.killQueue
        · split
          · exact w.tevEvent.setQueue.killQueue
          · exact w.setQueue.killQueue
      · split
        · split
          · exact w.tevEvent.dropWaits.setQueue
          · exact w.dropWaits.setQueue
        · split
          · exact w.tevEvent.setQueue
          · exact w.setQueue

/-! Fetching (R106-R108, R117). -/

@[simp] theorem Tidy.fetchPlace (w : Tidy s) {pc : Word} : Tidy (fetchPlace s c sl kernel pc).2 := by
  unfold Machine.fetchPlace
  split
  · exact w
  · split
    · exact w
    · split
      · next e => exact w.resolve.of_snd e
      · split
        · next e _ => exact w.resolve.of_snd e
        · split
          · next e _ _ => exact w.resolve.of_snd e
          · split
            · next e _ _ _ => exact w.resolve.of_snd e
            · next e _ _ _ => exact w.resolve.of_snd e

@[simp] theorem Tidy.fetchBytes (w : Tidy s) : Tidy (fetchBytes s c t k n).2 := by
  unfold Machine.fetchBytes
  split
  · exact w.sliceLine
  · exact w

@[simp] theorem Tidy.fetchAt (w : Tidy s) {pc : Word} : Tidy (fetchAt s c sl t pc).2 := by
  unfold Machine.fetchAt
  split
  · next e => exact w.fetchPlace.of_snd e
  · split
    · next e _ => exact w.fetchPlace.of_snd e
    · split
      · dsimp only
        split
        · next e _ _ _ _ e1 _ => exact (w.fetchPlace.of_snd e).fetchBytes.of_snd e1
        · split
          · next e _ _ _ _ e1 _ _ => exact (w.fetchPlace.of_snd e).fetchBytes.of_snd e1
          · split
            · next e _ _ _ _ e1 _ _ _ _ _ _ => exact (w.fetchPlace.of_snd e).fetchBytes.of_snd e1
            · next e _ _ _ _ e1 _ _ _ _ _ _ => exact (w.fetchPlace.of_snd e).fetchBytes.of_snd e1

/-! Repetition (R120, R121). -/

theorem TidyOut.leaveRep {o : Out} (h : TidyOut o) : TidyOut (leaveRep o) := by
  cases o with
  | next s => exact Tidy.rest h
  | fault f => trivial
  | refused r => trivial

theorem repTarget_tidy {f : Stepped} {i : Instr} {g : Target} (h : repTarget f i = some g) (w : Tidy s) : TidyOut (g.run s) := by
  unfold repTarget at h
  split at h <;> cases h <;> simp [w]

@[simp] theorem Tidy.inRep (w : Tidy s) {r : Option (Nat × Nat)} : Tidy (State.inRep s r) := w.rest

@[simp] theorem Tidy.execRep (w : Tidy s) {stepM1 : BitVec 2} {md ma mb : Bool} {cntM1 : BitVec 6} : TidyOut (execRep stepM1 md ma mb cntM1 s) := by
  unfold Machine.execRep
  dsimp only
  split
  · exact w
  · split
    · next e => exact Tidy.takeTrap (w.fetchAt.of_snd e) ..
    · next s1 e =>
      have w1 : Tidy s1 := w.fetchAt.of_snd e
      split
      · refine Tidy.takeTrap ?_ ..
        split
        · exact w1.modThread ..
        · exact w1
      · split
        · next h => exact TidyOut.leaveRep (repTarget_tidy h w1.inRep)
        · exact w1

/-! Queued walks (R303, R306, R307). -/

@[simp] theorem Tidy.foundFault (w : Tidy s) {x : Walk} {reason : Nat} : Tidy (foundFault s x reason) := w.engFault.postFault

@[simp] theorem Tidy.serveMiss (w : Tidy s) {x : Walk} : Tidy (serveMiss s x) := by
  unfold Machine.serveMiss
  split
  · exact w
  · dsimp only
    split
    · exact w.noteUsed.resumeEng
    · exact w.foundFault
    · exact w.endEng

@[simp] theorem Tidy.execPageWalk (w : Tidy s) : TidyOut (execPageWalk n s) := by
  unfold Machine.execPageWalk
  split
  · exact w
  · split
    · exact w
    · exact (Tidy.foldl (fun _ _ w => w.serveMiss) _ w.rest).unstall

/-! The arms of exec. -/

@[simp] theorem Tidy.exec (w : Tidy s) {i : Instr} : TidyOut (exec i s) := by
  cases i <;> simp [Machine.exec, w]

end Sys2Proof.Machine
end

section
/-! The canonical form through every step (O59). -/
set_option Elab.async false

namespace Sys2Proof.Machine

variable {s : State} {c sl n line : Nat} {a e : WReg} {h : Word} {data : List Byte} {o : VOps} {r : OrdScope} {t : Thread}

/-! The events that may come next, and the turn of a thread (log 1). -/

@[simp] theorem Tidy.outState (w : Tidy s) {o : Out} (h : TidyOut o) : Tidy (outState s o) := by
  cases o with
  | next s1 => exact h
  | fault | refused => exact w

@[simp] theorem Tidy.enterIssue (w : Tidy s) : Tidy (enterIssue s c sl) := ((w.setCore ..).modThread ..).rest

theorem Tidy.boundaryAct (w : Tidy s) {u : State} (hu : boundaryAct s c sl t = some u) : Tidy u := by
  unfold Machine.boundaryAct at hu
  split at hu
  · cases hu; exact w.outState w.execMessageDelivery
  · split at hu
    · cases hu; exact w.outState w.execSpill
    · split at hu
      · cases hu; exact w.endDoomed
      · cases hu

/-- Every event of a list keeps the canonical form. -/
def TidyEvs (l : List Ev) : Prop := ∀ f ∈ l, ∀ s, Tidy s → TidyOut (f s)

@[simp] theorem tidyEvs_nil : TidyEvs [] := fun _ h => nomatch h
@[simp] theorem tidyEvs_cons {f : Ev} {l : List Ev} : TidyEvs (f :: l) ↔ (∀ s, Tidy s → TidyOut (f s)) ∧ TidyEvs l := List.forall_mem_cons
@[simp] theorem tidyEvs_append {l l' : List Ev} : TidyEvs (l ++ l') ↔ TidyEvs l ∧ TidyEvs l' := List.forall_mem_append
@[simp] theorem tidyEvs_flatMap {l : List β} {g : β → List Ev} : TidyEvs (l.flatMap g) ↔ ∀ b ∈ l, TidyEvs (g b) := by
  simp only [TidyEvs, List.mem_flatMap]
  exact ⟨fun h b hb f hf => h f ⟨b, hb, hf⟩, fun h f ⟨b, hb, hf⟩ => h b hb f hf⟩
@[simp] theorem tidyEvs_map {l : List β} {g : β → Ev} : TidyEvs (l.map g) ↔ ∀ b ∈ l, ∀ s, Tidy s → TidyOut (g b s) := List.forall_mem_map
@[simp] theorem tidyEvs_filterMap {l : List β} {g : β → Option Ev} :
    TidyEvs (l.filterMap g) ↔ ∀ b ∈ l, ∀ f, g b = some f → ∀ s, Tidy s → TidyOut (f s) :=
  List.forall_mem_filterMap

theorem tidyEvs_threadEvents (c sl : Nat) (t : Thread) : TidyEvs (threadEvents c sl t) := by
  unfold threadEvents
  refine tidyEvs_append.2 ⟨?_, ?_⟩
  · split <;> simp +contextual
  · split <;> simp +contextual
theorem tidyEvs_coreEvents (c : Nat) (k : CoreSt) : TidyEvs (coreEvents c k) := by
  unfold coreEvents
  refine tidyEvs_append.2 ⟨tidyEvs_append.2 ⟨?_, ?_⟩, ?_⟩
  · split <;> simp +contextual
  · simp +contextual
  · split <;> simp +contextual
theorem tidyEvs_cluEvents (n : Nat) (k : CluSt) : TidyEvs (cluEvents n k) := by
  unfold cluEvents
  refine tidyEvs_append.2 ⟨?_, ?_⟩
  · split <;> simp +contextual
  · split <;> simp +contextual
theorem tidyEvs_sweepEvents (x : Sweep) : TidyEvs (sweepEvents x) := by
  unfold sweepEvents
  split <;> simp +contextual
theorem tidyEvs_parkEvents (n : Nat) (k : Park) : TidyEvs (parkEvents n k) := by
  simp +contextual [parkEvents]
theorem tidyEvs_cellEvents (n : Nat) (x : Cell) : TidyEvs (cellEvents n x) := by
  unfold cellEvents
  refine tidyEvs_append.2 ⟨?_, ?_⟩
  · simp +contextual
  · split
    · exact tidyEvs_parkEvents _ _
    · exact tidyEvs_nil
theorem tidyEvs_engEvents (s : State) : TidyEvs (engEvents s) := by
  simp +contextual [engEvents, tidyEvs_sweepEvents, tidyEvs_cellEvents, tidyEvs_parkEvents]
theorem tidyEvs_queueEvents (q : Nat) : TidyEvs (queueEvents q) := by
  simp +contextual [queueEvents]
theorem tidyEvs_launchEvents (s : State) (l : Launch) : TidyEvs (launchEvents s l) := by
  refine tidyEvs_flatMap.2 fun p _ => ?_
  split <;> simp +contextual
theorem tidyEvs_treasuryEvents (s : State) : TidyEvs (treasuryEvents s) := by
  unfold treasuryEvents
  dsimp only
  refine tidyEvs_append.2 ⟨tidyEvs_append.2 ⟨?_, ?_⟩, ?_⟩
  · simp +contextual [tidyEvs_queueEvents, tidyEvs_launchEvents]
  · split <;> simp +contextual
  · split
    · exact tidyEvs_nil
    · refine tidyEvs_filterMap.2 fun q _ f h s w => ?_
      obtain ⟨l, -, rfl⟩ := Option.map_eq_some_iff.1 h
      exact w.execDeadlockReport
theorem tidyEvs_hubEvents (s : State) : TidyEvs (hubEvents s) := by
  unfold hubEvents
  refine tidyEvs_append.2 ⟨tidyEvs_append.2 ⟨tidyEvs_append.2 ⟨tidyEvs_append.2 ⟨?_, ?_⟩, tidyEvs_filterMap.2 fun p _ f h s w => ?_⟩,
    tidyEvs_flatMap.2 fun p _ => tidyEvs_append.2 ⟨?_, ?_⟩⟩, ?_⟩
  · split <;> simp +contextual
  · split <;> simp +contextual
  · split at h
    · cases h; exact w.execRetrainHoldEnd
    · cases h
  · split <;> simp +contextual
  · split <;> simp +contextual
  · split
    · simp +contextual
    · split <;> simp +contextual
theorem tidyEvs_ownEvents (s : State) : TidyEvs (ownEvents s) := by
  simp [ownEvents, tidyEvs_threadEvents, tidyEvs_coreEvents, tidyEvs_cluEvents, tidyEvs_engEvents, tidyEvs_treasuryEvents, tidyEvs_hubEvents]

theorem mem_of_mem_turned {l : List α} {n : Nat} {a : α} (h : a ∈ turned l n) : a ∈ l := by
  rcases List.mem_append.1 h with h | h
  · exact List.mem_of_mem_drop h
  · exact List.mem_of_mem_take h

theorem Tidy.eventTurn (w : Tidy s) {u : State} (hu : eventTurn s = some u) : Tidy u := by
  obtain ⟨f, hf, hu⟩ := List.exists_of_findSome?_eq_some hu
  have h := tidyEvs_ownEvents s f (mem_of_mem_turned hf) s w
  split at hu
  · next e =>
    rw [e] at h
    split at hu
    · cases hu
    · cases hu; exact h
  · cases hu

@[simp] theorem Tidy.beginStep (w : Tidy s) {dt : Nat} : Tidy (beginStep s dt) := (Tidy.passTime w.rest).tickMasks

/-! One step (log 1). -/

/-- What fetching leaves is tidy. -/
def TidyFetched : Fetched → Prop
  | .instr _ s | .ended s => Tidy s

theorem Tidy.of_ended {f : Fetched} (e : f = .ended s) (h : TidyFetched f) : Tidy s := by rwa [e] at h

theorem Tidy.of_instr {f : Fetched} {i : Instr} (e : f = .instr i s) (h : TidyFetched f) : Tidy s := by rwa [e] at h

theorem Tidy.fetchNext (w : Tidy s) {c sl : Nat} : TidyFetched (fetchNext s c sl) := by
  unfold Machine.fetchNext
  split
  · exact w
  · split
    · next e => exact Tidy.takeTrap (w.fetchAt.of_snd e) ..
    · next e =>
      have w1 := w.fetchAt.of_snd e
      split
      · exact w1
      · exact Tidy.takeTrap (w1.modThread ..) ..

theorem Tidy.prepare (w : Tidy s) {c sl : Nat} : TidyFetched (prepare s c sl) := by
  unfold Machine.prepare
  split
  · exact w
  · split
    · exact w
    · split
      · next e => exact w.boundaryAct e
      · split
        · exact w
        · split
          · exact w.enterIssue.takeOverrun
          · exact w.enterIssue.fetchNext

@[simp] theorem Tidy.issue (w : Tidy s) {c sl : Nat} : TidyOut (issue c sl s) := by
  have h := w.prepare (c := c) (sl := sl)
  unfold Machine.issue
  split
  · next e => rw [e] at h; exact h
  · next e => rw [e] at h; exact Tidy.exec h

@[simp] theorem Tidy.settleWrite (w : Tidy s) {c sl : Nat} {t : Thread} : Tidy (settleWrite s c sl t) := by
  unfold Machine.settleWrite
  split
  · exact w
  · split
    · exact w.takeOverrun
    · refine Tidy.rest (s := match Machine.fetchNext _ c sl with | .ended s2 => s2 | .instr i s2 => Machine.outState s2 (Machine.exec i s2)) ?_
      split
      · next e => exact .of_ended e (Tidy.rest (w.modThread ..)).fetchNext
      · next e =>
        have w1 := Tidy.of_instr e (Tidy.rest (w.modThread ..)).fetchNext
        exact w1.outState (Tidy.exec w1)

@[simp] theorem Tidy.settleWrites (w : Tidy s) : Tidy (settleWrites s) := by
  refine Tidy.foldl (fun s p w => ?_) _ w
  split
  · exact w.settleWrite
  · exact w

@[simp] theorem Tidy.correctedError (w : Tidy s) : Tidy (correctedError s n) := by
  unfold Machine.correctedError
  dsimp only
  split
  · split
    · exact w.rest.traceSys
    · exact w.rest
  · split
    · exact w.rest.traceSys
    · exact w.rest

@[simp] theorem Tidy.uncorrectedError (w : Tidy s) : Tidy (uncorrectedError s line) := by
  unfold Machine.uncorrectedError
  split
  · exact w.rest
  · exact w.rest
  · exact w.rest
  · exact w

@[simp] theorem Tidy.sliceLineError (w : Tidy s) {stamp : Nat} : Tidy (sliceLineError s n line stamp) := by
  unfold Machine.sliceLineError
  split
  · exact w
  · exact Tidy.foldl (fun _ _ w => Tidy.setCore (Tidy.foldl (fun _ _ w => w.modThread ..) _ w) ..) _ (w.setClu ..)

@[simp] theorem Tidy.evictLine (w : Tidy s) : Tidy (evictLine s n line) := by
  unfold Machine.evictLine
  split
  · exact w
  · exact w.setClu ..

@[simp] theorem Tidy.remoteWrite (w : Tidy s) {m lpa : Nat} : Tidy (remoteWrite s m lpa data) := by
  unfold Machine.remoteWrite
  split
  · exact w
  · exact w.put ..

@[simp] theorem Tidy.remoteRefuses (w : Tidy s) {r : Refusing} {on : Bool} : Tidy (remoteRefuses s r on) := w.rest

@[simp] theorem Tidy.perform (w : Tidy s) {m : Move} : TidyOut (perform m s) := by
  unfold Machine.perform
  split
  · exact w.issue
  · split
    · exact trivial
    · exact w.exec
  · exact w.evictLine
  · exact w.rest
  · exact w.remoteWrite
  · exact w.remoteRefuses
  · exact w.correctedError
  · exact w.uncorrectedError
  · exact w.sliceLineError
  · exact w

theorem ownTurn_event {u : State} (h : ownTurn s = .event u) : eventTurn s = some u := by
  unfold ownTurn at h
  split at h
  · split at h
    · cases h
    · split at h
      · next e => cases h; exact e
      · cases h
  · split at h
    · next e => cases h; exact e
    · split at h <;> cases h

@[simp] theorem Tidy.performOwn (w : Tidy s) : TidyOut (performOwn s) := by
  unfold Machine.performOwn
  split
  · exact w.issue
  · next e => exact w.eventTurn (ownTurn_event e)
  · exact w

theorem TidyOut.endStep {o : Out} (h : TidyOut o) : TidyOut (endStep o) := by
  cases o with
  | next s => exact (Tidy.settleWrites h).settleBar2.noteActive
  | fault f => trivial
  | refused r => trivial

theorem Tidy.step (w : Tidy s) : TidyOut (step s) := by
  unfold Machine.step
  split
  · trivial
  · split
    · exact (Tidy.perform w.rest.beginStep).endStep
    · exact w.beginStep.performOwn.endStep

/-- Settles O59: every change of the state keeps the four tables well-formed, so the turn that a step performs and what settles after it do. -/
theorem tidyKept : Obligations.TidyKept := by
  unfold Obligations.TidyKept
  intro s s' w h
  have kept := w.step
  rwa [h] at kept

end Sys2Proof.Machine
end

section
/-! A store that lands on a link word (O15): the word it writes is taken for the frame of a pending register, and its PEND bit is cleared again. -/
namespace Sys2Proof.Machine

/-- A thread in its second frame: WP 0x1080, with the link to the first frame at 0x1108 (R253). W4 names the link word, and W5 is a link with the
frame offset 0x1108 and CPEND bit 0 set, so that the word itself would be the register W0 of the frame it links to. -/
def linkStore : State :=
  let s := (withThread State.reset false).modThread 0 0 (fun t => { t with size := 512, wp := 0x1080, depth := 2 })
  ((s.setW64 (winKey 0 0x1108) 0x1000).setW64 (winKey 0 0x10A0) (flatVa 0 0x1108)).setW64 (winKey 0 0x10A8) 0x100001108

/-- Whether an outcome goes on with byte 4 of the link word clear. -/
def clearsLink (o : Out) : Bool := match o with | .next s => byteAt s.mem (winKey 0 0x110C) == 0 | _ => false

theorem linkStore_thread : ∃ t, Issues linkStore t ∧ t.wp = 0x1080 ∧ t.pend = 0 := by
  have live : ((linkStore.thread 0 0).map fun t => (t.wp, t.pend)) = some (0x1080, 0) := by decide +kernel
  obtain ⟨t, issues, h⟩ := Option.map_eq_some_iff.1 live
  exact ⟨t, issues, congrArg Prod.fst h, congrArg Prod.snd h⟩

theorem linkStore_tidy : Tidy linkStore := ⟨by decide +kernel, by decide +kernel, by decide +kernel, by decide +kernel⟩

theorem linkStore_locate : locate .write (flatVa 0 0x1108 + (Imm.i23 0).sext) 8 8 linkStore = .ok (winKey 0 0x1108, linkStore) := rfl

theorem linkStore_noPending : NoPending linkStore (winKey 0 0x1108) 8 := by
  have place : placeOf (winKey 0 0x1108) = .sram 0 0x1108 := by decide +kernel
  have none : (pendingAt linkStore 0 0x1108 8).isEmpty = true := by decide +kernel
  unfold NoPending
  rw [place]
  exact List.isEmpty_iff.1 none

theorem linkStore_clears : clearsLink (exec (.st .d 4 (.i23 0) 5) linkStore) = true := by decide +kernel

/-- Refutes O15: a store of 8 bytes to the link word of the issuing thread's frame. No pending register's word lies there before the store, and so
the store should leave the low bytes of B there. But PEND of stopped futures is cleared by the frames that the links name once the bytes are
written: the word written names itself as a pending register, and the store clears bit 32 of what it has just written. -/
theorem not_stores : ¬ Obligations.Stores := by
  unfold Obligations.Stores
  intro ⟨own, _⟩
  obtain ⟨t, issues, wp, pend⟩ := linkStore_thread
  have a : opnd linkStore t 4 = flatVa 0 0x1108 := by
    unfold opnd
    rw [wp]
    decide +kernel
  have b : opnd linkStore t 5 = 0x100001108 := by
    unfold opnd
    rw [wp]
    decide +kernel
  have ready : Ready linkStore t [4, 5] :=
    ⟨issues, by unfold InPart; decide +kernel, fun r _ => by simp [Thread.pends, pend]⟩
  have located : locate .write (opnd linkStore t 4 + (Imm.i23 0).sext) 8 8 linkStore = .ok (winKey 0 0x1108, linkStore) := by
    rw [a]
    exact linkStore_locate
  obtain ⟨s', u, next, -, -, stored, -⟩ := own false .d 4 5 (.i23 0) linkStore linkStore t (winKey 0 0x1108) linkStore_tidy ready (fun e => nomatch e)
    located (by decide +kernel) (by decide +kernel)
  have byte := stored linkStore_noPending (winKey 0 0x110C) (by simp [inRegs])
  have clears : clearsLink (.next s') = true := next ▸ linkStore_clears
  have zero : byteAt s'.mem (winKey 0 0x110C) = 0 := by simpa [clearsLink] using clears
  have value : opndSz linkStore t 5 .d = 0x100001108 := congrArg BitVec.toNat b
  rw [zero, value] at byte
  revert byte
  decide +kernel

end Sys2Proof.Machine
end

section
/-! The issue of vector instructions: what a form that passes its checks puts into its core's pipe, and the fault of a destination outside the own banks
(R173-R180), with the statement about them (O25). -/
namespace Sys2Proof.Machine

variable {s : State} {t : Thread} {i : Instr} {f : VForm}

/-! What a form brings to its issue. -/

/-- The registers that a vector form reads at its issue (R173). -/
def VForm.regs (f : VForm) : List WReg := f.d :: (if f.useA then [f.a] else []) ++ (if f.useB then [f.b] else [])

/-- The number of elements of a form at its issue: its immediate length, or VL (R173). -/
def VForm.length (f : VForm) (t : Thread) : Nat := match f.x.immvl with | some v => v.toNat | none => t.vl

/-- What a source of a form holds at its issue; one that the form does not use counts as 0. -/
def sourceOpnd (s : State) (t : Thread) (use : Bool) (r : WReg) : Word := if use then opnd s t r else 0

/-- The operands of a form as its issue places them, or the fault of the first check that fails (R177). -/
def VForm.placed (f : VForm) (s : State) (t : Thread) : Except (Nat × Word) (VOp × VOp × VOp) :=
  placeOps s s.cur.core f (opnd s t f.d) (sourceOpnd s t f.useA f.a) (sourceOpnd s t f.useB f.b) (f.length t)

/-- What a form whose operands are placed puts into the pipe: nothing of it has been computed yet (R180, R181). -/
def VForm.command (f : VForm) (i : Instr) (s : State) (t : Thread) (d a b : VOp) : VCmd :=
  ⟨s.tid s.cur.core s.cur.slot, i, atAddr s t, s.cur.rep, f.length t, t.rmode, opnd s t f.d, sourceOpnd s t f.useA f.a, sourceOpnd s t f.useB f.b,
    d.fmt, a.fmt, b.fmt, advances f d a b, false, [], 0, none, none, false⟩

theorem VForm.mem_regs_d (f : VForm) : f.d ∈ f.regs := by simp [VForm.regs]
theorem VForm.mem_regs_a (h : f.useA = true) : f.a ∈ f.regs := by simp [VForm.regs, h]
theorem VForm.mem_regs_b (h : f.useB = true) : f.b ∈ f.regs := by simp [VForm.regs, h]

/-- The register fields that the issue checks lie in the partition where the registers that it reads do, whatever field B stands in (R111). -/
theorem VForm.fields_inPart (h : InPart s f.regs) (k : Nat) :
    InPart s (((0, f.d) :: (if f.useA then [(1, f.a)] else []) ++ (if f.useB then [(k, f.b)] else []) : List FReg).map Prod.snd) := by
  intro r m
  apply h r
  cases hA : f.useA <;> cases hB : f.useB <;> simpa [VForm.regs, hA, hB] using m

/-! The issue, up to the checks and past them. -/

/-- Every vector form is performed by the shared issue. -/
theorem exec_vForm (h : vForm i = some f) : exec i s = run (vIssue i) s := by
  unfold vForm at h
  split at h
  case h_33 => exact nomatch h
  all_goals rfl

theorem iaddr_ok (h : Issues s t) : iaddr s = .ok (atAddr s t, s) := by
  unfold Issues at h
  simp [iaddr, h, atAddr]

/-- A source that the form uses is read, where its register is ready, and one that it does not use is not looked at. -/
theorem readSource_ok {α : Type} {use : Bool} {r : WReg} {l : List WReg} (h : Ready s t l) (m : use = true → r ∈ l) (k : Word → M α) :
    (if use then rd r >>= k else pure 0 >>= k) s = k (sourceOpnd s t use r) s := by
  cases use
  · rfl
  · exact bind_ok (rd_ok h (m rfl))

/-- The end of an issue, from the outcome of the checks: the fault, or the command in the pipe and the thread out of the rotation (R177, R180). -/
def vEnter (f : VForm) (i : Instr) (t : Thread) : Except (Nat × Word) (VOp × VOp × VOp) → M Unit
  | .error (cause, info) => trap cause info
  | .ok (d, a, b) => fun s => .error (.wait .vector (vEnqueue s s.cur.core (f.command i s t d a b)))

/-- With the queue free and its registers ready, a form reads its operands and comes to the checks (R173, R177). -/
theorem vIssue_enters (hf : vForm i = some f) (h : Ready s t f.regs) (free : (s.core s.cur.core).vq = none) :
    vIssue i s = vEnter f i t (f.placed s t) s := by
  have notFull : ask (fun q => (q.core s.cur.core).vq.isSome) s = .ok (false, s) := by rw [ask, free]; rfl
  unfold vIssue
  rw [hf]
  dsimp only
  rw [bind_ok (me_ok s)]
  dsimp only
  rw [bind_ok notFull, if_neg Bool.false_ne_true, bind_ok (chk_ok (VForm.fields_inPart h.part _)), bind_ok (rd_ok h f.mem_regs_d),
    readSource_ok h VForm.mem_regs_a, readSource_ok h VForm.mem_regs_b, bind_ok (th_ok h.issues), bind_ok (m := ask _) (a := f.placed s t) rfl]
  obtain ⟨cause, info⟩ | ⟨d, a, b⟩ := f.placed s t
  · rfl
  · exact bind_ok (iaddr_ok h.issues)

/-- A form whose operands pass their checks goes into the pipe or its queue, and its thread leaves the rotation (R180). -/
theorem exec_vForm_placed {d a b : VOp} (hf : vForm i = some f) (h : Ready s t f.regs) (free : (s.core s.cur.core).vq = none)
    (passes : f.placed s t = .ok (d, a, b)) :
    exec i s = .next (setWait (vEnqueue s s.cur.core (f.command i s t d a b)) s.cur.core s.cur.slot .vector) := by
  rw [exec_vForm hf]
  apply run_wait
  rw [vIssue_enters hf h free, passes]
  rfl

/-- A form of which an operand fails a check takes that check's fault (R177). -/
theorem exec_vForm_faults {cause : Nat} {info : Word} (hf : vForm i = some f) (h : Ready s t f.regs) (free : (s.core s.cur.core).vq = none)
    (fails : f.placed s t = .error (cause, info)) : exec i s = .next (takeTrap s s.cur.core s.cur.slot cause info) := by
  rw [exec_vForm hf]
  apply run_trap
  rw [vIssue_enters hf h free, fails]
  rfl

/-! The pipe after an issue (R180). -/

theorem setWait_core (s : State) (c sl : Nat) (w : Wait) : (setWait s c sl w).core = s.core := by
  unfold setWait State.modThread
  split <;> rfl

/-- A command enters the pipe of its core, or the queue behind a command there. -/
theorem vEnqueue_core (s : State) (c : Nat) (v : VCmd) :
    (vEnqueue s c v).core c = if (s.core c).vrun = none then { s.core c with vrun := some v } else { s.core c with vq := some v } := by
  unfold vEnqueue
  dsimp only
  cases hr : (s.core c).vrun with
  | none => exact tget_tset_listed (by intro e; exact nomatch congrArg CoreSt.vrun e) ..
  | some u => exact tget_tset_listed (by intro e; exact nomatch congrArg CoreSt.vq e) ..

/-! A destination outside the own data banks (R173, R178). -/

theorem ownBank_outside {c : Nat} {v : Word}
    (h : v.toNat < 0xFF00000000000000 + c * 0x80000 + 0x8000 ∨ 0xFF00000000000000 + c * 0x80000 + 0x5C000 ≤ v.toNat) : ownBank c v = none := by
  unfold ownBank
  dsimp only [Config.flatBase, Config.windowBytes]
  rw [if_pos]
  rcases h with below | above
  · simp [below]
  · simp [above]

/-- A destination outside the own data banks fails the first check of all: operand 0, REASON 1 (R177, R178). -/
theorem placeOps_outside {c n : Nat} {D A B : Word} (h : ownBank c D = none) :
    placeOps s c f D A B n = .error (0x07, BitVec.ofNat 64 (2 ^ 28 + D.toNat % 2 ^ 19)) := by
  have first : placeOp s c 0 D false (overOf f.x 0) (f.cnt n).1 f.dOk = .error (0x07, vInfo 0 1 0 D.toNat) := by
    unfold placeOp
    rw [h]
    rfl
  unfold placeOps
  dsimp only
  rw [first]
  simp [bind, Except.bind, vInfo, wordOf]

/-- The two-source forms use the three operands that the instruction names. -/
theorem vForm_twoSource (o : VOps) (c : Cond) : ∀ i ∈ ([.vadd o, .vsub o, .vmul o, .vdiv o, .vmin o, .vmax o, .vfma o, .vand o, .vor o, .vxor o, .vshl o,
    .vshr o, .vsar o, .vcmp c o, .vsel o] : List Instr), ∃ k ok readsD, vForm i = some (ewForm k o true ok readsD) := by
  simp only [List.forall_mem_cons]
  refine ⟨?_, ?_, ?_, ?_, ?_, ?_, ?_, ?_, ?_, ?_, ?_, ?_, ?_, ?_, ?_, fun _ none => absurd none List.not_mem_nil⟩ <;> exact ⟨_, _, _, rfl⟩

/-- Settles O25: the shared issue reads the operands of any vector form and checks them, and then its command enters the pipe; a destination outside the
own data banks fails the first check. -/
theorem vectorIssue : Obligations.VectorIssue := by
  unfold Obligations.VectorIssue
  refine ⟨?_, ?_⟩
  · intro o c arr msk pat8 m d a e km1 rowsM1 s t i _ f pd pa pb hf ready k D A B n free placed
    have issued := exec_vForm_placed hf ready free placed
    have live : (vEnqueue s s.cur.core (f.command i s t pd pa pb)).thread s.cur.core s.cur.slot = some t := ready.issues
    refine ⟨_, f.command i s t pd pa pb, issued, modThread_live live _, modThread_mem .., rfl, rfl, rfl, rfl, rfl, rfl, rfl, rfl, rfl, ?_, ?_⟩
    · intro empty
      rw [setWait_core, vEnqueue_core, if_pos empty]
      exact ⟨rfl, free⟩
    · intro busy
      rw [setWait_core, vEnqueue_core, if_neg busy]
      exact ⟨rfl, rfl⟩
  · intro o c s t ready free D base outside i listed
    obtain ⟨k, ok, readsD, hf⟩ := vForm_twoSource o c i listed
    exact exec_vForm_faults hf ready free (placeOps_outside (ownBank_outside outside))

end Sys2Proof.Machine
end

section
/-! What the steps of an issue leave: a register written as the instruction ends, a thread changed, the mark of a fence, and a future placed (R40, R95, R121). -/
namespace Sys2Proof.Machine

variable {s s' : State} {t : Thread} {c sl n : Nat}

/-! A slot and its thread written again. -/

theorem setSlot_same (w : Tidy s) : s.setSlot c sl (s.slot c sl) = s := by
  have same : tset SlotSt.reset s.slots (slotKey c sl) (s.slot c sl) = s.slots := by
    refine twf_ext (twf_tset w.slots ..) w.slots fun k => ?_
    by_cases e : k = slotKey c sl
    · rw [e]
      exact tget_tset_self w.slots ..
    · exact tget_tset_ne w.slots e _
  rw [State.setSlot, same]

/-- A change that leaves the thread as it is leaves the state as it is. -/
theorem modThread_same (w : Tidy s) (h : s.thread c sl = some t) {f : Thread → Thread} (keeps : f t = t) : s.modThread c sl f = s := by
  rw [State.modThread, h]
  dsimp only
  rw [keeps, ← h]
  exact setSlot_same w

theorem slot_modThread (h : s.thread c sl = some t) (f : Thread → Thread) :
    (s.modThread c sl f).slot c sl = { s.slot c sl with thread := some (f t) } := by
  rw [State.modThread, h]
  exact slot_setSlot_live c sl (by simp)

theorem clu_of_clus (h : s'.clus = s.clus) : s'.clu = s.clu := by
  funext n
  rw [State.clu, h]
  rfl

theorem modThread_cur (s : State) (c sl : Nat) (f : Thread → Thread) : (s.modThread c sl f).cur = s.cur := by
  unfold State.modThread
  split <;> rfl

/-- A change of the issuing thread turns it alone. -/
theorem turns_modThread (h : Issues s t) (f : Thread → Thread) : Turns s (s.modThread s.cur.core s.cur.slot f) (f t) := by
  have live : s.thread s.cur.core s.cur.slot = some t := h
  refine ⟨slot_modThread live f, ?_, modThread_mem ..⟩
  rw [State.modThread, live]
  exact ⟨rfl, fun _ _ ne => slot_setSlot_ne_live ne (by simp)⟩

/-! The PC past an instruction (R121). -/

theorem passed_flags (s : State) (t : Thread) (n : Nat) : (passed s t n).flags = t.flags := by
  unfold passed
  split
  · rfl
  · split <;> rfl

/-- PEND is no matter to the advance of the PC. -/
theorem passed_pend (s : State) (t : Thread) (n : Nat) (p : BitVec 32) : passed s { t with pend := p } n = { passed s t n with pend := p } := by
  unfold passed
  split
  · rfl
  · dsimp only
    split <;> rfl

/-- Where the PC goes depends on the slot that issues alone. -/
theorem passed_of_cur (h : s'.cur = s.cur) (t : Thread) (n : Nat) : passed s' t n = passed s t n := by
  rw [passed, h]
  rfl

theorem slot_pass (h : Issues s t) : (s.pass n).slot s.cur.core s.cur.slot = { s.slot s.cur.core s.cur.slot with thread := some (passed s t n) } :=
  slot_modThread h _

/-- A register written as the instruction ends: the value stands, the slot holds the rest, and nothing else changed. -/
theorem sets_pass {d : WReg} (w : Tidy s) (h : Issues s t) (v : Word) :
    Sets s ((s.setReg s.cur.core s.cur.slot d.val v).pass n) t d v (passed s t n) := by
  have live : s.thread s.cur.core s.cur.slot = some t := h
  have live1 : (s.setReg s.cur.core s.cur.slot d.val v).thread s.cur.core s.cur.slot = some { t with pend := clrBit t.pend d.val } := by
    rw [setReg_live live, setW64_thread, State.thread, slot_setSlot_live _ _ (by simp)]
  have same : (s.setReg s.cur.core s.cur.slot d.val v).modThread s.cur.core s.cur.slot (fun x => { x with flags := t.flags })
      = s.setReg s.cur.core s.cur.slot d.val v := modThread_same (w.setReg ..) live1 rfl
  have sets := sets_of (d := d) (n := n) w h v t.flags
  rwa [same, ← passed_flags s t n] at sets

/-! The mark of a fence (R95). -/

/-- Nothing changed but what the write buffers hold. -/
structure OnlyBuffers (s s' : State) : Prop where
  rest : s' = { s with cores := s'.cores }
  core : ∀ c, s'.core c = { s.core c with wbuf := (s'.core c).wbuf }

theorem OnlyBuffers.refl (s : State) : OnlyBuffers s s := ⟨rfl, fun _ => rfl⟩

theorem OnlyBuffers.trans {q : State} (h : OnlyBuffers s s') (k : OnlyBuffers s' q) : OnlyBuffers s q := by
  refine ⟨?_, fun c => ?_⟩
  · rw [k.rest, h.rest]
  · rw [k.core, h.core]

theorem onlyBuffers_markAt (w : Tidy s) (b c : Nat) (tid : Word) (sc : Scope) : OnlyBuffers s (markAt s b c tid sc) := by
  unfold markAt
  split
  · exact .refl s
  · refine ⟨rfl, fun a => ?_⟩
    by_cases e : a = b
    · rw [e, core_setCore_self w]
    · rw [core_setCore_ne w e]

theorem onlyBuffers_marks (c : Nat) (sc : Scope) : ∀ (l : List (Nat × Word)) {s : State}, Tidy s →
    OnlyBuffers s (l.foldl (fun s e => markAt s e.1 c e.2 sc) s)
  | [], s, _ => .refl s
  | e :: l, _, w => (onlyBuffers_markAt w e.1 c e.2 sc).trans (onlyBuffers_marks c sc l w.markAt)

/-- A fence of a thread marks write buffers alone. -/
theorem onlyBuffers_markBy (w : Tidy s) (c : Nat) (tid : Word) (sc : Scope) : OnlyBuffers s (markBy s c tid sc) :=
  (onlyBuffers_markAt w c c tid sc).trans (onlyBuffers_marks c sc _ w.markAt)

theorem OnlyBuffers.mem (h : OnlyBuffers s s') : s'.mem = s.mem := by rw [h.rest]
theorem OnlyBuffers.slots (h : OnlyBuffers s s') : s'.slots = s.slots := by rw [h.rest]
theorem OnlyBuffers.cur (h : OnlyBuffers s s') : s'.cur = s.cur := by rw [h.rest]

theorem OnlyBuffers.clu (h : OnlyBuffers s s') : s'.clu = s.clu := clu_of_clus (by rw [h.rest])

theorem OnlyBuffers.slot (h : OnlyBuffers s s') : s'.slot = s.slot := by
  rw [h.rest]
  rfl

theorem OnlyBuffers.tid (h : OnlyBuffers s s') : s'.tid = s.tid := by
  rw [h.rest]
  rfl

theorem OnlyBuffers.issues (h : OnlyBuffers s s') (i : Issues s t) : Issues s' t := by
  rw [h.rest]
  exact i

theorem OnlyBuffers.tenantOf (h : OnlyBuffers s s') (c : Nat) : s'.tenantOf c = s.tenantOf c := by
  rw [State.tenantOf, h.core]
  rfl

theorem OnlyBuffers.fmt (h : OnlyBuffers s s') (c k : Nat) : s'.fmt c k = s.fmt c k := by
  rw [State.fmt, h.core]
  rfl

/-- Where an operand stands does not depend on the write buffers. -/
theorem OnlyBuffers.bankAt (h : OnlyBuffers s s') (tenant : Nat) (va : Word) : bankAt s' tenant va = bankAt s tenant va := by
  have hw (slot v : Nat) : walk s' slot v = walk s slot v := by
    rw [h.rest]
    exact walkFrom_congr (s := s) (s' := { s with cores := s'.cores }) rfl rfl rfl v 5 _ 0
  unfold Machine.bankAt
  simp only [hw]
  rw [h.rest]
  rfl

/-- The format of a side does not depend on the write buffers. -/
theorem OnlyBuffers.sideFmt (h : OnlyBuffers s s') (bank : Option (Nat × Nat)) (code : Nat) : sideFmt s' bank code = sideFmt s bank code := by
  cases bank with
  | none => rfl
  | some p => exact h.fmt ..

/-! A future placed in a register (R40). -/

theorem setBit_clrBit (p : BitVec 32) (n : Nat) : setBit (clrBit p n) n = setBit p n := by
  unfold setBit clrBit
  ext i hi
  simp only [BitVec.getElem_or, BitVec.getElem_and, BitVec.getElem_not]
  cases p[i] <;> cases (BitVec.ofNat 32 (2 ^ n))[i] <;> rfl

/-- State `s'` has a new future's handle `h` in register `d` of the thread of a slot, with PEND set and the slot's number counted; neither a cluster nor
the choice of the slot that issues has changed. -/
structure FuturePlaced (s s' : State) (c sl d : Nat) (t : Thread) (h : Word) : Prop where
  slot : s'.slot c sl = { s.slot c sl with
    seq := ((s.slot c sl).seq + 1) % 65536, ctime := tset 0 (s.slot c sl).ctime d 0, thread := some { t with pend := setBit t.pend d } }
  mem : s'.mem = (s.setW64 (regKey c t.wp d) h).mem
  clus : s'.clus = s.clus
  cur : s'.cur = s.cur

/-- A future placed leaves the thread its identifier. -/
theorem FuturePlaced.tid {d : Nat} {h : Word} (left : FuturePlaced s s' c sl d t h) (live : s.thread c sl = some t) : s'.tid c sl = s.tid c sl := by
  rw [State.tid, thread_of_slot left.slot, State.tid, live]

/-- The state with a handle in a register of the thread of a slot, and the slot's number counted. -/
def handleWritten (s : State) (c sl d : Nat) (h : Word) : State :=
  ((s.setSlot c sl { s.slot c sl with seq := ((s.slot c sl).seq + 1) % 65536 }).setReg c sl d h).modThread c sl (fun t => { t with pend := setBit t.pend d })

theorem handleWritten_placed (live : s.thread c sl = some t) (d : Nat) (h : Word) : FuturePlaced s (handleWritten s c sl d h) c sl d t h := by
  have live0 : (s.slot c sl).thread = some t := live
  have slot1 : (s.setSlot c sl { s.slot c sl with seq := ((s.slot c sl).seq + 1) % 65536 }).slot c sl
      = { s.slot c sl with seq := ((s.slot c sl).seq + 1) % 65536 } := slot_setSlot_live c sl (by simp [live0])
  have live1 := (thread_of_slot slot1).trans live0
  have slot2 : ((s.setSlot c sl { s.slot c sl with seq := ((s.slot c sl).seq + 1) % 65536 }).setReg c sl d h).slot c sl = { s.slot c sl with
      seq := ((s.slot c sl).seq + 1) % 65536, ctime := tset 0 (s.slot c sl).ctime d 0, thread := some { t with pend := clrBit t.pend d } } := by
    rw [setReg_live live1, setW64_slot, slot_setSlot_live _ _ (by simp), slot1]
  unfold handleWritten
  refine ⟨?_, ?_, ?_, ?_⟩
  · rw [slot_modThread (thread_of_slot slot2), slot2, setBit_clrBit]
  · rw [modThread_mem, setReg_live live1]
    rfl
  · rw [modThread_clus, setReg_live live1]
    rfl
  · rw [modThread_cur, setReg_cur]
    rfl

/-- Placing a future writes its handle and lists it among the futures. -/
theorem placeFuture_eq (live : s.thread c sl = some t) (srck d : Nat) :
    ∃ e, placeFuture s c sl srck d = ({ handleWritten s c sl d (futHandle srck c sl (s.slot c sl).seq) with eng := e }, futHandle srck c sl (s.slot c sl).seq) := by
  unfold placeFuture
  rw [live]
  exact ⟨_, rfl⟩

theorem newFuture_placed {d : WReg} (h : Issues s t) (srck : Nat) :
    let v := futHandle srck s.cur.core s.cur.slot (s.slot s.cur.core s.cur.slot).seq
    ∃ s', newFuture srck d s = .ok (v, s') ∧ FuturePlaced s s' s.cur.core s.cur.slot d.val t v := by
  intro v
  obtain ⟨e, placed⟩ := placeFuture_eq h srck d.val
  obtain ⟨slot, mem, clus, cur⟩ := handleWritten_placed h d.val v
  refine ⟨{ handleWritten s s.cur.core s.cur.slot d.val v with eng := e }, ?_, slot, mem, clus, cur⟩
  rw [newFuture, step1, placed]

end Sys2Proof.Machine
end

section
/-! The issue of the matrix array's instructions: what a command that passes its checks leaves in its cluster's queue, the faults and the wait for a place,
and the reads of a descriptor and of the row progress (R215-R219, R223), with the statement about them (O33). -/
namespace Sys2Proof.Machine

variable {s s1 : State} {t : Thread} {i : Instr} {m : MmaOp}

/-- A descriptor is valid where its top bit is set (R214). -/
theorem dValid_eq (d : Word) : dValid d = d.getLsbD 63 := by
  rw [dValid, bit, BitVec.getLsbD, Nat.testBit_eq_decide_div_mod_eq]
  exact Bool.beq_eq_decide_eq ..

/-! Checks and the place in the queue, in the order in which every command meets them (R216, R217). -/

/-- A command of the array from its checks on: the fault of the one that fails, the wait for a place, and then `enter`. -/
def arrayIssue (bad : Option (Nat × Nat × Nat)) (enter : M Unit) : M Unit := do
  mNeed bad
  needArr
  enter

theorem needArr_full (full : arrTaken (s.clu (cluOf s.cur.core)) = true) : needArr s = .error (.wait .arrayFull s) := by
  unfold needArr
  rw [bind_ok (me_ok s)]
  dsimp only
  rw [bind_ok (m := ask _) (a := true) (by rw [ask, full])]
  rfl

theorem needArr_free (free : arrTaken (s.clu (cluOf s.cur.core)) = false) : needArr s = .ok ((), s) := by
  unfold needArr
  rw [bind_ok (me_ok s)]
  dsimp only
  rw [bind_ok (m := ask _) (a := false) (by rw [ask, free])]
  rfl

/-- A check that fails is the fault of its cause, REASON and OPND (R217). -/
theorem arrayIssue_faults (x : Nat × Nat × Nat) (enter : M Unit) :
    run (arrayIssue (some x) enter) s = .next (takeTrap s s.cur.core s.cur.slot x.1 (mInfo x.2.1 x.2.2)) := by
  apply run_trap
  exact bind_stop rfl

/-- A full queue makes the thread wait for a place, and nothing else changes (R216). -/
theorem arrayIssue_waits (h : Issues s t) (full : arrTaken (s.clu (cluOf s.cur.core)) = true) (enter : M Unit) :
    ∃ s', run (arrayIssue none enter) s = .next s' ∧ Turns s s' { t with wait := .arrayFull } := by
  refine ⟨_, run_wait (m := arrayIssue none enter) (w := .arrayFull) (s' := s) ?_, turns_modThread h _⟩
  exact (bind_ok rfl).trans (bind_stop (needArr_full full))

theorem arrayIssue_enters (free : arrTaken (s.clu (cluOf s.cur.core)) = false) (enter : M Unit) : arrayIssue none enter s = enter s :=
  (bind_ok rfl).trans (bind_ok (needArr_free free))

/-! What enters the queue. -/

theorem cmdFence_ok (w : Tidy s) (r : OrdScope) : ∃ s1, cmdFence r s = .ok ((), s1) ∧ OnlyBuffers s s1 ∧ Tidy s1 := by
  unfold cmdFence
  split
  · exact ⟨_, rfl, onlyBuffers_markBy w .., w.markBy⟩
  · exact ⟨s, rfl, .refl s, w⟩

theorem pushArr_arrQ (w : Tidy s) (a : ArrCmd) : ((pushArr s a).clu (cluOf a.core)).arrQ = (s.clu (cluOf a.core)).arrQ ++ [a] := by
  rw [pushArr, clu_setClu_self w]

/-- The formats of A and B do not depend on the write buffers. -/
theorem OnlyBuffers.mmaFmts (h : OnlyBuffers s s1) (tenant : Nat) (m : MmaOp) (av bv : Word) : mmaFmts s1 tenant m av bv = mmaFmts s tenant m av bv := by
  simp only [Machine.mmaFmts, h.bankAt, h.sideFmt]

/-! MCFG and MZERO (R215-R218). -/

/-- The synchronous command of an instruction as it enters the queue, with the operand that it has read. -/
def syncCmd (i : Instr) (s : State) (t : Thread) (v : Word) : ArrCmd :=
  ⟨i, s.cur.core, s.cur.slot, s.tid s.cur.core s.cur.slot, 0, 0, t.rmode, t.kernel, v, 0, 0, 0, 0, 0, false⟩

/-- A synchronous command issued in state `q` enters the queue, and its thread waits for the array. -/
def syncEnter (i : Instr) (r : OrdScope) (q : State) (t : Thread) (v : Word) : M Unit := do
  cmdFence r
  upd (fun s => pushArr s { syncCmd i q t v with tid := s.tid q.cur.core q.cur.slot })
  waitOn .array

theorem exec_mcfg {keep : Bool} {tl : Fin 4} {a : WReg} {r : OrdScope} (h : Ready s t [a]) :
    exec (.mcfg keep tl a r) s = run (arrayIssue (mcfgCheck s (cluOf s.cur.core) tl.val (opnd s t a))
      (syncEnter (.mcfg keep tl a r) r s t (opnd s t a))) s := by
  have inPart : InPart s (([(1, a)] : List FReg).map Prod.snd) := h.part
  show execMcfg keep tl a r s = _
  unfold execMcfg run
  rw [bind_ok (me_ok s)]
  dsimp only
  rw [bind_ok (chk_ok inPart), bind_ok (rd_ok h (List.mem_singleton.2 rfl)), bind_ok (th_ok h.issues),
    bind_ok (m := ask _) (a := mcfgCheck s (cluOf s.cur.core) tl.val (opnd s t a)) rfl]
  rfl

theorem exec_mzero {tl : Fin 4} {r : OrdScope} (h : Issues s t) :
    exec (.mzero tl r) s = run (arrayIssue (if (s.tile (cluOf s.cur.core) tl.val).getLsbD 63 then none else some (0x07, 1, 4))
      (syncEnter (.mzero tl r) r s t 0)) s := by
  show execMzero tl r s = _
  unfold execMzero run
  rw [bind_ok (me_ok s)]
  dsimp only
  rw [bind_ok (th_ok h), bind_ok (m := ask _) (a := s.tile (cluOf s.cur.core) tl.val) rfl, dValid_eq]
  rfl

/-- A synchronous command goes into the queue of its cluster, its thread waits, and memory is as it was (R216). -/
theorem syncEnter_queued (w : Tidy s) (h : Issues s t) (free : arrTaken (s.clu (cluOf s.cur.core)) = false) (i : Instr) (v : Word) (r : OrdScope) :
    ∃ s', run (arrayIssue none (syncEnter i r s t v)) s = .next s' ∧ s'.mem = s.mem ∧
      s'.thread s.cur.core s.cur.slot = some { t with wait := .array } ∧
      (s'.clu (cluOf s.cur.core)).arrQ = (s.clu (cluOf s.cur.core)).arrQ ++ [syncCmd i s t v] := by
  obtain ⟨s1, fenced, marks, w1⟩ := cmdFence_ok w r
  have entered : arrayIssue none (syncEnter i r s t v) s
      = .error (.wait .array (pushArr s1 (syncCmd i s t v))) := by
    rw [arrayIssue_enters free, syncEnter, bind_ok fenced, bind_ok (m := upd _) rfl, marks.tid]
    rfl
  refine ⟨_, run_wait entered, ?_, ?_, ?_⟩
  · exact (modThread_mem ..).trans marks.mem
  · exact modThread_live (t := t) ((thread_of_slots (s' := pushArr s1 _) marks.slots ..).trans h) _
  · rw [setWait, clu_of_clus (modThread_clus ..), ← marks.clu]
    exact pushArr_arrQ w1 (syncCmd i s t v)

/-! MMA and MMAS (R216, R219, R228). -/

/-- The registers that a multiply-accumulate reads. -/
def MmaOp.sources (m : MmaOp) : List WReg := [m.o.a, m.o.b, m.o.e] ++ (if m.useF then [m.o.f] else [])

/-- The source kind of a multiply-accumulate's future (R207). -/
def MmaOp.srck (m : MmaOp) : Nat := if m.sparse then 2 else 1

theorem MmaOp.mem_sources_f (u : m.useF = true) : m.o.f ∈ m.sources := by simp [MmaOp.sources, u]

/-- The register fields that a multiply-accumulate uses are its destination's and its sources' (R115). -/
theorem MmaOp.fields_regs (m : MmaOp) : m.fields.map Prod.snd = m.o.d :: m.sources := by
  cases u : m.useF <;> simp [MmaOp.fields, MmaOp.sources, u]

/-- The command of a multiply-accumulate as it enters the queue, with the operands and formats read at its issue. -/
def MmaOp.command (m : MmaOp) (i : Instr) (s : State) (t : Thread) (h : Word) : ArrCmd :=
  let f := mmaFmts s (s.tenantOf s.cur.core) m (opnd s t m.o.a) (opnd s t m.o.b)
  ⟨i, s.cur.core, s.cur.slot, s.tid s.cur.core s.cur.slot, h, fld h 25 16, t.rmode, t.kernel, opnd s t m.o.a, opnd s t m.o.b, opnd s t m.o.e,
    sourceOpnd s t m.useF m.o.f, f.1, f.2, false⟩

theorem MmaOp.command_fmts (m : MmaOp) (i : Instr) (s : State) (t : Thread) (h : Word) : ((m.command i s t h).fa, (m.command i s t h).fb)
    = mmaFmts s (s.tenantOf s.cur.core) m (opnd s t m.o.a) (opnd s t m.o.b) := by
  dsimp only [MmaOp.command]

/-- A multiply-accumulate issued in state `q` enters the queue: its future is placed and its thread goes on. -/
def mmaEnter (i : Instr) (m : MmaOp) (q : State) (t : Thread) : M Unit := do
  cmdFence m.r
  let f ← ask (fun s => mmaFmts s (s.tenantOf q.cur.core) m (opnd q t m.o.a) (opnd q t m.o.b))
  let h ← newFuture m.srck m.o.d
  upd (fun s => pushArr s { m.command i q t h with tid := s.tid q.cur.core q.cur.slot, fa := f.1, fb := f.2 })
  fin 16

/-- The checks of a multiply-accumulate on the operands that the issuing thread holds (R217). -/
def MmaOp.bad (m : MmaOp) (s : State) (t : Thread) : Option (Nat × Nat × Nat) :=
  mmaCheck s (s.tenantOf s.cur.core) (cluOf s.cur.core) m (opnd s t m.o.a) (opnd s t m.o.b) (opnd s t m.o.e) (sourceOpnd s t m.useF m.o.f)

theorem mmaIssue_enters (h : Ready s t m.sources) (dst : Dst s t m.o.d) :
    mmaIssue i m s = arrayIssue (m.bad s t) (mmaEnter i m s t) s := by
  have inPart : InPart s (m.fields.map Prod.snd) := by
    rw [m.fields_regs]
    exact List.forall_mem_cons.2 ⟨dst.part, h.part⟩
  have readF : (if m.useF then rd m.o.f else pure 0) s = .ok (sourceOpnd s t m.useF m.o.f, s) := by
    cases u : m.useF
    · rfl
    · exact rd_ok h (MmaOp.mem_sources_f u)
  unfold mmaIssue
  rw [bind_ok (me_ok s)]
  dsimp only
  rw [bind_ok (chk_ok inPart), bind_ok (rd_ok (r := m.o.a) h (by simp [MmaOp.sources])), bind_ok (rd_ok (r := m.o.b) h (by simp [MmaOp.sources])),
    bind_ok (rd_ok (r := m.o.e) h (by simp [MmaOp.sources])), bind_ok readF, bind_ok (needDst_ok h.issues dst), bind_ok (th_ok h.issues),
    bind_ok (m := ask _) (a := m.bad s t) rfl]
  rfl

/-- With its operands read, a multiply-accumulate marks its fence, places its future, and enters the queue with the formats of its issue (R63, R216, R219). -/
theorem mmaEnter_ok (w : Tidy s) (h : Issues s t) (i : Instr) (m : MmaOp) :
    let v := futHandle m.srck s.cur.core s.cur.slot (s.slot s.cur.core s.cur.slot).seq
    ∃ s1 s2, OnlyBuffers s s1 ∧ Tidy s2 ∧ FuturePlaced s1 s2 s.cur.core s.cur.slot m.o.d.val t v ∧
      mmaEnter i m s t s = .ok ((), (pushArr s2 (m.command i s t v)).pass 16) := by
  intro v
  obtain ⟨s1, fenced, marks, w1⟩ := cmdFence_ok w m.r
  obtain ⟨s2, placed, left⟩ := newFuture_placed (d := m.o.d) (marks.issues h) m.srck
  rw [marks.cur, marks.slot] at placed left
  have tid : s2.tid s.cur.core s.cur.slot = s.tid s.cur.core s.cur.slot :=
    (left.tid ((thread_of_slots marks.slots ..).trans h)).trans (by rw [marks.tid])
  have fmts : mmaFmts s1 (s1.tenantOf s.cur.core) m (opnd s t m.o.a) (opnd s t m.o.b) = mmaFmts s (s.tenantOf s.cur.core) m (opnd s t m.o.a) (opnd s t m.o.b) := by
    rw [marks.tenantOf, marks.mmaFmts]
  have w2 : Tidy s2 := by
    have kept := (keeps_newFuture (srck := m.srck) (d := m.o.d)).res s1 w1
    rw [placed] at kept
    exact kept
  refine ⟨s1, s2, marks, w2, left, ?_⟩
  rw [mmaEnter, bind_ok fenced, bind_ok (m := ask _) rfl, bind_ok placed, fmts, bind_ok (m := upd _) rfl, tid]
  rfl

/-- A multiply-accumulate that passes its checks leaves its future in the destination and its command in the queue, and its thread goes on (R216, R219). -/
theorem mmaEnter_queued (w : Tidy s) (h : Issues s t) (i : Instr) (m : MmaOp) :
    let c := s.cur.core
    let sl := s.cur.slot
    let v := futHandle m.srck c sl (s.slot c sl).seq
    ∃ s', mmaEnter i m s t s = .ok ((), s') ∧ opnd s' t m.o.d = v ∧
      s'.thread c sl = some { passed s t 16 with pend := setBit t.pend m.o.d.val } ∧ (s'.slot c sl).seq = ((s.slot c sl).seq + 1) % 65536 ∧
      (s'.clu (cluOf c)).arrQ = (s.clu (cluOf c)).arrQ ++ [m.command i s t v] ∧ MemBut s s' (winKey c (t.wp + 8 * m.o.d.val)) 8 := by
  intro c sl v
  obtain ⟨s1, s2, marks, w2, left, entered⟩ := mmaEnter_ok w h i m
  have cur3 : (pushArr s2 (m.command i s t v)).cur = s.cur := left.cur.trans marks.cur
  have live3 : Issues (pushArr s2 (m.command i s t v)) { t with pend := setBit t.pend m.o.d.val } := by
    rw [Issues, cur3]
    exact thread_of_slot left.slot
  have slot4 := slot_pass (n := 16) live3
  rw [cur3, passed_of_cur cur3, passed_pend] at slot4
  have mem4 : ((pushArr s2 (m.command i s t v)).pass 16).mem = (s.setW64 (winKey c (t.wp + 8 * m.o.d.val)) v).mem := by
    rw [State.pass, modThread_mem]
    refine left.mem.trans ?_
    rw [State.setW64, marks.mem]
    rfl
  have cur4 : ((pushArr s2 (m.command i s t v)).pass 16).cur = s.cur := (modThread_cur ..).trans cur3
  refine ⟨_, entered, ?_, thread_of_slot slot4, ?_, ?_, ?_⟩
  · rw [opnd, mem4, cur4]
    exact w64_setW64_self w _ v
  · refine (congrArg SlotSt.seq slot4).trans ((congrArg SlotSt.seq left.slot).trans ?_)
    rw [marks.slot]
  · rw [State.pass, clu_of_clus (modThread_clus ..), ← marks.clu, ← clu_of_clus left.clus]
    exact pushArr_arrQ w2 (m.command i s t v)
  · intro k out
    rw [mem4]
    exact byteAt_setW64_out w out v

/-- MMA and MMAS, each with its command, the source kind of its future and whether it reads F (R207, R219), are performed by the shared issue. -/
theorem mmaForms_issue (sc pp pat8 : Bool) (o : MOps) (r : OrdScope) :
    ∀ p ∈ ([(.mma sc pp o r, ⟨o, sc, pp, false, false, r⟩, 1, sc), (.mmas pat8 o r, ⟨o, false, false, true, pat8, r⟩, 2, true)] :
      List (Instr × MmaOp × Nat × Bool)),
      p.2.1.o = o ∧ p.2.1.srck = p.2.2.1 ∧ p.2.1.useF = p.2.2.2 ∧ ∀ s, exec p.1 s = run (mmaIssue p.1 p.2.1) s := by
  refine List.forall_mem_cons.2 ⟨?_, List.forall_mem_singleton.2 ?_⟩
  · exact ⟨rfl, rfl, Bool.or_false sc, fun _ => rfl⟩
  · exact ⟨rfl, rfl, rfl, fun _ => rfl⟩

/-! MSTAT and MPROG (R214, R215, R223). -/

/-- A word of the issuing core's cluster is read into a register. -/
def clusterRead (d : WReg) (f : State → Nat → Word) : M Unit := do
  let (c, _) ← me
  chk [(0, d)]
  needDst d
  let v ← ask (fun s => f s (cluOf c))
  wr d v
  fin 8

theorem clusterRead_sets {d : WReg} (w : Tidy s) (h : Issues s t) (dst : Dst s t d) (f : State → Nat → Word) :
    ∃ s', run (clusterRead d f) s = .next s' ∧ Sets s s' t d (f s (cluOf s.cur.core)) (passed s t 8) := by
  have inPart : InPart s (([(0, d)] : List FReg).map Prod.snd) := fun r m => List.mem_singleton.1 m ▸ dst.part
  refine ⟨_, run_ok (m := clusterRead d f) ?_, sets_pass w h _⟩
  rw [clusterRead, bind_ok (me_ok s)]
  dsimp only
  rw [bind_ok (chk_ok inPart), bind_ok (needDst_ok h dst)]
  rfl

/-- Settles O33: every command of the array meets its checks, then the full queue, and then enters; MSTAT and MPROG read a word of the cluster. -/
theorem matrixIssue : Obligations.MatrixIssue := by
  unfold Obligations.MatrixIssue
  intro keep pat8 sc pp tl d a o r s t w h
  dsimp only
  refine ⟨?_, ?_, ?_, ?_, ?_, ?_⟩
  · intro ready x fails
    rw [exec_mcfg ready, fails]
    exact arrayIssue_faults ..
  · intro ready passes
    rw [exec_mcfg ready, passes]
    refine ⟨fun free => ?_, fun full => arrayIssue_waits h full _⟩
    obtain ⟨s', run, mem, thread, queue⟩ := syncEnter_queued w h free (.mcfg keep tl a r) (opnd s t a) r
    exact ⟨s', _, run, mem, thread, queue, rfl, rfl, rfl, rfl, rfl⟩
  · intro invalid
    rw [exec_mzero h, invalid]
    exact arrayIssue_faults ..
  · intro valid
    rw [exec_mzero h, valid]
    refine ⟨fun free => ?_, fun full => arrayIssue_waits h full _⟩
    obtain ⟨s', run, mem, thread, queue⟩ := syncEnter_queued w h free (.mzero tl r) 0 r
    exact ⟨s', _, run, mem, thread, queue, rfl, rfl, rfl, rfl, rfl⟩
  · intro p listed ready dst
    obtain ⟨i, m, k, u⟩ := p
    have form := mmaForms_issue sc pp pat8 o r _ listed
    dsimp only at form ready dst ⊢
    obtain ⟨rfl, rfl, rfl, issue⟩ := form
    have checked : exec i s = run (arrayIssue (m.bad s t) (mmaEnter i m s t)) s := by
      rw [issue, run, mmaIssue_enters ready dst]
      rfl
    refine ⟨fun x fails => ?_, fun passes full => ?_, fun passes free => ?_⟩
    · rw [checked, show m.bad s t = some x from fails]
      exact arrayIssue_faults ..
    · rw [checked, show m.bad s t = none from passes]
      exact arrayIssue_waits h full _
    · rw [checked, show m.bad s t = none from passes]
      obtain ⟨s', entered, value, thread, seq, queue, mem⟩ := mmaEnter_queued w h i m
      exact ⟨s', _, _, run_ok ((arrayIssue_enters free _).trans entered), value, thread, rfl, seq, queue, rfl, rfl, rfl, rfl, rfl, rfl, rfl, m.command_fmts .., mem⟩
  · intro dst
    exact ⟨clusterRead_sets w h dst (fun s n => s.tile n tl.val), clusterRead_sets w h dst State.mprogWord⟩

end Sys2Proof.Machine
end
